-- ==== Sys2Proof/Word.lean ====
section
/-! DEFINITION. The word types of the machine (R127: 64-bit scalar registers; R248: 1,024-bit vector
registers, 32-bit masks) and bytes of memory. -/

namespace Sys2Proof

/-- A 64-bit word: a scalar register, an address, a counter, a message word. -/
abbrev Word := BitVec 64

/-- A byte of memory. -/
abbrev Byte := BitVec 8

/-- A vector register (R248). -/
abbrev Vec := BitVec 1024

/-- A mask register (R248). -/
abbrev Mask := BitVec 32

end Sys2Proof
end

