-- ==== Sys2Proof/Machine/Maps.lean ====
section
/-! DEFINITION. Keyed tables as plain data: a list of numbered entries in rising order of number, where an
absent number stands for the entry's reset value. The machine keeps its cores, quads, dies and strands so. -/

namespace Sys2Proof.Machine

/-- A table by number, in rising order. -/
abbrev KMap (α : Type) := List (Nat × α)

/-- The entry of a number; `dflt` where none is listed. -/
def KMap.get {α : Type} (m : KMap α) (k : Nat) (dflt : α) : α :=
  match m with
  | [] => dflt
  | (j, x) :: rest => if j = k then x else KMap.get rest k dflt

/-- Write the entry of a number, keeping the numbers rising. -/
def KMap.set {α : Type} (m : KMap α) (k : Nat) (v : α) : KMap α :=
  match m with
  | [] => [(k, v)]
  | (j, x) :: rest =>
    if k < j then (k, v) :: (j, x) :: rest else if j = k then (k, v) :: rest else (j, x) :: KMap.set rest k v

/-- Remove the entry of a number. -/
def KMap.erase {α : Type} (m : KMap α) (k : Nat) : KMap α := m.filter fun p => p.1 != k

/-- Change every entry listed. -/
def KMap.mapV {α : Type} (m : KMap α) (f : α → α) : KMap α := m.map fun (e : Nat × α) => (e.1, f e.2)

/-- The numbers rise. -/
def KMap.sorted {α : Type} : KMap α → Bool
  | [] => true
  | [_] => true
  | (j, _) :: (k, x) :: rest => decide (j < k) && KMap.sorted ((k, x) :: rest)

/-- Replace the element at an index of a list; nothing beyond its end. -/
def listSet {α : Type} (l : List α) (k : Nat) (v : α) : List α :=
  match l, k with
  | [], _ => []
  | _ :: rest, 0 => v :: rest
  | x :: rest, k + 1 => x :: listSet rest k v

/-- Change the element at an index of a list. -/
def listMod {α : Type} (l : List α) (k : Nat) (f : α → α) : List α :=
  match l, k with
  | [], _ => []
  | x :: rest, 0 => f x :: rest
  | x :: rest, k + 1 => x :: listMod rest k f

/-- Remove the element at an index of a list. -/
def listDel {α : Type} (l : List α) (k : Nat) : List α :=
  match l, k with
  | [], _ => []
  | _ :: rest, 0 => rest
  | x :: rest, k + 1 => x :: listDel rest k

/-- The first index whose element satisfies p. -/
def listFind {α : Type} (p : α → Bool) : List α → Option Nat
  | [] => none
  | x :: rest => if p x then some 0 else (listFind p rest).map (· + 1)

/-- The numbers from lo, n of them. -/
def upFrom (lo : Nat) : Nat → List Nat
  | 0 => []
  | n + 1 => lo :: upFrom (lo + 1) n

end Sys2Proof.Machine
end

