-- ==== Sys2Proof/Machine/Bits.lean ====
section
/-! DEFINITION. Bit fields of words, sign extension and the order of words in wide values (R28: element bit j is the
bit at address a + j). -/

namespace Sys2Proof.Machine

/-- The n bits of a word from bit lo upward, as a number. -/
def wfld (w : Word) (lo n : Nat) : Nat := w.toNat / 2 ^ lo % 2 ^ n

/-- Bit k of a word. -/
def wbit (w : Word) (k : Nat) : Bool := w.toNat / 2 ^ k % 2 == 1

/-- The n bits of a number from bit lo upward. -/
def nfld (w lo n : Nat) : Nat := w / 2 ^ lo % 2 ^ n

/-- A number as a word. -/
def ofN (n : Nat) : Word := BitVec.ofNat 64 n

/-- A Bool as the bit 0 or 1. -/
def b2n (b : Bool) : Nat := if b then 1 else 0

/-- The signed reading of the low w bits of n. -/
def toSigned (w n : Nat) : Int :=
  let x := n % 2 ^ w
  if w = 0 then 0 else if x < 2 ^ (w - 1) then (x : Int) else (x : Int) - (2 ^ w : Nat)

/-- The w-bit two's complement code of an integer. -/
def ofSigned (w : Nat) (i : Int) : Nat := (i % ((2 ^ w : Nat) : Int)).toNat

/-- The low w bits of n sign-extended to a word. -/
def sextW (w n : Nat) : Word := BitVec.ofInt 64 (toSigned w n)

/-- The low w bits of n zero-extended to a word. -/
def zextW (w n : Nat) : Word := ofN (n % 2 ^ w)

/-- Sign-extend an immediate of n bits to a word. -/
def sextI {n : Nat} (i : BitVec n) : Word := i.signExtend 64

/-- A mask of n ones from bit lo, as a number. -/
def onesAt (lo n : Nat) : Nat := (2 ^ n - 1) * 2 ^ lo

/-- The bits of `new` where the mask is one and of `old` elsewhere. -/
def mergeBits (old mask new : Word) : Word := (old &&& ~~~mask) ||| (new &&& mask)

/-- Join words, the first in the lowest bits. -/
def joinWords : List Word → Nat
  | [] => 0
  | w :: rest => w.toNat + 2 ^ 64 * joinWords rest

/-- Cut a number into n words, the lowest bits first. -/
def splitWords (x : Nat) : Nat → List Word
  | 0 => []
  | n + 1 => ofN x :: splitWords (x / 2 ^ 64) n

/-- Element e of a vector value in elements of w bits. -/
def elemOf (v : Nat) (w e : Nat) : Nat := v / 2 ^ (w * e) % 2 ^ w

/-- Join elements of w bits, the first in the lowest bits. -/
def joinElems (w : Nat) : List Nat → Nat
  | [] => 0
  | x :: rest => x % 2 ^ w + 2 ^ w * joinElems w rest

/-- The n bytes of a number, lowest first. -/
def splitBytes (x : Nat) : Nat → List Byte
  | 0 => []
  | n + 1 => BitVec.ofNat 8 x :: splitBytes (x / 256) n

/-- Join bytes, the first in the lowest bits. -/
def joinBytes : List Byte → Nat
  | [] => 0
  | b :: rest => b.toNat + 256 * joinBytes rest

/-- The number of ones among the low n bits of x. -/
def popCount (x : Nat) : Nat → Nat
  | 0 => 0
  | n + 1 => x % 2 + popCount (x / 2) n

/-- The lowest set bit among the low n bits of x; n where there is none. -/
def firstSet (x : Nat) : Nat → Nat
  | 0 => 0
  | n + 1 => if x % 2 = 1 then 0 else firstSet (x / 2) n + 1

/-- The set bits among the low n bits of x, rising, offset by k. -/
def setBits (x k : Nat) : Nat → List Nat
  | 0 => []
  | n + 1 => if x % 2 = 1 then k :: setBits (x / 2) (k + 1) n else setBits (x / 2) (k + 1) n

/-- The ceiling of a / b. -/
def ceilDiv (a b : Nat) : Nat := (a + b - 1) / b

/-- The greatest number whose square is at most x, by bits from k downward. -/
def isqrtFrom (x r : Nat) : Nat → Nat
  | 0 => r
  | k + 1 => let c := r + 2 ^ k; isqrtFrom x (if c * c ≤ x then c else r) k

/-- The integer square root. -/
def isqrt (x : Nat) : Nat := isqrtFrom x 0 (x.log2 / 2 + 1)

end Sys2Proof.Machine
end

