-- ==== Sys2Proof/Machine/Flags.lean ====
section
/-! DEFINITION. The exception flags of ctl.fflags (R79). Which of them an operation raises is computed with its result, in
Machine/Float.lean. -/

namespace Sys2Proof.Machine

/-- Invalid. -/
def flagNV : Nat := 16
/-- Division by zero. -/
def flagDZ : Nat := 8
/-- Overflow. -/
def flagOF : Nat := 4
/-- Underflow. -/
def flagUF : Nat := 2
/-- Inexact. -/
def flagNX : Nat := 1

/-- The union of two sets of flags. -/
def orFlags (a b : Nat) : Nat := Nat.lor a b

end Sys2Proof.Machine
end

