-- ==== Sys2Proof/Syntax.lean ====
section
/-! DEFINITION. The instruction set: one constructor of `Instr` per row of spec/opcode_table.json (R86 to R95),
encoded instructions with operands first, then those without, then the events of spec/95, whose operands stand in the state
(State.pick). Operand codes are turned into constructors here. -/

namespace Sys2Proof

/-- A 5-bit register field (R89): s0-s31 or v0-v31. -/
abbrev Reg := Fin 32

/-- A mask register field (R89): m0-m7. -/
abbrev MReg := Fin 8

/-- A landing tag (R98, R160). -/
abbrev Tag := Fin 64

/-- Width codes 0-8 (R90). -/
inductive Width where
  | w1 | w2 | w3 | w4 | w6 | w8 | w16 | w32 | w64
  deriving DecidableEq, Repr

/-- Scope codes 0-5 (R91). -/
inductive Scope where
  | core | quad | die | pkg | pod | sys
  deriving DecidableEq, Repr

/-- The 5-bit type codes that are not reserved (R92). -/
inductive Ty where
  | f32 | f40 | bf16 | f16 | e5m2 | e4m3 | e3m2 | e2m3 | e2m1
  | i3 | i4 | i8 | i16 | i32 | i64 | n3 | n4 | n8 | n16 | n32 | n64 | q3 | q4 | q8
  deriving DecidableEq, Repr

/-- The 4-bit lane type codes that are not reserved (R92). -/
inductive LTy where
  | f32 | bf16 | f16 | i8 | i16 | i32 | i64 | n8 | n16 | n32 | n64 | b8 | b16 | b32 | b64
  deriving DecidableEq, Repr

/-- The 2-bit type of FMA, major 0x0D (R94). -/
inductive FmaTy where
  | f32 | f40
  deriving DecidableEq, Repr

/-- The 2-bit type of major 0x27 (R94, R263). -/
inductive VfmaTy where
  | f32 | bf16 | f16
  deriving DecidableEq, Repr

/-- Branch conditions (R142). -/
inductive Cond where
  | eq | ne | lt | ge | ltn | gen | bset | bclr
  deriving DecidableEq, Repr

/-- VCMP conditions (R261). -/
inductive VCond where
  | eq | ne | lt | le
  deriving DecidableEq, Repr

/-- Fence kinds (R54, R94). -/
inductive FenceKind where
  | ll | ls | sl | ss | all
  deriving DecidableEq, Repr

/-- MSEL (R94): unmasked, m0, m1, m2. -/
inductive MSel where
  | none | m0 | m1 | m2
  deriving DecidableEq, Repr

/-- The homes of R46: a core's home unit, an HBM slice (die, slice), a weight-store bank (die, bank), a die's host
bridge, and a quad atomic unit that holds a lease. A die number counts all dies of the pod: package * 8 + die. -/
inductive HomeId where
  | core (c : Nat) | slice (die k : Nat) | bank (die b : Nat) | bridge (die : Nat) | quadUnit (q : Nat)
  deriving DecidableEq, Repr

/-- A firmware image as the boot ROM reads it (R393). -/
structure FirmwareImage where
  bytes     : List Byte
  signature : List Byte
  deriving DecidableEq, Repr

/-- The steps of the machine: the encoded instructions of R93 and the events of spec/95. -/
inductive Instr where
  /-- R128: Integer add of two scalar registers, modulo 2^64. -/
  | add (d a b : Reg)
  /-- R128: Integer subtract of two scalar registers, modulo 2^64. -/
  | sub (d a b : Reg)
  /-- R128: Low 64 bits of the product of two scalar registers. -/
  | mul (d a b : Reg)
  /-- R128: High 64 bits of the signed 128-bit product. -/
  | mulh (d a b : Reg)
  /-- R128: High 64 bits of the unsigned 128-bit product. -/
  | mulhn (d a b : Reg)
  /-- R129: Signed division truncating toward zero, never trapping. -/
  | div (d a b : Reg)
  /-- R129: Unsigned division, never trapping. -/
  | divn (d a b : Reg)
  /-- R129: Signed remainder with the sign of the dividend. -/
  | rem (d a b : Reg)
  /-- R129: Unsigned remainder. -/
  | remn (d a b : Reg)
  /-- R128: Bitwise and of two scalar registers. -/
  | and (d a b : Reg)
  /-- R128: Bitwise or of two scalar registers. -/
  | or (d a b : Reg)
  /-- R128: Bitwise exclusive or of two scalar registers. -/
  | xor (d a b : Reg)
  /-- R128: Bitwise a and not b. -/
  | andn (d a b : Reg)
  /-- R128: Shift left by b[5:0]. -/
  | shl (d a b : Reg)
  /-- R128: Logical shift right by b[5:0]. -/
  | shr (d a b : Reg)
  /-- R128: Arithmetic shift right by b[5:0]. -/
  | sra (d a b : Reg)
  /-- R128: Rotate left by b[5:0]. -/
  | rol (d a b : Reg)
  /-- R128: Signed minimum of two scalar registers. -/
  | min (d a b : Reg)
  /-- R128: Signed maximum of two scalar registers. -/
  | max (d a b : Reg)
  /-- R128: Unsigned minimum of two scalar registers. -/
  | minn (d a b : Reg)
  /-- R128: Unsigned maximum of two scalar registers. -/
  | maxn (d a b : Reg)
  /-- R128: Set d to 1 when a is less than b, signed. -/
  | slt (d a b : Reg)
  /-- R128: Set d to 1 when a is less than b, unsigned. -/
  | sltn (d a b : Reg)
  /-- R128: Set d to 1 when a equals b. -/
  | seq (d a b : Reg)
  /-- R128: Copy a to d when b is non-zero. -/
  | cmov (d a b : Reg)
  /-- R128: Count leading zeros of a. -/
  | clz (d a : Reg)
  /-- R128: Count trailing zeros of a. -/
  | ctz (d a : Reg)
  /-- R128: Count set bits of a. -/
  | popc (d a : Reg)
  /-- R130: Add a sign-extended 15-bit immediate. -/
  | addi (d a : Reg) (i : BitVec 15)
  /-- R130: Bitwise and with a sign-extended immediate. -/
  | andi (d a : Reg) (i : BitVec 15)
  /-- R130: Bitwise or with a sign-extended immediate. -/
  | ori (d a : Reg) (i : BitVec 15)
  /-- R130: Bitwise exclusive or with a sign-extended immediate. -/
  | xori (d a : Reg) (i : BitVec 15)
  /-- R130: Set d to 1 when a is less than the signed immediate. -/
  | slti (d a : Reg) (i : BitVec 15)
  /-- R131: Shift left by an immediate amount. -/
  | shli (d a : Reg) (n : Fin 64)
  /-- R131: Logical shift right by an immediate amount. -/
  | shri (d a : Reg) (n : Fin 64)
  /-- R131: Arithmetic shift right by an immediate amount. -/
  | srai (d a : Reg) (n : Fin 64)
  /-- R131: Rotate left by an immediate amount. -/
  | roli (d a : Reg) (n : Fin 64)
  /-- R132: Load a sign-extended 20-bit immediate. -/
  | limm (d : Reg) (i : BitVec 20)
  /-- R132: Shift d left by 20 and or in a 20-bit immediate. -/
  | limmh (d : Reg) (i : BitVec 20)
  /-- R133: Add an index scaled by an element width to a bit pointer. -/
  | bpadd (w : Width) (d a b : Reg)
  /-- R133: Difference of two bit pointers divided by the element width. -/
  | bpdiff (w : Width) (d a b : Reg)
  /-- R134: Build an absolute coordinate window address. -/
  | bcrd (d a b : Reg)
  /-- R134: Build a relative coordinate window address. -/
  | brel (d a b : Reg)
  /-- R134: Build a quad-striped window address. -/
  | bstripe (d a b : Reg)
  /-- R135: Convert a bit address to a byte address. -/
  | b2byte (d a : Reg)
  /-- R135: Convert a byte address to a bit address. -/
  | byte2b (d a : Reg)
  /-- R136: Decode the window kind, offset or core of an address. -/
  | bwin (s : Fin 3) (d a : Reg)
  /-- R133: Align a bit pointer down to the element width. -/
  | balign (w : Width) (d a : Reg)
  /-- R133: Add an immediate scaled by an element width to a bit pointer. -/
  | bpaddi (w : Width) (d a : Reg) (i : BitVec 11)
  /-- R138: Scalar floating-point add, rounded once. -/
  | fadd (t : Ty) (d a b : Reg)
  /-- R138: Scalar floating-point subtract, rounded once. -/
  | fsub (t : Ty) (d a b : Reg)
  /-- R138: Scalar floating-point multiply, rounded once. -/
  | fmul (t : Ty) (d a b : Reg)
  /-- R138: Scalar floating-point divide, rounded once. -/
  | fdiv (t : Ty) (d a b : Reg)
  /-- R138: Scalar floating-point square root, rounded once. -/
  | fsqrt (t : Ty) (d a : Reg)
  /-- R139: Scalar floating-point minimum. -/
  | fmin (t : Ty) (d a b : Reg)
  /-- R139: Scalar floating-point maximum. -/
  | fmax (t : Ty) (d a b : Reg)
  /-- R139: Floating-point equality compare. -/
  | fcmpeq (t : Ty) (d a b : Reg)
  /-- R139: Floating-point less-than compare. -/
  | fcmplt (t : Ty) (d a b : Reg)
  /-- R139: Floating-point less-or-equal compare. -/
  | fcmple (t : Ty) (d a b : Reg)
  /-- R140: Convert between scalar floating-point and integer types. -/
  | fcvt (t s : Ty) (d a : Reg)
  /-- R139: Classify a floating-point operand into a one-hot mask. -/
  | fclass (t : Ty) (d a : Reg)
  /-- R141: Fused multiply-add rounded once. -/
  | fma (t : FmaTy) (d a b c : Reg)
  /-- R142: Conditional pc-relative branch. -/
  | brc (c : Cond) (a b : Reg) (o : BitVec 12)
  /-- R143: pc-relative jump with link. -/
  | jal (d : Reg) (o : BitVec 20)
  /-- R143: Jump to the address in a register. -/
  | jr (a : Reg)
  /-- R143: Jump to a register address with link. -/
  | jalr (d a : Reg)
  /-- R144: Decrement a count register and branch back while non-zero. -/
  | loop (c : Reg) (o : BitVec 14)
  /-- R276: Branch back while the tail stream has elements left, advancing the tail state. -/
  | loops (o : BitVec 14)
  /-- R146: Synchronous load of any width into a scalar register. -/
  | ld (w : Width) (x : Bool) (d a : Reg) (o : BitVec 10)
  /-- R147: Store of any width into the region buffer. -/
  | st (w : Width) (d a : Reg) (o : BitVec 10)
  /-- R150: Load 1,024 bits into a vector register. -/
  | ldv (w : Width) (d a : Reg) (o : BitVec 9)
  /-- R150: Store a vector register's 1,024 bits. -/
  | stv (w : Width) (d a : Reg) (o : BitVec 9)
  /-- R151: Indexed gather load into a vector register. -/
  | ldvx (w : Width) (d a i : Reg)
  /-- R151: Indexed scatter store from a vector register. -/
  | stvx (w : Width) (d a i : Reg)
  /-- R194: Load that is also an acquire at its scope. -/
  | ldAcq (w : Width) (x : Bool) (s : Scope) (d a : Reg) (o : BitVec 6)
  /-- R194: Store that is also a release at its scope. -/
  | stRel (w : Width) (s : Scope) (d a : Reg) (o : BitVec 6)
  /-- R172: Tagged load whose value lands in a landing slot. -/
  | ldt (w : Width) (x : Bool) (t : Tag) (a i : Reg)
  /-- R173: Tagged vector load into a landing slot. -/
  | ldtv (w : Width) (t : Tag) (a i : Reg)
  /-- R174: Return the earliest-arrived landed or faulted slot of all tags. -/
  | take (d a : Reg)
  /-- R174: Take among the slots named by a mask. -/
  | takem (d a b : Reg)
  /-- R174: Take a single named slot. -/
  | taket (d a b : Reg)
  /-- R176: Query the landing set by state mask or per-tag info word. -/
  | lsq (d a : Reg)
  /-- R177: Resend the loads of the named faulted slots. -/
  | lsreissue (a : Reg)
  /-- R178: Discard or drop the named slots. -/
  | lsclr (a : Reg)
  /-- R179: Block until no named slot is pending. -/
  | lswait (a : Reg)
  /-- R180: Send a base-2 exponential request to the quad SFU. -/
  | sfuExp2 (t : Tag) (a : Reg)
  /-- R180: Send a base-2 logarithm request to the quad SFU. -/
  | sfuLog2 (t : Tag) (a : Reg)
  /-- R180: Send a reciprocal request to the quad SFU. -/
  | sfuRcp (t : Tag) (a : Reg)
  /-- R180: Send a reciprocal square root request to the quad SFU. -/
  | sfuRsq (t : Tag) (a : Reg)
  /-- R180: Send a sine request to the quad SFU. -/
  | sfuSin (t : Tag) (a : Reg)
  /-- R180: Send a cosine request to the quad SFU. -/
  | sfuCos (t : Tag) (a : Reg)
  /-- R180: Send a hyperbolic tangent request to the quad SFU. -/
  | sfuTanh (t : Tag) (a : Reg)
  /-- R180: Send an error-function request to the quad SFU. -/
  | sfuErf (t : Tag) (a : Reg)
  /-- R196: Returning atomic add. -/
  | amoAdd (y : Bool) (w : Width) (d a b : Reg)
  /-- R196: Returning atomic and. -/
  | amoAnd (y : Bool) (w : Width) (d a b : Reg)
  /-- R196: Returning atomic or. -/
  | amoOr (y : Bool) (w : Width) (d a b : Reg)
  /-- R196: Returning atomic exclusive or. -/
  | amoXor (y : Bool) (w : Width) (d a b : Reg)
  /-- R196: Returning atomic signed minimum. -/
  | amoMin (y : Bool) (w : Width) (d a b : Reg)
  /-- R196: Returning atomic signed maximum. -/
  | amoMax (y : Bool) (w : Width) (d a b : Reg)
  /-- R196: Returning atomic unsigned minimum. -/
  | amoMinn (y : Bool) (w : Width) (d a b : Reg)
  /-- R196: Returning atomic unsigned maximum. -/
  | amoMaxn (y : Bool) (w : Width) (d a b : Reg)
  /-- R196: Returning atomic swap. -/
  | amoSwap (y : Bool) (w : Width) (d a b : Reg)
  /-- R196: Returning atomic compare and swap. -/
  | amoCas (y : Bool) (w : Width) (d a b : Reg)
  /-- R196: Returning atomic FP32 add. -/
  | amoFadd (y : Bool) (d a b : Reg)
  /-- R196: Non-returning atomic add. -/
  | redAdd (y : Bool) (w : Width) (a b : Reg)
  /-- R196: Non-returning atomic and. -/
  | redAnd (y : Bool) (w : Width) (a b : Reg)
  /-- R196: Non-returning atomic or. -/
  | redOr (y : Bool) (w : Width) (a b : Reg)
  /-- R196: Non-returning atomic exclusive or. -/
  | redXor (y : Bool) (w : Width) (a b : Reg)
  /-- R196: Non-returning atomic signed minimum. -/
  | redMin (y : Bool) (w : Width) (a b : Reg)
  /-- R196: Non-returning atomic signed maximum. -/
  | redMax (y : Bool) (w : Width) (a b : Reg)
  /-- R196: Non-returning atomic unsigned minimum. -/
  | redMinn (y : Bool) (w : Width) (a b : Reg)
  /-- R196: Non-returning atomic unsigned maximum. -/
  | redMaxn (y : Bool) (w : Width) (a b : Reg)
  /-- R196: Non-returning atomic FP32 add. -/
  | redFadd (y : Bool) (a b : Reg)
  /-- R196: Non-returning atomic FP32 maximum. -/
  | redFmax (y : Bool) (a b : Reg)
  /-- R198: Order earlier and later accesses of the strand by kind and scope. -/
  | fence (k : FenceKind) (s : Scope)
  /-- R203: Enqueue an entry into a ring control block. -/
  | enq (s : Scope) (d a b : Reg)
  /-- R203: Dequeue an entry from a ring control block. -/
  | deq (s : Scope) (d a b : Reg)
  /-- R201: Read the count word of a ring control block. -/
  | ringstat (s : Scope) (d a : Reg)
  /-- R222: Add a non-negative operand to a counter at its home. -/
  | cadd (r : Bool) (s : Scope) (a b : Reg)
  /-- R222: Raise a counter to the maximum of its value and the operand. -/
  | cmax (r : Bool) (s : Scope) (a b : Reg)
  /-- R223: Block until a counter reaches a target, as an acquire. -/
  | cwait (s : Scope) (d a b : Reg)
  /-- R223: Counter wait with a time limit. -/
  | cwaitt (s : Scope) (d a b : Reg)
  /-- R224: Arm a watch that sends a message when a counter reaches a target. -/
  | carm (s : Scope) (d a b : Reg)
  /-- R225: Send a message image from memory to a rank. -/
  | msg (s : Scope) (d a b : Reg)
  /-- R226: Send a message built from registers to a rank. -/
  | msgc (s : Scope) (d a b : Reg)
  /-- R227: Enqueue copies of a message into the own core's inbox. -/
  | spawn (s : Scope) (a b : Reg)
  /-- R228: Take the next matching inbox message without ending the activation. -/
  | recv (s : Scope)
  /-- R13: End the activation: commit, drain slots and own writes, completion add, free the strand. -/
  | endAct (s : Scope)
  /-- R230: Give up the issue place and block for a number of cycles. -/
  | yield (s : Scope) (a : Reg)
  /-- R232: Write a rank table entry and invalidate its caches. -/
  | rankmap (s : Scope) (d a b : Reg)
  /-- R233: Push a work record onto the bottom of the core's deque. -/
  | dqpush (s : Scope) (d a : Reg)
  /-- R233: Pop the bottom record of the core's deque to memory. -/
  | dqpop (s : Scope) (d a : Reg)
  /-- R233: Read the number of records in the deque. -/
  | dqcount (s : Scope) (d : Reg)
  /-- R235: Configure or deconfigure a hardware barrier id. -/
  | barCfg (s : Scope) (d a b : Reg)
  /-- R236: Signal arrival at a barrier as a release. -/
  | barArr (s : Scope) (d b : Reg)
  /-- R237: Timed wait on the member's barrier phase counter. -/
  | barWait (s : Scope) (d a b : Reg)
  /-- R238: Read the missing-member mask of a barrier. -/
  | barStat (s : Scope) (d a b : Reg)
  /-- R360: Create a capsule and route it to its first stop. -/
  | capnew (s : Scope) (d a b : Reg)
  /-- R361: Forward the held capsule to its next stop. -/
  | capfwd (s : Scope) (d a : Reg)
  /-- R361: Retire the held capsule, optionally writing its tile. -/
  | capend (s : Scope) (a : Reg)
  /-- R362: Read the held capsule's header, itinerary or tile. -/
  | caprd (s : Scope) (d a b : Reg)
  /-- R363: Insert a stop into the working itinerary. -/
  | capins (s : Scope) (d a b : Reg)
  /-- R363: Delete a stop from the working itinerary. -/
  | capdel (s : Scope) (d a : Reg)
  /-- R363: Set a header field or stop word of the working image. -/
  | capset (s : Scope) (d a b : Reg)
  /-- R260: Element-wise vector add. -/
  | vadd (t : LTy) (m : MSel) (d a b : Reg)
  /-- R260: Element-wise vector subtract. -/
  | vsub (t : LTy) (m : MSel) (d a b : Reg)
  /-- R260: Element-wise vector multiply. -/
  | vmul (t : LTy) (m : MSel) (d a b : Reg)
  /-- R260: Element-wise vector minimum. -/
  | vmin (t : LTy) (m : MSel) (d a b : Reg)
  /-- R260: Element-wise vector maximum. -/
  | vmax (t : LTy) (m : MSel) (d a b : Reg)
  /-- R260: Element-wise absolute value. -/
  | vabs (t : LTy) (m : MSel) (d a : Reg)
  /-- R260: Element-wise negation. -/
  | vneg (t : LTy) (m : MSel) (d a : Reg)
  /-- R261: Element-wise compare into a mask register. -/
  | vcmp (t : LTy) (c : VCond) (d : MReg) (a b : Reg)
  /-- R262: Select elements from two vectors by a mask. -/
  | vsel (t : LTy) (m : MSel) (d a b : Reg)
  /-- R260: Element-wise bitwise and. -/
  | vand (t : LTy) (m : MSel) (d a b : Reg)
  /-- R260: Element-wise bitwise or. -/
  | vor (t : LTy) (m : MSel) (d a b : Reg)
  /-- R260: Element-wise bitwise exclusive or. -/
  | vxor (t : LTy) (m : MSel) (d a b : Reg)
  /-- R260: Element-wise shift left. -/
  | vshl (t : LTy) (m : MSel) (d a b : Reg)
  /-- R260: Element-wise logical shift right. -/
  | vshr (t : LTy) (m : MSel) (d a b : Reg)
  /-- R260: Element-wise arithmetic shift right. -/
  | vsra (t : LTy) (m : MSel) (d a b : Reg)
  /-- R87: 16-bit form of vadd.f32 vd, vd, vb. -/
  | vaddF32Q (m : Bool) (d b : Reg)
  /-- R87: 16-bit form of vsub.f32 vd, vd, vb. -/
  | vsubF32Q (m : Bool) (d b : Reg)
  /-- R87: 16-bit form of vmul.f32 vd, vd, vb. -/
  | vmulF32Q (m : Bool) (d b : Reg)
  /-- R87: 16-bit form of vmax.f32 vd, vd, vb. -/
  | vmaxF32Q (m : Bool) (d b : Reg)
  /-- R87: 16-bit form of vmin.f32 vd, vd, vb. -/
  | vminF32Q (m : Bool) (d b : Reg)
  /-- R87: 16-bit form of vadd.i32 vd, vd, vb. -/
  | vaddI32Q (m : Bool) (d b : Reg)
  /-- R87: 16-bit form of vsub.i32 vd, vd, vb. -/
  | vsubI32Q (m : Bool) (d b : Reg)
  /-- R87: 16-bit form of vmul.i32 vd, vd, vb. -/
  | vmulI32Q (m : Bool) (d b : Reg)
  /-- R87: 16-bit form of vand.b32 vd, vd, vb. -/
  | vandB32Q (m : Bool) (d b : Reg)
  /-- R87: 16-bit form of vor.b32 vd, vd, vb. -/
  | vorB32Q (m : Bool) (d b : Reg)
  /-- R87: 16-bit form of vxor.b32 vd, vd, vb. -/
  | vxorB32Q (m : Bool) (d b : Reg)
  /-- R87: 16-bit form of vshl.i32 vd, vd, vb. -/
  | vshlI32Q (m : Bool) (d b : Reg)
  /-- R87: 16-bit form of vsra.i32 vd, vd, vb. -/
  | vsraI32Q (m : Bool) (d b : Reg)
  /-- R87: 16-bit vector move, equivalent to vor.b32 vd, vb, vb. -/
  | vmovQ (m : Bool) (d b : Reg)
  /-- R87: 16-bit form of vneg.f32 vd, vb. -/
  | vnegF32Q (m : Bool) (d b : Reg)
  /-- R87: 16-bit form of vabs.f32 vd, vb. -/
  | vabsF32Q (m : Bool) (d b : Reg)
  /-- R263: Vector fused multiply-add. -/
  | vfma (t : VfmaTy) (m : Bool) (d a b c : Reg)
  /-- R263: Vector fused multiply-subtract. -/
  | vfms (t : VfmaTy) (m : Bool) (d a b c : Reg)
  /-- R263: Vector negated fused multiply-add. -/
  | vfnma (t : VfmaTy) (m : Bool) (d a b c : Reg)
  /-- R265: Element-wise type conversion of a vector. -/
  | vcvt (t s : Ty) (m : MSel) (d a : Reg)
  /-- R266: Pack 32 lanes into one slot of narrow fields. -/
  | vpack (t : Ty) (m : MSel) (d a b : Reg)
  /-- R266: Unpack one slot of narrow fields into 32 lanes. -/
  | vunpack (t : Ty) (m : MSel) (d a b : Reg)
  /-- R267: Quantise lanes with per-lane scale and zero point. -/
  | vquant (t : Ty) (m : MSel) (d a b : Reg)
  /-- R267: Dequantise fields with per-lane scale and zero point. -/
  | vdeq (t : Ty) (m : MSel) (d a b : Reg)
  /-- R268: Permute vector elements by an index vector. -/
  | vperm (t : LTy) (d a b : Reg)
  /-- R268: Broadcast a scalar into every element. -/
  | vbcast (t : LTy) (d a : Reg)
  /-- R268: Extract one element to a scalar register. -/
  | vext (t : LTy) (d a b : Reg)
  /-- R268: Insert a scalar into one element. -/
  | vins (t : LTy) (d a b : Reg)
  /-- R268: Slide vector elements by a signed amount. -/
  | vslide (t : LTy) (d a b : Reg)
  /-- R268: Interleave the low halves of two vectors. -/
  | vshuf (t : LTy) (d a b : Reg)
  /-- R269: Sum the active elements in a fixed tree. -/
  | vredadd (t : LTy) (m : MSel) (d a : Reg)
  /-- R269: Largest active element. -/
  | vredmax (t : LTy) (m : MSel) (d a : Reg)
  /-- R269: Smallest active element. -/
  | vredmin (t : LTy) (m : MSel) (d a : Reg)
  /-- R270: Inclusive serial scan of the active elements. -/
  | vscan (t : LTy) (m : MSel) (d a : Reg)
  /-- R271: And of two mask registers. -/
  | mand (d a b : MReg)
  /-- R271: Or of two mask registers. -/
  | mor (d a b : MReg)
  /-- R271: Complement of a mask register. -/
  | mnot (d a : MReg)
  /-- R271: Count the set bits of a mask register. -/
  | mpopc (d : Reg) (a : MReg)
  /-- R271: Index of the lowest set bit of a mask register. -/
  | mfirst (d : Reg) (a : MReg)
  /-- R271: Set a mask register from a scalar. -/
  | mset (d : MReg) (a : Reg)
  /-- R272: Add a signed immediate to every element. -/
  | vaddi (t : LTy) (d a : Reg) (i : BitVec 9)
  /-- R272: Shift every element left by an immediate. -/
  | vshli (t : LTy) (d a : Reg) (i : BitVec 9)
  /-- R272: Set every element to an immediate. -/
  | vmovi (t : LTy) (d : Reg) (i : BitVec 9)
  /-- R273: Bind a vector register to a stream descriptor. -/
  | strmCfg (s : Scope) (d a : Reg)
  /-- R274: Unbind a stream register. -/
  | strmEnd (s : Scope) (d : Reg)
  /-- R275: Read a stream's position. -/
  | strmPos (s : Scope) (d a : Reg)
  /-- R297: Claim the lowest free operand slot of a mask. -/
  | opclaim (s : Scope) (d a : Reg)
  /-- R298: Release the operand slots of a mask. -/
  | oprel (s : Scope) (a : Reg)
  /-- R299: Load an operand slot from memory by descriptor. -/
  | opload (s : Scope) (a b : Reg)
  /-- R300: Read an operand slot's table entry. -/
  | opstat (s : Scope) (d a : Reg)
  /-- R301: Enqueue a tile task record in a tile queue. -/
  | ttEnq (s : Scope) (d a : Reg)
  /-- R302: Enqueue a grouped ragged product walker. -/
  | ttGrp (s : Scope) (d a : Reg)
  /-- R303: Enqueue one half of a paired task. -/
  | ttPair (s : Scope) (d a : Reg)
  /-- R304: Write a group record and raise the group count. -/
  | ttAppend (s : Scope) (d a b : Reg)
  /-- R305: Set the tile scheduler quantum. -/
  | ttQcfg (s : Scope) (a : Reg)
  /-- R308: Clear a range of accumulator tiles. -/
  | accClr (s : Scope) (a b : Reg)
  /-- R309: Fold a scaled partial tile into an FP40 tile. -/
  | accScale (s : Scope) (a b : Reg)
  /-- R307: Write an accumulator tile to memory. -/
  | accDrain (s : Scope) (a b : Reg)
  /-- R307: Load an accumulator tile from memory. -/
  | accLoad (s : Scope) (a b : Reg)
  /-- R326: One-row copy command on a copy context. -/
  | cpy (s : Scope) (d a b : Reg)
  /-- R326: Strided multi-row copy command. -/
  | cpy2d (s : Scope) (d a b : Reg)
  /-- R320: Copy with element conversion. -/
  | cpyCvt (s : Scope) (d a b : Reg)
  /-- R321: Copy followed by a signal add at the destination. -/
  | putSig (s : Scope) (d a b : Reg)
  /-- R327: Copy into the weight store in write phase. -/
  | wsLoad (s : Scope) (d a b : Reg)
  /-- R329: Load a table descriptor into a Sifter table register. -/
  | siftCfg (s : Scope) (d a b : Reg)
  /-- R332: Gather table rows for a list of indices. -/
  | gath (s : Scope) (d a b : Reg)
  /-- R333: Scatter-combine contribution rows into a table. -/
  | scat (s : Scope) (d a b : Reg)
  /-- R335: Read a Sifter count. -/
  | siftStat (s : Scope) (d a : Reg)
  /-- R336: Set the core's keyed accumulation binding and table. -/
  | kbind (s : Scope) (d a b : Reg)
  /-- R337: Send key/value pairs to their hashed ranks. -/
  | ksend (s : Scope) (d a : Reg)
  /-- R340: Write out the keyed table's entries. -/
  | kdrain (s : Scope) (d a b : Reg)
  /-- R341: Configure and clear the core's top-k mailboxes. -/
  | topkCfg (s : Scope) (d a b : Reg)
  /-- R345: Send an expert score to a token's home rank. -/
  | topkSend (s : Scope) (d a b : Reg)
  /-- R343: Read and empty a token's mailbox. -/
  | topkRd (s : Scope) (d a b : Reg)
  /-- R373: Issue a member's part of a collective reduction. -/
  | collRed (s : Scope) (d a b : Reg)
  /-- R372: Issue a member's part of a collective broadcast. -/
  | collBcast (s : Scope) (d a b : Reg)
  /-- R377: Send a token row with its header to a rank. -/
  | tokSend (s : Scope) (d a b : Reg)
  /-- R378: Read a package fabric count. -/
  | fabStat (s : Scope) (d a : Reg)
  /-- R153: Raise a software trap with a 12-bit code. -/
  | trap (c : BitVec 12)
  /-- R155: Read a control register. -/
  | ctlrd (d : Reg) (n : BitVec 12)
  /-- R155: Write a control register. -/
  | ctlwr (a : Reg) (n : BitVec 12)
  /-- R156: Invalidate TLB entries mapping one page of a context. -/
  | tlbinvPage (a b : Reg)
  /-- R156: Invalidate every TLB entry of a context. -/
  | tlbinvCtx (b : Reg)
  /-- R159: Append a mark record to the crumb log, or check it in replay. -/
  | crumbMark (a : Reg)
  /-- R199: Commit, wait for stores, and discard fetched halfwords. -/
  | fenceI
  /-- R152: Commit the current region and checkpoint the registers. -/
  | commit
  /-- R111: Return from a trap handler. -/
  | eret
  /-- R154: Stop the strand and post a stopped-strand record. -/
  | halt
  /-- R156: Invalidate every TLB entry of the package. -/
  | tlbinvAll
  /-- R157: Have quad agents merge their dirty logs. -/
  | harvest
  /-- R211: The scheduler chooses a queued message and starts an activation or feeds a waiting RECV. -/
  | dispatch
  /-- R208: A message reaches a core's network interface, is stamped and queued or spilled. -/
  | messageArrival
  /-- R208: A spilled message is re-injected into its inbox ring as entries free. -/
  | spillReinject
  /-- R47: A committed store leaves the region buffer and is sent on the adaptive class. -/
  | drain
  /-- R47: A request moves from its class into a home's arrival queue. -/
  | deliver
  /-- R47: A home performs the oldest request in its arrival queue. -/
  | perform
  /-- R47: A response reaches its strand, writing a register or landing a slot. -/
  | answer
  /-- R61: The host bridge writes a posted-write entry to the host coherence point. -/
  | postedWriteFlush
  /-- R186: A request in the replay queue retries its busy bank 2 cycles later. -/
  | bankReplayRetry
  /-- R185: After queues empty, the home unit rewrites every row under a new bank hash. -/
  | bankhashRewrite
  /-- R58: An adaptive packet blocked for WAIT cycles moves onto the escape channel. -/
  | escapeChannelEntry
  /-- R192: A home hands a line's granules to the quad atomic unit. -/
  | leaseGrant
  /-- R192: A request from elsewhere recalls a line lease before it is performed. -/
  | leaseRecall
  /-- R192: A lease idle for 2,048 cycles is returned to its home. -/
  | leaseIdleReturn
  /-- R113: A walker finishes a table walk and fills a TLB or reports a fault. -/
  | pageWalkComplete
  /-- R156: Every die has acknowledged a TLB invalidation. -/
  | tlbinvComplete
  /-- R116: A fault-table entry's page is walked again and its continuations dispatched if valid. -/
  | faultRewalk
  /-- R157: Every quad agent has merged its dirty log. -/
  | harvestComplete
  /-- R117: A dirty log reaching 1,024 entries is merged into the leaf entries. -/
  | dirtyLogMerge
  /-- R232: Every core has acknowledged a rank table change. -/
  | rankmapComplete
  /-- R168: An SFU result is ready and lands in its slot or saved image. -/
  | sfuResult
  /-- R230: A yielding strand's block time ends. -/
  | yieldExpiry
  /-- R223: A timed wait's limit expires and a cancel is sent for its waiter. -/
  | cwaittTimeout
  /-- R215: All members have signalled; P advances and every phase counter gets 1. -/
  | barrierPhaseComplete
  /-- R212: An inheritance or clearing notice reaches a die inheritance table. -/
  | inheritanceNotice
  /-- R213: An idle core sends a steal request to its next neighbour. -/
  | stealRequest
  /-- R213: A victim ships half its unstarted records as steal replies. -/
  | stealVictimReply
  /-- R213: The 256-cycle wait after a fruitless steal round ends. -/
  | stealBackoffExpiry
  /-- R206: A host write of LRING registers a launch ring and expands records already present. -/
  | launchRingRegister
  /-- R206: A write to a marked TAIL granule notifies the Launch Unit. -/
  | tailNotice
  /-- R206: The Launch Unit reads a host-memory ring's TAIL every 1,024 cycles. -/
  | launchRingPoll
  /-- R207: The Launch Unit checks a record and expands it into messages. -/
  | launchExpansion
  /-- R121: A CTXSW write requests halting every core of a context. -/
  | contextSwitch
  /-- R121: The halt of a context is confirmed over the barrier tree. -/
  | haltConfirm
  /-- R123: The context's state has been written to its context area. -/
  | contextSaveComplete
  /-- R124: A context's state is written back and its held requests delivered. -/
  | contextRestore
  /-- R287: The tile scheduler issues an issuable queue head to an array. -/
  | tileTaskIssue
  /-- R284: A task's last cell is written; flags, pins and DONE are updated. -/
  | tileTaskComplete
  /-- R291: Both halves of a paired task write staging into their tiles. -/
  | pairCommit
  /-- R292: A paired task exceeds ctl.pairtmo and both halves abort. -/
  | pairTimeout
  /-- R290: A walker starts a present group whose arrival counter is reached. -/
  | groupStart
  /-- R290: A group's C writes are performed and DONE is raised. -/
  | groupFinish
  /-- R295: A matrix command queue entry starts when its condition holds. -/
  | matrixCommandStart
  /-- R295: A matrix command finishes and adds to its counter. -/
  | matrixCommandComplete
  /-- R316: A copy context starts its next command in sequence order. -/
  | copyCommandStart
  /-- R318: The copy engine reads and writes one chunk. -/
  | copyChunk
  /-- R315: A command completes; timeline, mirror and counter advance. -/
  | copyCommandComplete
  /-- R322: A started command meets a fault, stops and posts a record. -/
  | engineFaultStop
  /-- R324: A weight-store bank enters its refresh window by cycle count. -/
  | wsBankRefresh
  /-- R325: The weight-store phase changes once pending loads and writes are done. -/
  | wsPhaseChange
  /-- R332: A Sifter command's writes are performed and its count added. -/
  | sifterCommandComplete
  /-- R338: A receiving unit processes an arriving batch of key/value pairs. -/
  | keyedBatch
  /-- R342: A score arriving at a token's home is folded into its mailbox. -/
  | topkScore
  /-- R345: Mailbox clearing and dead-mask read finish. -/
  | topkCfgComplete
  /-- R353: A capsule lands in blocks or spills and its notice is enqueued. -/
  | capsuleArrival
  /-- R353: A spilled capsule is landed as blocks free. -/
  | capsuleSpillLanding
  /-- R370: A fabric cell is reassembled and written at its destination. -/
  | cellArrival
  /-- R373: A port reduction unit combines a cell once all contributions arrive. -/
  | reductionCellCombine
  /-- R377: A token row lands at its destination and DONE is raised. -/
  | tokenRowArrival
  /-- R369: A Brinath port goes down and its ordered pairs move. -/
  | portDown
  /-- R374: Data Brinath fails to deliver is declared lost and reported. -/
  | cellLost
  /-- R383: A die reads replay records ahead and sorts them to streams. -/
  | replayRingRead
  /-- R384: A source departs from its log; replay stops across the package. -/
  | replayDeparture
  /-- R387: A host write to device memory is performed through the die's bridge. -/
  | hostWrite
  /-- R387: A host read of device memory is answered after its home performs it. -/
  | hostRead
  /-- R388: Copy a value into ctl.det of every core of the selected context. -/
  | detset
  /-- R325: A WSPHASE write of 1 requests read phase. -/
  | wsReadPhaseRequest
  /-- R325: A WSPHASE write of 0 requests write phase. -/
  | wsWritePhaseRequest
  /-- R389: A CENSUS write of 1 takes a consistent cut of the die. -/
  | censusFreeze
  /-- R391: A CENSUS write of 0 delivers recorded items and resumes. -/
  | censusThaw
  /-- R218: A PARK write parks or unparks one core. -/
  | park
  /-- R392: A CKPT write starts a checkpoint or restore to the safe tier. -/
  | ckpt
  /-- R392: The safe-tier copy completes or fails and STATUS is written. -/
  | checkpointComplete
  /-- R390: A CDATA read returns the census word at CADDR. -/
  | cdataRead
  /-- R390: A CDATA write frees a stopped strand or sets a park bit. -/
  | cdataWrite
  /-- R388: A host write to a configuration register with no behaviour of its own. -/
  | configRegisterWrite
  /-- R393: At power-up the boot ROM verifies each firmware image. -/
  | powerUpBoot
  /-- R394: The device signs the host's nonce with the attestation log value. -/
  | attestationQuote
  /-- R96: A fetched word with a reserved major, op, field value or non-zero must-be-zero bit raises a precise ILL trap and changes nothing. -/
  | illegalWord
  /-- R336: A KBIND, KSEND or KDRAIN command finishes after its waits or writes, advancing its router timeline and adding to its counter. -/
  | routerCommandComplete
  /-- R369: A Brinath port completes link training and rejoins the set of ports that are up, and the retrain is counted. -/
  | linkRetrain
  /-- R395: Each hour of powered time the life log advances powered hours and the hour count of the current temperature bin, rolling over per calendar month. -/
  | poweredHour
  /-- R395: A droop of the core supply is counted in the life log. -/
  | supplyDroopEvent
  deriving DecidableEq, Repr

end Sys2Proof
end

