-- ==== Sys2Proof/Machine/State.lean ====
section
/-! DEFINITION. The state of the machine as plain data: everything spec/ gives Olutin, for one package, with the
fabric and the homes its accesses reach. Rules cited at each field. -/

namespace Sys2Proof.Machine

/-! ## How a step can stop -/

/-- Why the machine stops with a fault. The spec gives every outcome of every step, so there is none: each fault the spec
names is a trap, an abort or a record, and is a next state. -/
inductive Fault where
  deriving DecidableEq, Repr

/-- Why the machine has no meaning for a step. -/
inductive Refusal where
  /-- Raised by Dispatch.lean for an instruction that has no meaning yet; safe: nothing is claimed of it. -/
  | notModelled (mnemonic : String)
  deriving DecidableEq, Repr

/-! ## Messages -/

/-- A 64-byte message (R6): w0 the handler, w1 the header (R7), w2-w7 the payload. -/
structure Msg where
  w0 : Word
  w1 : Word
  w2 : Word
  w3 : Word
  w4 : Word
  w5 : Word
  w6 : Word
  w7 : Word
  deriving DecidableEq, Repr

/-- A queued message with its arrival stamp (R204, R208). -/
structure QMsg where
  msg   : Msg
  stamp : Nat
  deriving DecidableEq, Repr

/-! ## Strands -/

/-- ctl.status STATE (R107). -/
inductive StrandState where
  | free | ready | blocked | held | stopped
  deriving DecidableEq, Repr

/-- ctl.status (R107); its other bits are always zero. -/
structure Status where
  state   : StrandState
  trapped : Bool
  pmode   : Bool
  mode    : Bool
  deriving DecidableEq, Repr

/-- The registers of a strand (R105). -/
structure Regs where
  s : Vector Word 32
  v : Vector Vec 32
  m : Vector Mask 8
  deriving DecidableEq, Repr

/-- A stream bound to one of v24-v31 (R250 to R253): a copy of its 512-bit descriptor and its position. -/
structure Stream where
  desc : List Word
  pos  : Nat
  deriving DecidableEq, Repr

/-- Tail state of a strand (R253, R254): q of the running iteration and the iteration index. -/
structure Tail where
  q    : Nat
  iter : Nat
  deriving DecidableEq, Repr

/-- A capsule held by an activation (R348): its block index, the position of its notice's image and the working image,
header, itinerary and tile as words. -/
structure HeldCapsule where
  block : Nat
  words : List Word
  deriving DecidableEq, Repr

/-- What the shadow bank keeps (R17, R105, R253, R348). -/
structure Shadow where
  regs    : Regs
  pc      : Word
  status  : Status
  streams : List (Option Stream)
  tail    : Tail
  capsule : Option HeldCapsule
  deriving DecidableEq, Repr

/-- An entry of the region buffer (R15, R105): one granule by physical bit address and by the address the program gave
it, its mask and bits; the page whose
dirty bit a virtual store sets (R117); the scope of an ST.REL (R194); `sa` for a host page with SA; `base`: the place in program order
of the first granule of its store, so that a release waits for what is before the store alone (R52, R194); `step`: where granules are bytes, the
width at which its bits are cut into accesses as it drains (R38, R39, R150). -/
structure BufEntry where
  seq  : Nat
  base : Nat
  gran : Nat
  addr : Word
  mask : Word
  bits : Word
  page : Option Nat
  rel  : Option Scope
  sa   : Bool
  step : Nat
  deriving DecidableEq, Repr

/-- The members of the AMO and RED tables (R196). -/
inductive AmoOp where
  | add | and | or | xor | min | max | minn | maxn | swap | cas | fadd | fmax
  deriving DecidableEq, Repr

/-- Rounding and NaN settings sampled at issue (R71, R73, R74). -/
structure FpEnv where
  rm     : Nat
  nanm   : Bool
  srseed : Word
  srtile : Word
  deriving DecidableEq, Repr

/-- What a request asks of its home (R47). Bits of a granule are counted from its first bit. `scat`: n bits from lo are elements of a table row
from element e0 on, combined with contributions, each by its position, beside them written bits of elements that lie across granules (R333). `enq`, `deq` and `dqpop` carry the granule of s[b] or s[a] that was resolved as they
issued (R203); `put` is an ENQ of the device's own words to a ring of S = size (R118, R355); `keyed` a pair for the table of a core (R338); an
armed message carries the rank it was armed for, `fixed` where it goes to the core that rank had then (R27, R224). -/
inductive ReqOp where
  | read
  | write (mask bits : Word)
  | amo (op : AmoOp) (lo w : Nat) (v c : Word) (fp : FpEnv)
  | cadd (n : Word)
  | cmax (n : Word)
  | wait (target : Word)
  | cancel
  | arm (target : Word) (core rank : Nat) (fixed : Bool) (msg : Msg)
  | enq (block src : Word) (first : Nat) (user : Bool)
  | deq (block dst : Word) (first : Nat) (user : Bool)
  | put (block : Word) (user : Bool) (size : Nat) (words : List Word)
  | keyed (key v : Word)
  | ringstat (block : Word)
  | dqpush (msg : Msg)
  | dqpop (dst : Word) (first : Nat) (user : Bool)
  | dqcount
  | message (scope : Scope) (rank : Nat) (msg : Msg)
  | spawn (msg : Msg) (count : Nat)
  | barArrive (node key member : Nat)
  | scat (op : Nat) (t : Ty) (fp : FpEnv) (row e0 lo n : Nat) (cs : List (Nat × Word)) (mask bits : Word)
  | topkRd (token : Nat) (dst : Word) (user : Bool)
  deriving DecidableEq, Repr

/-- One granule's part of an access: the 64-bit unit it lies in, the granules it covers there, which on host pages without SA are bytes
(R39), its request, whether it has been sent and answered, what came back, and the
strand's own buffered bits that overlay it (R15, R163). `valued`: its value is known; `done`: performed at `.pkg`;
`sysDone`: performed at `.sys` (R60, R61). -/
structure Part where
  gran    : Nat
  cover   : List Nat
  op      : ReqOp
  sa      : Bool
  ovMask  : Word
  ovBits  : Word
  sent    : Bool
  valued  : Bool
  done    : Bool
  sysDone : Bool
  bad     : Bool
  value   : Word
  flags   : Nat
  deriving DecidableEq, Repr

/-- A piece of an element: which part, from which bit, how many bits. -/
structure Piece where
  part : Nat
  lo   : Nat
  n    : Nat
  deriving DecidableEq, Repr

/-- What the answer of an access writes (R47). `got`: the strand keeps the values for the instruction at pc, which is issued again
with them: the words of a descriptor or image, or the elements of a pop, each by its bit address and width (R256, R315). `stat` is written by
an instruction that is a commit point, `count` by one that is none, into the shadow bank too once a commit has passed it (R17, R201). -/
inductive Dest where
  | ack
  | got (keys : List (Nat × Nat))
  | sreg (d : Reg) (w : Nat) (sx : Bool)
  | vreg (d : Reg) (w : Nat)
  | slot (t : Tag) (gen : Bool)
  | amo (d : Reg) (lo w : Nat)
  | stat (d : Reg)
  | count (d : Reg)
  | wait (d : Reg) (target : Word)
  deriving DecidableEq, Repr

/-- An access a strand has issued and that is not yet performed at every scope (R46): its place in program order, its
class for R54, whether it takes an outstanding-table entry, the scope it waits at when it is a release (R52), whether it
is an acquire (R53), its address for R148, the granules it counts as accessing (R51, R201), and its parts. `walk`: a tagged
load whose translation waits for a walk, with the region's stores older than it in `snap` (R163); `late`: a resent load,
checked against the scoreboard when it is sent (R177); `base`: its place in program order, which differs from its number `seq` for the
later granules of one store (R194) and for a load sent again after a restore (R171); `det`: ctl.det when it issued (R190); `strand`: the strand that
issued it (R381). -/
structure Access where
  seq     : Nat
  base    : Nat
  det     : Bool
  isLoad  : Bool
  isStore : Bool
  entry   : Bool
  rel     : Option Scope
  acquire : Bool
  sysAcq  : Bool
  ordered : Bool
  addr    : Word
  grans   : List Nat
  parts   : List Part
  elems   : List (List Piece)
  dest    : Dest
  written : Bool
  walk    : Bool
  snap    : List BufEntry
  late    : Bool
  strand  : Nat
  deriving DecidableEq, Repr

/-- Landing slot states (R160). -/
inductive SlotState where
  | free | pending | landed | faulted | reissue | taken
  deriving DecidableEq, Repr

/-- Landing slot kinds (R161). -/
inductive SlotKind where
  | scalar | vector | sfu
  deriving DecidableEq, Repr

/-- A landing slot (R160, R161); `was` is the state a Taken slot returns to on an abort, `seq` its issue, `flags` the
flags an SFU result raises when taken (R169), `place` the place in program order of the load it waits for (R171, R177). -/
structure Slot where
  state     : SlotState
  was       : SlotState
  drop      : Bool
  kind      : SlotKind
  width     : Width
  sx        : Bool
  addr      : Word
  faultAddr : Word
  value     : Vec
  stamp     : Nat
  cause     : Nat
  gen       : Bool
  flags     : Nat
  seq       : Nat
  place     : Nat
  deriving DecidableEq, Repr

/-- What a strand in STATE 2 or 3 waits for (R11, R114, R115, R230); `resident`: its page is there, and it goes on in its turn once its answers
have come (R17, R116). -/
inductive Block where
  | take (mask : Word)
  | lswait (mask : Word)
  | cwait (seq : Nat) (deadline : Option Nat) (cancelled : Bool)
  | recv (since : Nat) (scope : Scope)
  | barArr (key : Nat)
  | yield (until_ : Nat)
  | ending (scope : Scope)
  | fence
  | package
  | lsq
  | faultTable (page : Nat) (kind : Nat) (addr : Word)
  | abortImage (page : Nat)
  | resident
  deriving DecidableEq, Repr

/-- A fence still holding back later accesses (R54). -/
structure Fence where
  kind  : FenceKind
  scope : Scope
  seq   : Nat
  deriving DecidableEq, Repr

/-- A destination whose answer reported uncorrectable data (R148). -/
structure Poison where
  vec  : Bool
  d    : Reg
  addr : Word
  deriving DecidableEq, Repr

/-- How a page-table walk ends (R44): a leaf with its level and where it lies, a page fault, a protection fault, or uncorrectable
data. -/
inductive WalkEnd where
  | leaf (level : Nat) (pte : Word) (at_ : Nat)
  | page | prot | memerr
  deriving DecidableEq, Repr

/-- What a strand or unit keeps of the walks it has waited for, until it has done what needed them: the page of 64 KiB, whether for a
fetch, and how the walk ended (R113). -/
structure Walked where
  fetch : Bool
  page  : Nat
  fin   : WalkEnd
  deriving DecidableEq, Repr

/-- A strand (R105) and the activation it is bound to. `act` numbers activations; `count` numbers them on
their core (R381); `seq` numbers the accesses of one in program order; `ckpt` is the seq at the checkpoint. For the instruction at pc:
`got` holds the values of its own loads that have been answered, by bit address and width, none for uncorrectable data (R148, R256, R315);
`walked` the walks it has waited for; `gate` says that it has committed and waits at a release (R52, R96), and `wsGate` names the weight stores
that it then is to load (R325). `fresh`: its checkpoint is the entry
of its activation (R10, R356); `fpAt`: the FP modes the instruction at pc sampled as it issued its loads (R71, R255). -/
structure Strand where
  act      : Nat
  bound    : Bool
  regs     : Regs
  pc       : Word
  status   : Status
  epc      : Word
  cause    : Word
  tval     : Word
  sscratch : Word
  instret  : Word
  handler  : Word
  msg      : Msg
  cls      : Nat
  compl    : Word
  shadow   : Shadow
  region   : List BufEntry
  drain    : List BufEntry
  out      : List Access
  slots    : Vector Slot 64
  stamp    : Nat
  streams  : List (Option Stream)
  tail     : Tail
  capsule  : Option HeldCapsule
  block    : Option Block
  fences   : List Fence
  poison   : List Poison
  seq      : Nat
  ckpt     : Nat
  fetched  : List (Word × Nat)
  count    : Nat
  got      : List (Nat × Nat × Option Nat)
  walked   : List Walked
  gate     : Bool
  wsGate   : List Nat
  fresh    : Bool
  fpAt     : Option FpEnv
  deriving DecidableEq, Repr

/-! ## Translation and faults -/

/-- A TLB entry (R113): context, level of the leaf, page number at that level, the leaf, and whether it is dirty (R117): from D of the
leaf, or logged since it was filled. -/
structure TlbEntry where
  ctx   : Nat
  level : Nat
  vpn   : Nat
  pte   : Word
  dirty : Bool
  deriving DecidableEq, Repr

/-- Who waits for a walk (R113): a tagged load of an activation (R164), the instruction of an activation, or a unit by its number. -/
inductive WalkFor where
  | tagged (act seq : Nat) (tag : Tag) (gen user : Bool)
  | strand (act : Nat) (fetch : Bool)
  | unit (key : Nat)
  deriving DecidableEq, Repr

/-- A walk of a virtual address for a core (R113); `fault`: it is off its walker, or needed none, and the fault of this cause that it found
waits for its turn in replay (R170). -/
structure Walk where
  core  : Nat
  va    : Nat
  who   : WalkFor
  fault : Option Nat
  deriving DecidableEq, Repr

/-- A fault-table entry (R114): context, 64 KiB page, the continuations that joined, by core and activation, and whether a
completed TLBINV has it walked again (R116). -/
structure FaultEntry where
  ctx   : Nat
  page  : Nat
  conts : List (Nat × Nat)
  again : Bool
  deriving DecidableEq, Repr

/-- An operation over the whole package that a strand waits for (R156 to R158, R232). -/
inductive PackageOp where
  | tlbinvPage (va : Word) (ctx : Nat)
  | tlbinvCtx (ctx : Nat)
  | tlbinvAll
  | harvest (ctx : Nat)
  | rankmap (rank : Nat) (release : Bool)
  deriving DecidableEq, Repr

/-- One under way, and the strand that waits, by core and activation. -/
structure Pending where
  op   : PackageOp
  core : Nat
  act  : Nat
  deriving DecidableEq, Repr

/-- A request to the shared SFU (R168, R180), with the context it comes from. -/
structure SfuReq where
  ctx   : Nat
  core  : Nat
  act   : Nat
  tag   : Tag
  gen   : Bool
  fn    : Nat
  x     : Nat
  fp    : FpEnv
  ready : Nat
  deriving DecidableEq, Repr

/-- A line lease held by a quad atomic unit (R192). -/
structure Lease where
  line : Nat
  last : Nat
  deriving DecidableEq, Repr

/-! ## Engines -/

/-- A command of an engine (R295, R315, R346, R376): its major and op, sequence number, descriptor and its address, the
counter address, the mode and settings sampled at issue, the activation that issued it, the chunks or positions performed (of a collective four times
its place in its group, 2 once its match is found to agree, and 1 where a member was unmapped), an amount counted, cells still under way, flags so far, the counts it adds to SIFT.STAT when it completes (R335), when it started, whether every write it makes has been sent, the fault
that stopped it, with its address, and of a collective the cells it has contributed and the result cells it is past. -/
structure Cmd where
  major : Nat
  op    : Nat
  n     : Nat
  desc  : List Word
  addr  : Word
  ctr   : Word
  user  : Bool
  fp    : FpEnv
  det   : Bool
  enote : Word
  act   : Nat
  pos   : Nat
  amt   : Nat
  cells : Nat
  flags : Nat
  tally : List Nat
  start : Nat
  sent  : Bool
  bad   : Option (Nat × Nat)
  gave  : Nat
  took  : Nat
  deriving DecidableEq, Repr

/-- A context of an engine (R24, R313, R328, R368): commands queued and started, those completed or stopped whose timeline
has not reached them with their status, those it has reached whose notice waits for their adds to be performed (R317), the sequence count,
the timeline, and the FP flags of what has completed (R79). -/
structure EngCtx where
  queue : List Cmd
  run   : List Cmd
  fin   : List (Cmd × Nat)
  notes : List (Cmd × Nat)
  seq   : Nat
  tl    : Nat
  flags : Nat
  deriving DecidableEq, Repr

/-- An operand slot (R278 to R280): its table entry, its rows of 16,384 bits and the zero points of its side-band. -/
structure OpSlot where
  st    : Nat
  owner : Nat
  kbits : Nat
  pin   : Nat
  ty    : Nat
  grp   : Nat
  relp  : Bool
  rows  : List Nat
  zps   : List (List Nat)
  deriving DecidableEq, Repr

/-- A tile task in a queue (R281, R291, R301): its record and address, its core and mode, the seed sampled, its place among
enqueues and OPLOADs (R286, R289). -/
structure Task where
  rec_  : List Word
  addr  : Word
  core  : Nat
  user  : Bool
  op    : Nat
  seed  : Word
  stamp : Nat
  deriving DecidableEq, Repr

/-- A group a walker runs (R290): its number and record, which pair of pool slots and accumulator tile it uses, the output tile and K chunk it is
at, whether that chunk is loaded, whether it is in an array, and whether every C write has been sent. -/
structure GroupRun where
  g     : Nat
  rec_  : List Word
  lane  : Nat
  tile  : Nat
  chunk : Nat
  loaded : Bool
  busy  : Bool
  done  : Bool
  deriving DecidableEq, Repr

/-- A grouped-product walker (R290, R302): its descriptor and address, what it sampled, the activation that issued it, the groups started, those under
way, the number finished, and its place among enqueues. -/
structure Walker where
  desc  : List Word
  addr  : Word
  core  : Nat
  user  : Bool
  fp    : FpEnv
  act   : Nat
  stamp : Nat
  begun : List Nat
  runs  : List GroupRun
  fin   : Nat
  deriving DecidableEq, Repr

/-- An entry of a tile queue (R287, R302). -/
inductive TqEntry where
  | task (t : Task)
  | walker (w : Walker)
  deriving DecidableEq, Repr

/-- What an array runs (R283): a task or half, or a walker's chunk on a tile, of a queue, since when, for how long. -/
structure Running where
  queue : Nat
  task  : Option Task
  tile  : Nat
  start : Nat
  len   : Nat
  deriving DecidableEq, Repr

/-- A half of a paired task that has issued (R291, R293): its staging area, filled once it is complete. -/
structure Half where
  task  : Task
  start : Nat
  full  : Bool
  cells : List (List Nat)
  flags : Nat
  deriving DecidableEq, Repr

/-- A batch of key and value pairs (R337, R338): its sender's rank and sequence number, its completion and status addresses,
the settings it carries, and its pairs. -/
structure Batch where
  core  : Nat
  srank : Nat
  n     : Nat
  dn    : Word
  stat  : Word
  fp    : FpEnv
  user  : Bool
  pairs : List (Word × Word)
  deriving DecidableEq, Repr

/-- A batch at its receiving unit (R338): the pairs processed, of them those lost and those diverted, whether the next pair has been sent to its
home, and whether its STAT add has been sent. -/
structure KeyRun where
  batch    : Batch
  pos      : Nat
  lost     : Nat
  diverted : Nat
  sent     : Bool
  stat     : Bool
  deriving DecidableEq, Repr

/-- A score on its way to a mailbox (R342, R345). -/
structure Score where
  token  : Nat
  expert : Nat
  score  : Nat
  deriving DecidableEq, Repr

/-- A cell of a transfer between packages (R369, R370): the masked writes it makes, its first destination bit and its bytes, and
the command it belongs to, by core, engine context and sequence number, its number in the transfer; `sent`: it has reached its port, and its writes
are on their way to their homes. -/
structure Cell where
  grans : List (Nat × Word × Word)
  dst   : Nat
  bytes : Nat
  core  : Nat
  eng   : Nat
  n     : Nat
  seq   : Nat
  sent  : Bool
  deriving DecidableEq, Repr

/-- A token row (R371, R377): its header, landing offset, DONE offset and bits, the command that sent it, by core and sequence
number; `sent`: it has reached its core, and its writes are on their way to their homes. -/
structure Row where
  header : Word
  land   : Nat
  dn     : Nat
  words  : List Word
  core   : Nat
  n      : Nat
  sent   : Bool
  deriving DecidableEq, Repr

/-- A cell of a collective at its port reduction unit (R368, R373): the context, group, place and words of its match, the cell's number, the modes
that member 0 sampled, once it has contributed, and the contributions held, by member. -/
structure RedCell where
  ctx   : Nat
  group : Nat
  place : Nat
  words : List Word
  cell  : Nat
  env   : Option FpEnv
  got   : List (Nat × Nat)
  deriving DecidableEq, Repr

/-- A cell from another package in a port's reassembly buffer (R368, R370): its port, its transfer, its number there, and its masked writes; `sent`:
these are on their way to their homes. -/
structure InCell where
  port  : Nat
  xfer  : Nat
  seq   : Nat
  grans : List (Nat × Word × Word)
  sent  : Bool
  deriving DecidableEq, Repr

/-! ## Homes and the fabric -/

/-- What an enqueue of the device's own words is for: a fault record of a quad's queue for a context (R118), the dead letter of a capsule at a core of a
context (R355), a record of a die's crumb log (R380), or a pair that a core's keyed unit diverts (R338). -/
inductive Post where
  | fault (quad ctx : Nat)
  | dead (core ctx : Nat)
  | crumb (die : Nat)
  | pair (core ctx : Nat)
  deriving DecidableEq, Repr

/-- Whom a request belongs to: the access of a strand; an access of a unit, by its number, the bit address it reports (R322), and whether its
write is refused on a watched granule (R21); an add the device makes for a unit, 0 where none waits, with the origin and address of R396,
whose failure posts a record; an enqueue the device makes, or a pair on its way to the table of its core (R338); the wait of a tile queue's head, by quad, queue and the record's
place (R286). -/
inductive Owner where
  | strand
  | unit (key addr : Nat) (watch : Bool)
  | device (key origin : Nat) (addr : Word)
  | post (p : Post)
  | head (quad queue stamp : Nat)
  deriving DecidableEq, Repr

/-- A request on its way to, or waiting at, a home: the activation and access it answers, the issuing core, the granules it covers
(R39), whether ctl.det was set when it issued (R190), whether it returns a value to its activation, whom it belongs to, and the strand that issued
it (R381). -/
structure Req where
  act   : Nat
  seq   : Nat
  part  : Nat
  core  : Nat
  gran  : Nat
  cover : List Nat
  op    : ReqOp
  sys   : Bool
  sa    : Bool
  src   : Nat
  ord   : Bool
  det   : Bool
  ret   : Bool
  owner : Owner
  strand : Nat
  deriving DecidableEq, Repr

/-- What a unit that acts on memory has under way (R59): the granules read, with their value, none for uncorrectable data; those whose read
is not answered; those its step under way still needs; the granules of its writes and adds that are not performed, and of those performed that are not yet at `.sys` (R60); how far an instruction is with
writes of its own: how many it has sent (R304, R361); the first of its writes that was refused, with its cause and address (R21, R322); the walks it has waited for (R113);
of a GATH the table rows it has begun to fetch, each by its address and whether the row cache served it, and the granules that have left the row
cache since it asked for them (R332, R334). Granules are named as in `grainOf`. -/
structure Io where
  got    : List (Nat × Option Word)
  asked  : List Nat
  need   : List Nat
  puts   : List Nat
  posted : List Nat
  phase  : Nat
  bad    : Option (Nat × Nat)
  walked : List Walked
  rows   : List (Nat × Bool)
  stale  : List Nat
  deriving DecidableEq, Repr

/-- What stands on a counter (R22, R223, R224): an armed message for a core, with the rank it was armed for and whether that core stays its
destination, a strand's waiter, or the wait of a tile queue's head (R286). -/
inductive WatchKind where
  | arm (core ctx rank : Nat) (fixed : Bool) (msg : Msg)
  | waiter (core act seq part : Nat)
  | head (quad queue stamp : Nat)
  deriving DecidableEq, Repr

/-- A watch-list entry (R22). -/
structure Watch where
  gran   : Nat
  target : Word
  kind   : WatchKind
  deriving DecidableEq, Repr

/-- A ring operation, a pop of the deque, or a read of a mailbox, in progress at a home (R203, R233, R343): its request and unit number, the granules of its block that it
holds, the granules it copies from and to with the bit addresses it reports, the index its status names, and once its reads are done and its
writes sent, `copied`. -/
structure Hold where
  req    : Req
  key    : Nat
  block  : List Nat
  src    : List (Nat × Nat)
  dst    : List (Nat × Nat)
  words  : List Word
  index  : Word
  copied : Bool
  deriving DecidableEq, Repr

/-- A home (R46, R184): its arrival queue, its replay queue with retry times, its watch list, the quad that performed the
last atomic on each line (R191), a bank hash rewrite still to start or its end (R185), the ring operations in progress and their count. -/
structure Home where
  holds    : List Hold
  holdSeq  : Nat
  arrivals : List Req
  replay   : List (Req × Nat)
  watch    : List Watch
  lastQuad : KMap Nat
  rewrite  : Bool
  busyTo   : Nat
  deriving DecidableEq, Repr

/-- What an answer settles (R47, R60, R61): everything; that the request is performed but its value or its `.sys` moment is
still to come; the value but not yet its `.sys` moment; the `.sys` moment alone. -/
inductive RespKind where
  | full | accepted | valueOnly | sysNow
  deriving DecidableEq, Repr

/-- An answer (R47, R189): the value, or uncorrectable data; the flags of an FP atomic; whether the previous atomic on the
line came from the same quad (R191). -/
structure Resp where
  value    : Word
  bad      : Bool
  flags    : Nat
  kind     : RespKind
  sameQuad : Bool
  deriving DecidableEq, Repr

/-- What travels in the fabric (R57); a capsule with the header it carries between packages (R371). -/
inductive Body where
  | req (r : Req)
  | resp (act seq part : Nat) (r : Resp)
  | unitResp (key gran addr : Nat) (write : Bool) (r : Resp)
  | message (m : Msg)
  | copies (m : Msg) (n : Nat)
  | signal (key member : Nat)
  | stealReq (thief : Nat) (quad : Bool)
  | stealReply (ms : List Msg)
  | inherit (line cls : Nat) (clear : Bool)
  | tail (die ring : Nat)
  | deque (m : Msg)
  | capsule (header : Word) (words : List Word) (srank : Nat)
  | keyed (b : Batch)
  | score (x : Score)
  | tokenRow (r : Row)
  | cell (x : Cell)
  deriving DecidableEq, Repr

/-- A packet: its source unit, its destination, its class (ordered or adaptive), whether it has taken the escape channel
(R58), since when it waits, the context it belongs to (R126), the rank it was sent to and whether the old core of a migrated rank
forwards it (R27), whether it was held for a context and comes before new traffic (R126), whether it goes to its core whatever core the rank has then
(R224), and, for one that leaves the package, its port (R369). -/
structure Packet where
  src     : Nat
  dst     : HomeId
  ordered : Bool
  escape  : Bool
  since   : Nat
  ctx     : Nat
  rank    : Option Nat
  fwd     : Bool
  held    : Bool
  fixed   : Bool
  port    : Option Nat
  body    : Body
  deriving DecidableEq, Repr

/-- An entry of a bridge's posted-write buffer (R61), with the granules it covers (R39) and the answers that wait for it at `.sys`. -/
structure Posted where
  gran    : Nat
  cover   : List Nat
  mask    : Word
  bits    : Word
  waiters : List Req
  deriving DecidableEq, Repr

/-! ## Cores -/

/-- A range of the core's own local memory that one of its engines is writing (R55): first and last bit, the command's tag, and the activation that started it. -/
structure Range where
  lo  : Nat
  hi  : Nat
  tag : Nat
  act : Nat
  deriving DecidableEq, Repr

/-- What a quad's spill area holds for a core (R209, R126), in arrival order: a message of an inbox class, a message held
for a rank in transit, or a capsule with the rank of the core that sent it. -/
inductive SpillItem where
  | message (m : QMsg)
  | rank (p : Packet)
  | capsule (words : List Word) (srank : Nat)
  deriving DecidableEq, Repr

/-- The steal state of a core (R204, R213). -/
structure Steal where
  next    : Nat
  pending : Bool
  tried   : Nat
  viaQuad : Bool
  backoff : Option Nat
  deriving DecidableEq, Repr

/-- A core (R105, R106, R184, R204): its control registers, issue age order (oldest first), TLBs (most recent first),
abort images, ended activations whose drained stores or adds are still under way (R13), activations ready to resume, with the cycle from
which they wait (R116), dirty log, inboxes, deque (bottom first), steal state, home-unit counters; its matrix command queue and started commands (R295), engine
contexts by number (0 to 3 copy, 4 Sifter, 5 router, 6 collective), table registers and Sifter counts (R328), keyed binding, whether it was made in user mode, and batch
sequence number, and the batches at its unit in arrival order (R336 to R339), top-k configuration, mailboxes, scores processed since each was read
or cleared (R341 to R344); the runs of landing blocks in use and the creation count (R348); the match
counts of collectives by group (R368); the last issue: its cycle, its strand, and whether it took the lane port (R109); `door`: a packet for the core that its network interface has
received, with its arrival stamp, and that finds no room, so that no later one of the ordered class is accepted (R208, R209); `asks`: the thieves
whose steal requests it has received and not answered, in order (R214, R218). The lists of dirty log, inboxes, deque, mailboxes, images and spilled
items are apart from memory (entry 59, DESIGN CHOICE). -/
structure Core where
  rm         : Word
  nanmode    : Word
  det        : Word
  lfmode     : Word
  fflags     : Word
  srseed     : Word
  srtile     : Word
  enote      : Word
  escwait    : Word
  bankhash   : Word
  age        : Word
  rank       : Nat
  order      : List Nat
  itlb       : List TlbEntry
  dtlb       : List TlbEntry
  images     : List Strand
  ended      : List Strand
  resume     : List (Nat × Nat)
  dirtyLog   : List Word
  inbox      : List QMsg
  rankHeld   : List Packet
  deque      : List QMsg
  steal      : Steal
  park       : Bool
  tracePos   : Nat
  ranges     : List Range
  spill      : List SpillItem
  bankCtr    : KMap Nat
  bankBusy   : KMap Nat
  dispatched : Nat
  mq         : List Cmd
  mrun       : List Cmd
  engs       : KMap EngCtx
  tables     : KMap (List Word)
  sift       : List Nat
  binding    : Option (List Word)
  bindUser   : Bool
  kseq       : Nat
  keyed      : List KeyRun
  topk       : Option (List Word)
  mail       : KMap (List (Nat × Nat))
  mailCount  : KMap Nat
  blocks     : List (Nat × Nat)
  capSeq     : Nat
  groups     : KMap Nat
  lastPort   : Option (Nat × Nat × Bool)
  door       : Option (Packet × Nat)
  asks       : List Nat
  deriving DecidableEq, Repr

/-! ## Quads, dies and barriers -/

/-- A fault record (R120): eight words. -/
abbrev FaultRec := List Word

/-- A barrier id (R215): its member set by number, the phase-counter offset, the scope's rectangle fields, P, and for each
member its lead counter L and how many of its signals have reached the node. -/
structure Barrier where
  configured : Bool
  word0      : Word
  pcoff      : Nat
  word2      : Word
  phase      : Nat
  leads      : List Nat
  arrived    : List Nat
  deriving DecidableEq, Repr

/-- A quad (R105, R161, R184): the second-level TLB, walks in order, fault table, held fault records by context, those it has taken to enqueue, the
first of each context being under way (R118, R119), the per-context registers, placement predictor, leases and the shared SFU; the matrix unit (R278): operand slots, tiles, tile
queues, the stamps of heads whose wait is answered, and of those whose counter is uncorrectable, skip counts and quantum, arrays, paired halves that have issued, the next enqueue stamp,
and the cycle of the last recorded issue (R381). -/
structure Quad where
  tlb       : List TlbEntry
  walks     : List Walk
  faults    : List FaultEntry
  holding   : List (Nat × FaultRec)
  posting   : List (Nat × FaultRec)
  fq        : KMap Word
  fqctr     : KMap Word
  spill     : KMap Word
  pairtmo   : Word
  mxflags   : Word
  predictor : KMap Nat
  leases    : List Lease
  sfu       : List SfuReq
  sfuNext   : Nat
  slots     : KMap OpSlot
  tiles     : KMap (List Nat)
  tq        : KMap (List TqEntry)
  waited    : List Nat
  unread    : List Nat
  skips     : KMap Nat
  quantum   : Nat
  arrays    : List (Option Running)
  halves    : List Half
  stamp     : Nat
  lastIssue : Option Nat
  deriving DecidableEq, Repr

/-- A launch ring registered with a Launch Unit (R206): its block (0 when none), whether it has been found invalid, the
tail last learnt, and the cycle of the last poll. -/
structure LaunchRing where
  block   : Word
  invalid : Bool
  tail    : Nat
  polled  : Nat
  deriving DecidableEq, Repr

/-- A context switch under way (R121 to R124): the context to run, whether it is package-wide, how far it is: requested, halted, saved; and the
cycle of the halt (R219). -/
structure Switch where
  ctx   : Nat
  wide  : Bool
  phase : Nat
  at_   : Nat
  deriving DecidableEq, Repr

/-- An access of the host to device memory at a die's bridge (R387): a write of bytes, or a read of the granule, at a physical bit address; `sent`:
its requests are on their way to their homes. -/
structure HostAcc where
  write : Bool
  at_   : Nat
  bytes : List Byte
  sent  : Bool
  deriving DecidableEq, Repr

/-- A die (R105, R204): ctl.ctx, the context areas, the inheritance table, launch rings and expansion position; the crumb
and replay rings of its contexts, the record counts of its crumb streams, the records read ahead for replay and since when a
choice waits for one (R380 to R383); the locked read-modify-writes at its host bridge, with what each has read (R193); the weight-store phase and a phase asked for (R324, R325); the dead-expert mask and the
Sifter's row cache (R328); CTXSEL and CADDR (R388); a census cut under way (1) or taken (2), with the items recorded (R389); a
context switch under way and whether the last save is complete (R121, R388); since when the running context records (R381); the accesses of the host
that its bridge has received, in order (R387, R389); what was last written to the registers of the configuration window that only start something
(R388); and the requests of CTXSW and CENSUS that wait to be served, with their values (R388). -/
structure Die where
  ctx       : Word
  ctxarea   : KMap Word
  inherit   : List (Nat × Nat)
  rings     : KMap LaunchRing
  expansion : Option (Nat × Nat × Nat)
  lastMode2 : KMap Nat
  posted    : List Posted
  locks     : List (Req × Word)
  wsPhase   : Bool
  wsWant    : Option Bool
  crumb     : KMap Word
  replayRing : KMap Word
  crumbSeq  : KMap Nat
  replay    : KMap (List (Word × Word))
  waitFrom  : KMap Nat
  dead      : Nat
  rowCache  : KMap Word
  ctxsel    : Word
  caddr     : Word
  frozen    : Nat
  items     : List Packet
  switch    : Option Switch
  ctxDone   : Bool
  recFrom   : Nat
  hostq     : List HostAcc
  cfg       : KMap Word
  asked     : List (Nat × Word)
  deriving DecidableEq, Repr

/-- The registers of a context (R106). -/
structure CtxRegs where
  tvec   : Word
  wbound : Word
  ptroot : Word
  deriving DecidableEq, Repr

/-! ## Events and their operands -/

/-- The operands of an event: an index or number, words and bytes. Each event's meaning says which it reads. -/
structure Pick where
  a      : Nat
  b      : Nat
  c      : Nat
  w      : Word
  v      : Word
  home   : HomeId
  flag   : Bool
  bytes  : List Byte
  images : List FirmwareImage
  deriving DecidableEq, Repr

/-- What the outside world, or a chosen order of steps, gives the machine next (R47): an event with its operands, or the
issue of a given strand; `also`: in the cycle of the step before, through the other port of its core (R109). -/
inductive Action where
  | event (i : Instr) (p : Pick)
  | issue (sid : Nat)
  | also (sid : Nat)
  deriving DecidableEq, Repr

/-! ## Saved contexts, checkpoints -/

/-- A context saved from a die (R123, R126): its cores, strands, quads, home units, die-level state and local memories, the cycle of the
halt, the requests held for it, and whether it has never run there. -/
structure Saved where
  cores   : KMap Core
  strands : KMap Strand
  quads   : KMap Quad
  homes   : KMap Home
  die     : Die
  mem     : List Host.Cell
  clock   : Nat
  held    : List Packet
  unrun   : Bool
  deriving DecidableEq, Repr

/-- A checkpoint or restore under way (R390, R392): its descriptor. -/
structure Ckpt where
  desc : List Word
  deriving DecidableEq, Repr

/-- A checkpoint of the package in the safe tier (R392): the cut it reproduces, and its cycle. -/
structure Snapshot where
  mem      : List Host.Cell
  strands  : KMap Strand
  cores    : KMap Core
  quads    : KMap Quad
  dies     : KMap Die
  homes    : KMap Home
  ctxs     : KMap CtxRegs
  ranks    : KMap Word
  bars     : KMap Barrier
  flight   : List Packet
  pendings : List Pending
  marks    : List (Nat × Nat × Nat)
  saved    : KMap Saved
  ios      : KMap Io
  fab      : KMap Nat
  ports    : Nat
  redCells : List RedCell
  clock    : Nat
  deriving DecidableEq, Repr

/-! ## The machine -/

/-- Memory: cells of one byte, keyed by physical bit address / 8, in rising order (Machine/Memory.lean). -/
abbrev Mem := List Host.Cell

/-- The machine: its package, the die-cycle clock, the strand an instruction acts on, what the outside gives it next and the
operands of the event under way, the counters of free values and activations, memory, the parts by number, the context
registers, rank tables and barriers by key, the fabric, operations over the package, the launch tails that are marked at
their homes (granule, die, ring), and the life log; the fabric counts, ports up, reduction cells in progress, reassembly buffers, the granules that cells of each incoming
transfer have written with the cell's number, and the place in the round robin of cells over ports (R368 to R370); saved contexts by context * 8 + die, a
checkpoint under way and those in the safe tier by their window's address; BOOTST, the attestation value and entry count, the quotes and host reads answered (R387, R393, R394); what each unit has under way on
memory, by unit number, and the unit whose step this is, 0 for none. -/
structure State where
  pkg      : Nat
  clock    : Nat
  cur      : Nat
  agenda   : List Action
  pick     : Pick
  free     : Nat
  acts     : Nat
  mem      : Mem
  strands  : KMap Strand
  cores    : KMap Core
  quads    : KMap Quad
  dies     : KMap Die
  homes    : KMap Home
  ctxs     : KMap CtxRegs
  ranks    : KMap Word
  bars     : KMap Barrier
  flight   : List Packet
  pendings : List Pending
  marks    : List (Nat × Nat × Nat)
  life     : KMap Nat
  fab      : KMap Nat
  ports    : Nat
  redCells : List RedCell
  reasm    : List InCell
  landed   : KMap (List (Nat × Nat))
  spray    : Nat
  saved    : KMap Saved
  ckpt     : Option Ckpt
  tier     : KMap Snapshot
  boot     : Word
  attest   : List Byte
  attested : Nat
  quotes   : List (List Byte)
  reads    : List Word
  ios      : KMap Io
  unit     : Nat
  deriving DecidableEq, Repr

/-! ## Reset values (R105, R106; entry 4, DESIGN CHOICE, for registers before the first dispatch) -/

/-- Registers all zero. -/
def Regs.init : Regs := ⟨Vector.replicate 32 0, Vector.replicate 32 0, Vector.replicate 8 0⟩

/-- A free strand's status (R107). -/
def Status.init : Status := ⟨.free, false, false, false⟩

/-- A message of zeros. -/
def Msg.init : Msg := ⟨0, 0, 0, 0, 0, 0, 0, 0⟩

/-- An empty shadow bank. -/
def Shadow.init : Shadow := ⟨Regs.init, 0, Status.init, List.replicate 8 none, ⟨0, 0⟩, none⟩

/-- A free slot (R161). -/
def Slot.init : Slot := ⟨.free, .free, false, .scalar, .w1, false, 0, 0, 0, 0, 0, false, 0, 0, 0⟩

/-- A free strand. -/
def Strand.init : Strand :=
  { act := 0, bound := false, regs := Regs.init, pc := 0, status := Status.init, epc := 0, cause := 0, tval := 0,
    sscratch := 0, instret := 0, handler := 0, msg := Msg.init, cls := 0, compl := 0, shadow := Shadow.init,
    region := [], drain := [], out := [], slots := Vector.replicate 64 Slot.init, stamp := 0,
    streams := List.replicate 8 none, tail := ⟨0, 0⟩, capsule := none, block := none, fences := [], poison := [],
    seq := 0, ckpt := 0, fetched := [], count := 0, got := [], walked := [], gate := false, wsGate := [], fresh := false, fpAt := none }

/-- A core after reset (R106: escwait 64, age 4,096, the others 0; R105: age order in strand number order; R313, R328, R348:
queues empty). -/
def Core.init : Core :=
  { rm := 0, nanmode := 0, det := 0, lfmode := 0, fflags := 0, srseed := 0, srtile := 0, enote := 0, escwait := 64,
    bankhash := 0, age := 4096, rank := 0, order := [0, 1, 2, 3, 4, 5, 6, 7], itlb := [], dtlb := [], images := [],
    ended := [], resume := [], dirtyLog := [], inbox := [], rankHeld := [], deque := [], steal := ⟨0, false, 0, false, none⟩,
    park := false, tracePos := 0, ranges := [], spill := [], bankCtr := [], bankBusy := [], dispatched := 0,
    mq := [], mrun := [], engs := [], tables := [], sift := [0, 0, 0, 0, 0, 0], binding := none, bindUser := false, kseq := 0, keyed := [],
    topk := none, mail := [], mailCount := [], blocks := [], capSeq := 0,
    groups := [], lastPort := none, door := none, asks := [] }

/-- A quad after reset (R106: pairtmo 0xF_4240; R278: quantum 64). -/
def Quad.init : Quad :=
  { tlb := [], walks := [], faults := [], holding := [], posting := [], fq := [], fqctr := [], spill := [], pairtmo := 0xF4240,
    mxflags := 0, predictor := [], leases := [], sfu := [], sfuNext := 0, slots := [], tiles := [], tq := [], waited := [], unread := [],
    skips := [], quantum := 64, arrays := [none, none], halves := [], stamp := 0, lastIssue := none }

/-- A launch ring table entry that names no ring. -/
def LaunchRing.init : LaunchRing := ⟨0, false, 0, 0⟩

/-- A die after reset. -/
def Die.init : Die :=
  { ctx := 0, ctxarea := [], inherit := [], rings := [], expansion := none, lastMode2 := [], posted := [], locks := [],
    wsPhase := false, wsWant := none, crumb := [], replayRing := [], crumbSeq := [], replay := [], waitFrom := [],
    dead := 0, rowCache := [], ctxsel := 0, caddr := 0, frozen := 0, items := [], switch := none, ctxDone := false, recFrom := 0, hostq := [], cfg := [],
    asked := [] }

/-- An engine context when its context is created (R24, R313). -/
def EngCtx.init : EngCtx := ⟨[], [], [], [], 0, 0, 0⟩

/-- A unit with nothing under way. -/
def Io.init : Io := ⟨[], [], [], [], [], 0, none, [], [], []⟩

/-- A free operand slot (R280). -/
def OpSlot.init : OpSlot := ⟨0, 0, 0, 0, 0, 3, false, [], []⟩

/-- A home with nothing waiting. -/
def Home.init : Home := ⟨[], 0, [], [], [], [], false, 0⟩

/-- The reset value of ctl.wbound (R35): everything reachable, weight-store loads permitted. -/
def wboundReset : Word := 0x003FFFF0F0F80000

/-- The registers of a context before it has written them (R106, R35). -/
def CtxRegs.init : CtxRegs := ⟨0, wboundReset, 0⟩

/-- An image of a context that has never run (R125). -/
def Saved.init : Saved := ⟨[], [], [], [], Die.init, [], 0, [], true⟩

/-- A barrier id that is not configured (R204). -/
def Barrier.init : Barrier := ⟨false, 0, 0, 0, 0, [], []⟩

/-- No event operands. -/
def Pick.init : Pick := ⟨0, 0, 0, 0, 0, .core 0, false, [], []⟩

/-- The machine after reset: every table at its reset values, memory with nothing listed, all ports up (entry 6, DESIGN CHOICE). -/
def State.reset : State :=
  { pkg := 0, clock := 0, cur := 0, agenda := [], pick := Pick.init, free := 0, acts := 1, mem := [], strands := [],
    cores := [], quads := [], dies := [], homes := [], ctxs := [], ranks := [], bars := [], flight := [], pendings := [], marks := [],
    life := [], fab := [], ports := 2 ^ 32 - 1, redCells := [], reasm := [], landed := [], spray := 0, saved := [], ckpt := none, tier := [], boot := 0, attest := List.replicate 64 0, attested := 0,
    quotes := [], reads := [], ios := [], unit := 0 }

end Sys2Proof.Machine
end

