-- ==== Sys2Proof/WellFormed.lean ====
section
/-! DEFINITION. Well-formed instructions: the value rules that R96 step 3 checks and that the operand types of
Syntax.lean do not already enforce. -/

namespace Sys2Proof

/-- The width of a width code in bits (R90). -/
def Width.bits : Width → Nat
  | .w1 => 1 | .w2 => 2 | .w3 => 3 | .w4 => 4 | .w6 => 6 | .w8 => 8 | .w16 => 16 | .w32 => 32 | .w64 => 64

/-- Width codes 5-8, the vector widths (R94, R95, R150, R173). -/
def Width.isVector : Width → Bool
  | .w8 | .w16 | .w32 | .w64 => true
  | .w1 | .w2 | .w3 | .w4 | .w6 => false

/-- The width of a type in bits (R64, R67, R68). -/
def Ty.bits : Ty → Nat
  | .f32 => 32 | .f40 => 40 | .bf16 => 16 | .f16 => 16 | .e5m2 => 8 | .e4m3 => 8 | .e3m2 => 6 | .e2m3 => 6 | .e2m1 => 4
  | .i3 => 3 | .i4 => 4 | .i8 => 8 | .i16 => 16 | .i32 => 32 | .i64 => 64
  | .n3 => 3 | .n4 => 4 | .n8 => 8 | .n16 => 16 | .n32 => 32 | .n64 => 64
  | .q3 => 3 | .q4 => 4 | .q8 => 8

/-- The FP type codes 0-8 (R92). -/
def Ty.isFp : Ty → Bool
  | .f32 | .f40 | .bf16 | .f16 | .e5m2 | .e4m3 | .e3m2 | .e2m3 | .e2m1 => true
  | .i3 | .i4 | .i8 | .i16 | .i32 | .i64 | .n3 | .n4 | .n8 | .n16 | .n32 | .n64 | .q3 | .q4 | .q8 => false

/-- The quantised type codes 28-30 (R92). -/
def Ty.isQuant : Ty → Bool
  | .q3 | .q4 | .q8 => true
  | .f32 | .f40 | .bf16 | .f16 | .e5m2 | .e4m3 | .e3m2 | .e2m3 | .e2m1
  | .i3 | .i4 | .i8 | .i16 | .i32 | .i64 | .n3 | .n4 | .n8 | .n16 | .n32 | .n64 => false

/-- The codes 0-8 and 16-27: every type but the quantised ones (R140, R306, R314). -/
def Ty.isPlain (t : Ty) : Bool := !t.isQuant

/-- The signed integer types. -/
def Ty.isSigned : Ty → Bool
  | .i3 | .i4 | .i8 | .i16 | .i32 | .i64 => true
  | .f32 | .f40 | .bf16 | .f16 | .e5m2 | .e4m3 | .e3m2 | .e2m3 | .e2m1
  | .n3 | .n4 | .n8 | .n16 | .n32 | .n64 | .q3 | .q4 | .q8 => false

/-- The integer types, signed or unsigned. -/
def Ty.isInt (t : Ty) : Bool := !t.isFp && !t.isQuant

/-- The types of scalar arithmetic, f32 and f40 (R138, R139). -/
def Ty.isScalarFp (t : Ty) : Bool := t == .f32 || t == .f40

/-- The types VCVT accepts (R265). -/
def Ty.isVcvt : Ty → Bool
  | .f32 | .bf16 | .f16 | .i8 | .i16 | .i32 | .i64 | .n8 | .n16 | .n32 | .n64 => true
  | .f40 | .e5m2 | .e4m3 | .e3m2 | .e2m3 | .e2m1 | .i3 | .i4 | .n3 | .n4 | .q3 | .q4 | .q8 => false

/-- The types VPACK and VUNPACK accept (R266). -/
def Ty.isPack : Ty → Bool
  | .e5m2 | .e4m3 | .e3m2 | .e2m3 | .e2m1 | .bf16 | .f16 | .i3 | .i4 | .i8 | .i16 | .n3 | .n4 | .n8 | .n16 => true
  | .f32 | .f40 | .i32 | .i64 | .n32 | .n64 | .q3 | .q4 | .q8 => false

/-- The element width of a lane type (R92, R248). -/
def LTy.bits : LTy → Nat
  | .i8 | .n8 | .b8 => 8
  | .bf16 | .f16 | .i16 | .n16 | .b16 => 16
  | .f32 | .i32 | .n32 | .b32 => 32
  | .i64 | .n64 | .b64 => 64

/-- The FP lane types (R260). -/
def LTy.isFp : LTy → Bool
  | .f32 | .bf16 | .f16 => true
  | .i8 | .i16 | .i32 | .i64 | .n8 | .n16 | .n32 | .n64 | .b8 | .b16 | .b32 | .b64 => false

/-- The signed lane types (R260). -/
def LTy.isSigned : LTy → Bool
  | .i8 | .i16 | .i32 | .i64 => true
  | .f32 | .bf16 | .f16 | .n8 | .n16 | .n32 | .n64 | .b8 | .b16 | .b32 | .b64 => false

/-- The bit lane types (R260). -/
def LTy.isBit : LTy → Bool
  | .b8 | .b16 | .b32 | .b64 => true
  | .f32 | .bf16 | .f16 | .i8 | .i16 | .i32 | .i64 | .n8 | .n16 | .n32 | .n64 => false

/-- The signed and unsigned integer lane types (R260). -/
def LTy.isInt (t : LTy) : Bool := !t.isFp && !t.isBit

/-- The field values R96 step 3 accepts. Events carry no encoding and are always well formed. -/
def Instr.wf : Instr → Bool
  | .add .. | .sub .. | .mul .. | .mulh .. | .mulhn .. | .div ..
  | .divn .. | .rem .. | .remn .. | .and .. | .or .. | .xor ..
  | .andn .. | .shl .. | .shr .. | .sra .. | .rol .. | .min ..
  | .max .. | .minn .. | .maxn .. | .slt .. | .sltn .. | .seq ..
  | .cmov .. | .clz .. | .ctz .. | .popc .. | .addi .. | .andi ..
  | .ori .. | .xori .. | .slti .. | .shli .. | .shri .. | .srai ..
  | .roli .. | .limm .. | .limmh .. | .bpadd .. | .bpdiff .. | .bcrd ..
  | .brel .. | .bstripe .. | .b2byte .. | .byte2b .. | .bwin .. | .balign ..
  | .bpaddi .. => true
  | .fadd t _ _ _ => t.isScalarFp
  | .fsub t _ _ _ => t.isScalarFp
  | .fmul t _ _ _ => t.isScalarFp
  | .fdiv t _ _ _ => t.isScalarFp
  | .fsqrt t _ _ => t.isScalarFp
  | .fmin t _ _ _ => t.isScalarFp
  | .fmax t _ _ _ => t.isScalarFp
  | .fcmpeq t _ _ _ => t.isScalarFp
  | .fcmplt t _ _ _ => t.isScalarFp
  | .fcmple t _ _ _ => t.isScalarFp
  | .fcvt t s _ _ => t.isPlain && s.isPlain
  | .fclass t _ _ => t.isFp
  | .fma .. | .brc .. | .jal .. | .jr .. | .jalr .. => true
  | .loop c _ => c != 0
  | .loops .. | .ld .. | .st .. => true
  | .ldv w _ _ _ => w.isVector
  | .stv w _ _ _ => w.isVector
  | .ldvx w _ _ _ => w.isVector
  | .stvx w _ _ _ => w.isVector
  | .ldAcq .. | .stRel .. | .ldt .. => true
  | .ldtv w _ _ _ => w.isVector
  | .take d a => d != a || d == 0
  | .takem d a _ => d != a || d == 0
  | .taket d a _ => d != a || d == 0
  | .lsq .. | .lsreissue .. | .lsclr .. | .lswait .. | .sfuExp2 .. | .sfuLog2 ..
  | .sfuRcp .. | .sfuRsq .. | .sfuSin .. | .sfuCos .. | .sfuTanh .. | .sfuErf ..
  | .amoAdd .. | .amoAnd .. | .amoOr .. | .amoXor .. | .amoMin .. | .amoMax ..
  | .amoMinn .. | .amoMaxn .. | .amoSwap .. | .amoCas .. | .amoFadd .. | .redAdd ..
  | .redAnd .. | .redOr .. | .redXor .. | .redMin .. | .redMax .. | .redMinn ..
  | .redMaxn .. | .redFadd .. | .redFmax .. | .fence .. | .enq .. | .deq ..
  | .ringstat .. | .cadd .. | .cmax .. | .cwait .. | .cwaitt .. | .carm ..
  | .msg .. | .msgc .. | .spawn .. | .recv .. | .endAct .. | .yield ..
  | .rankmap .. | .dqpush .. | .dqpop .. | .dqcount .. => true
  | .barCfg s _ _ _ => s != .sys
  | .barArr s _ _ => s != .sys
  | .barWait s _ _ _ => s != .sys
  | .barStat s _ _ _ => s != .sys
  | .capnew .. | .capfwd .. | .capend .. | .caprd .. | .capins .. | .capdel ..
  | .capset .. => true
  | .vadd t _ _ _ _ => t.isFp || t.isInt
  | .vsub t _ _ _ _ => t.isFp || t.isInt
  | .vmul t _ _ _ _ => t.isFp || t.isInt
  | .vmin t _ _ _ _ => t.isFp || t.isInt
  | .vmax t _ _ _ _ => t.isFp || t.isInt
  | .vabs t _ _ _ => t.isFp || t.isSigned
  | .vneg t _ _ _ => t.isFp || t.isSigned
  | .vcmp t _ _ _ _ => t.isFp || t.isInt
  | .vsel _ m _ _ _ => m != .none
  | .vand t _ _ _ _ => !t.isFp
  | .vor t _ _ _ _ => !t.isFp
  | .vxor t _ _ _ _ => !t.isFp
  | .vshl t _ _ _ _ => !t.isFp
  | .vshr t _ _ _ _ => !t.isFp
  | .vsra t _ _ _ _ => !t.isFp
  | .vaddF32Q m d b => !(m == false && d == 0 && b == 0)
  | .vsubF32Q .. | .vmulF32Q .. | .vmaxF32Q .. | .vminF32Q .. | .vaddI32Q .. | .vsubI32Q ..
  | .vmulI32Q .. | .vandB32Q .. | .vorB32Q .. | .vxorB32Q .. | .vshlI32Q .. | .vsraI32Q ..
  | .vmovQ .. | .vnegF32Q .. | .vabsF32Q .. | .vfma .. | .vfms .. | .vfnma .. => true
  | .vcvt t s _ _ _ => t.isVcvt && s.isVcvt
  | .vpack t _ _ _ _ => t.isPack
  | .vunpack t _ _ _ _ => t.isPack
  | .vquant t _ _ _ _ => t.isQuant
  | .vdeq t _ _ _ _ => t.isQuant
  | .vperm .. | .vbcast .. | .vext .. | .vins .. | .vslide .. | .vshuf .. => true
  | .vredadd t _ _ _ => t.isFp || t.isInt
  | .vredmax t _ _ _ => t.isFp || t.isInt
  | .vredmin t _ _ _ => t.isFp || t.isInt
  | .vscan t _ _ _ => t.isFp || t.isInt
  | .mand .. | .mor .. | .mnot .. | .mpopc .. | .mfirst .. | .mset .. => true
  | .vaddi t _ _ _ => t.isInt
  | .vshli t _ _ i => !t.isFp && decide (i.toNat < t.bits)
  | .vmovi .. | .strmCfg .. | .strmEnd .. | .strmPos .. | .opclaim .. | .oprel ..
  | .opload .. | .opstat .. | .ttEnq .. | .ttGrp .. | .ttPair .. | .ttAppend ..
  | .ttQcfg .. | .accClr .. | .accScale .. | .accDrain .. | .accLoad .. | .cpy ..
  | .cpy2d .. | .cpyCvt .. | .putSig .. | .wsLoad .. | .siftCfg .. | .gath ..
  | .scat .. | .siftStat .. | .kbind .. | .ksend .. | .kdrain .. | .topkCfg ..
  | .topkSend .. | .topkRd .. | .collRed .. | .collBcast .. | .tokSend .. | .fabStat ..
  | .trap .. | .ctlrd .. | .ctlwr .. | .tlbinvPage .. | .tlbinvCtx .. | .crumbMark ..
  | .fenceI .. | .commit .. | .eret .. | .halt .. | .tlbinvAll .. | .harvest ..
  | .dispatch .. | .messageArrival .. | .spillReinject .. | .drain .. | .deliver .. | .perform ..
  | .answer .. | .postedWriteFlush .. | .bankReplayRetry .. | .bankhashRewrite .. | .escapeChannelEntry .. | .leaseGrant ..
  | .leaseRecall .. | .leaseIdleReturn .. | .pageWalkComplete .. | .tlbinvComplete .. | .faultRewalk .. | .harvestComplete ..
  | .dirtyLogMerge .. | .rankmapComplete .. | .sfuResult .. | .yieldExpiry .. | .cwaittTimeout .. | .barrierPhaseComplete ..
  | .inheritanceNotice .. | .stealRequest .. | .stealVictimReply .. | .stealBackoffExpiry .. | .launchRingRegister .. | .tailNotice ..
  | .launchRingPoll .. | .launchExpansion .. | .contextSwitch .. | .haltConfirm .. | .contextSaveComplete .. | .contextRestore ..
  | .tileTaskIssue .. | .tileTaskComplete .. | .pairCommit .. | .pairTimeout .. | .groupStart .. | .groupFinish ..
  | .matrixCommandStart .. | .matrixCommandComplete .. | .copyCommandStart .. | .copyChunk .. | .copyCommandComplete .. | .engineFaultStop ..
  | .wsBankRefresh .. | .wsPhaseChange .. | .sifterCommandComplete .. | .keyedBatch .. | .topkScore .. | .topkCfgComplete ..
  | .capsuleArrival .. | .capsuleSpillLanding .. | .cellArrival .. | .reductionCellCombine .. | .tokenRowArrival .. | .portDown ..
  | .cellLost .. | .replayRingRead .. | .replayDeparture .. | .hostWrite .. | .hostRead .. | .detset ..
  | .wsReadPhaseRequest .. | .wsWritePhaseRequest .. | .censusFreeze .. | .censusThaw .. | .park .. | .ckpt ..
  | .checkpointComplete .. | .cdataRead .. | .cdataWrite .. | .configRegisterWrite .. | .powerUpBoot .. | .attestationQuote ..
  | .illegalWord .. | .routerCommandComplete .. | .linkRetrain .. | .poweredHour .. | .supplyDroopEvent .. => true

/-- A well-formed instruction, as a proposition. -/
abbrev Instr.WellFormed (i : Instr) : Prop := i.wf = true

end Sys2Proof
end

