-- ==== Sys2Proof/Machine/Float.lean ====
section
/-! DEFINITION. Number formats, rounding and exceptions (R64 to R79). Values are exact; each result is rounded once. -/

namespace Sys2Proof.Machine

/-! ## Formats -/

/-- A floating-point format (R64): fraction bits, exponent bits, bias. -/
structure Fmt where
  frac : Nat
  expo : Nat
  bias : Nat
  deriving DecidableEq, Repr

/-- The formats of R64; f32 where the type is no FP type. -/
def fmtOf : Ty → Fmt
  | .f40 => ⟨31, 8, 127⟩
  | .f32 => ⟨23, 8, 127⟩
  | .bf16 => ⟨7, 8, 127⟩
  | .f16 => ⟨10, 5, 15⟩
  | .e5m2 => ⟨2, 5, 15⟩
  | .e4m3 => ⟨3, 4, 7⟩
  | .e3m2 => ⟨2, 3, 3⟩
  | .e2m3 => ⟨3, 2, 1⟩
  | .e2m1 => ⟨1, 2, 1⟩
  | .i3 | .i4 | .i8 | .i16 | .i32 | .i64 | .n3 | .n4 | .n8 | .n16 | .n32 | .n64 | .q3 | .q4 | .q8 => ⟨23, 8, 127⟩

/-- Formats whose top exponent code has infinities and NaNs by IEEE rules under the NaN mode (R66). -/
def ieeeTop (t : Ty) (nanm : Bool) : Bool :=
  match t with
  | .f40 | .f32 | .bf16 | .f16 | .e5m2 => true
  | .e4m3 => nanm
  | _ => false

/-- Formats with a NaN (R66). -/
def hasNan (t : Ty) (nanm : Bool) : Bool := ieeeTop t nanm || t == .e4m3

/-- The sign bit's weight. -/
def signBit (t : Ty) : Nat := 2 ^ ((fmtOf t).frac + (fmtOf t).expo)

/-- The canonical NaN (R66, R76): +0 in formats without one. -/
def canonNan (t : Ty) (nanm : Bool) : Nat :=
  if t == .e4m3 && !nanm then 0x7F
  else if ieeeTop t nanm then (2 ^ (fmtOf t).expo - 1) * 2 ^ (fmtOf t).frac + 2 ^ ((fmtOf t).frac - 1)
  else 0

/-- The pattern of the largest finite magnitude (R64). -/
def maxPat (t : Ty) (nanm : Bool) : Nat :=
  if ieeeTop t nanm then (2 ^ (fmtOf t).expo - 1) * 2 ^ (fmtOf t).frac - 1
  else if t == .e4m3 then 0x7E
  else signBit t - 1

/-- The magnitude pattern of infinity, or of the largest finite value where there is none. -/
def infPat (t : Ty) (nanm : Bool) : Nat :=
  if ieeeTop t nanm then (2 ^ (fmtOf t).expo - 1) * 2 ^ (fmtOf t).frac else maxPat t nanm

/-! ## Values -/

/-- An exact value: (-1)^neg * m * 2^e, an infinity or a NaN. The exponent e is the format's own grid (R73). -/
inductive FVal where
  | nan
  | inf (neg : Bool)
  | fin (neg : Bool) (m : Nat) (e : Int)
  deriving DecidableEq, Repr

/-- Decode a pattern (R65, R66). -/
def fdecode (t : Ty) (nanm : Bool) (x : Nat) : FVal :=
  let f := fmtOf t
  let F := nfld x 0 f.frac
  let E := nfld x f.frac f.expo
  let S := nfld x (f.frac + f.expo) 1 == 1
  let top := 2 ^ f.expo - 1
  if E = top ∧ ieeeTop t nanm = true then (if F = 0 then .inf S else .nan)
  else if E = top ∧ t = .e4m3 ∧ F = 7 then .nan
  else if E = 0 then .fin S F (1 - (f.bias : Int) - f.frac)
  else .fin S (2 ^ f.frac + F) ((E : Int) - f.bias - f.frac)

/-! ## Stochastic rounding (R73) -/

/-- mix64 of R73. -/
def mix64 (x : Word) : Word :=
  let z := x + 0x9E3779B97F4A7C15
  let z := (z ^^^ (z >>> 30)) * 0xBF58476D1CE4E5B9
  let z := (z ^^^ (z >>> 27)) * 0x94D049BB133111EB
  z ^^^ (z >>> 31)

/-- The LaneWord of R73. -/
def laneWord (seed : Word) (ti tj row lane : Nat) : Nat :=
  let w := mix64 (seed ^^^ (ofN (ti % 2 ^ 20) <<< 44) ^^^ (ofN (tj % 2 ^ 20) <<< 24) ^^^ ofN row)
  (w.rotateLeft (11 * lane % 64)).toNat

/-- The LaneWord of a lane or scalar rounding: the tile comes from ctl.srtile (R74, R75). -/
def envLane (fp : FpEnv) (row lane : Nat) : Nat :=
  laneWord fp.srseed (wfld fp.srtile 20 20) (wfld fp.srtile 0 20) row lane

/-! ## Rounding (R69, R72, R73) -/

/-- Whether the kept part goes up by one: `kept` and the discarded bits `rem` out of 2^d, `sticky` when the exact value
lies above them, in the mode, with the sign and the LaneWord. -/
def roundUp (rm : Nat) (neg : Bool) (kept rem d : Nat) (sticky : Bool) (lane : Nat) : Bool :=
  let inexact := rem != 0 || sticky
  let twice := 2 * rem
  let half := 2 ^ d
  let above := decide (twice > half) || (twice == half && sticky)
  let tie := twice == half && !sticky
  match rm with
  | 0 => above || (tie && kept % 2 == 1)
  | 1 => false
  | 2 => inexact && !neg
  | 3 => inexact && neg
  | 4 => above || tie
  | _ =>
    let d' := min d 32
    decide (rem / 2 ^ (d - d') + lane % 2 ^ d' ≥ 2 ^ d')

/-- The magnitude pattern of an overflow (R72). -/
def overflowPat (t : Ty) (nanm : Bool) (rm : Nat) (neg : Bool) : Nat :=
  match rm with
  | 1 => maxPat t nanm
  | 2 => if neg then maxPat t nanm else infPat t nanm
  | 3 => if neg then infPat t nanm else maxPat t nanm
  | _ => infPat t nanm

/-- Round (-1)^neg * m * 2^e (a little more when `sticky`) to a format: the pattern and the flags. -/
def roundTo (t : Ty) (nanm : Bool) (rm lane : Nat) (neg : Bool) (m : Nat) (e : Int) (sticky : Bool) : Nat × Nat :=
  let f := fmtOf t
  let sgn := if neg then signBit t else 0
  if m = 0 ∧ sticky = false then (sgn, 0) else
  let lmin : Int := 1 - (f.bias : Int) - f.frac
  let top : Int := (m.log2 : Int) + e
  let l : Int := max (top - f.frac) lmin
  let d := (l - e).toNat
  let kept := if l ≤ e then m * 2 ^ (e - l).toNat else m / 2 ^ d
  let rem := if l ≤ e then 0 else m % 2 ^ d
  let inexact := rem != 0 || sticky
  let kept' := if roundUp rm neg kept rem d sticky lane && inexact then kept + 1 else kept
  let pat := (l - lmin).toNat * 2 ^ f.frac + kept'
  if pat > maxPat t nanm then (sgn + overflowPat t nanm rm neg, flagOF + flagNX)
  else
    let tiny := decide (top < 1 - (f.bias : Int))
    (sgn + pat, if inexact then (if tiny then flagUF + flagNX else flagNX) else 0)

/-- Round an exact finite value to a format. -/
def roundFin (t : Ty) (fp : FpEnv) (lane : Nat) (neg : Bool) (m : Nat) (e : Int) : Nat × Nat :=
  roundTo t fp.nanm fp.rm lane neg m e false

/-- An infinity in a format with one. -/
def mkInf (t : Ty) (nanm neg : Bool) : Nat := infPat t nanm + if neg then signBit t else 0

/-! ## Sums and products, exact -/

/-- The product of two values; none for 0 times infinity. -/
def fprod (a b : FVal) : Option FVal :=
  match a, b with
  | .nan, _ => some .nan
  | _, .nan => some .nan
  | .inf s, .inf r => some (.inf (s != r))
  | .inf s, .fin r m _ => if m = 0 then none else some (.inf (s != r))
  | .fin s m _, .inf r => if m = 0 then none else some (.inf (s != r))
  | .fin s m e, .fin r n g => some (.fin (s != r) (m * n) (e + g))

/-- The negation of a value. -/
def fnegV : FVal → FVal
  | .nan => .nan
  | .inf s => .inf !s
  | .fin s m e => .fin (!s) m e

/-- A signed magnitude on a finer grid. -/
def onGrid (neg : Bool) (m : Nat) (e g : Int) : Int :=
  let x : Int := (m * 2 ^ (e - g).toNat : Nat)
  if neg then -x else x

/-- The exact sum of two values under a mode: an exact zero is +0, or -0 under RDN, and (-0) + (-0) is -0 (R138). The sum stands on the finer grid
of the two, from which SR counts the bits it discards (R73; entry 63, DESIGN CHOICE). None for infinities of both signs. -/
def fsum2 (rm : Nat) (a b : FVal) : Option FVal :=
  match a, b with
  | .nan, _ => some .nan
  | _, .nan => some .nan
  | .inf s, .inf r => if s = r then some (.inf s) else none
  | .inf s, .fin _ _ _ => some (.inf s)
  | .fin _ _ _, .inf r => some (.inf r)
  | .fin s m e, .fin r n g =>
    let l := min e g
    let x := onGrid s m e l + onGrid r n g l
    if x = 0 then some (.fin (rm == 3 || (m == 0 && n == 0 && s && r)) 0 l)
    else some (.fin (decide (x < 0)) x.natAbs l)

/-- The exact sum of a list of values, none for infinities of both signs (R80). -/
def fsumList (rm : Nat) : List FVal → Option FVal
  | [] => some (.fin false 0 0)
  | [x] => some x
  | x :: rest =>
    match fsumList rm rest with
    | some y => fsum2 rm x y
    | none => if x = .nan then some .nan else none

/-- Round a value; a NaN becomes the canonical NaN without a flag. -/
def roundVal (t : Ty) (fp : FpEnv) (lane : Nat) (x : FVal) : Nat × Nat :=
  match x with
  | .nan => (canonNan t fp.nanm, 0)
  | .inf s => (mkInf t fp.nanm s, 0)
  | .fin s m e => roundFin t fp lane s m e

/-- Round a value, or answer the canonical NaN with NV where there is none. -/
def roundOpt (t : Ty) (fp : FpEnv) (lane : Nat) (x : Option FVal) : Nat × Nat :=
  match x with
  | some v => roundVal t fp lane v
  | none => (canonNan t fp.nanm, flagNV)

/-! ## The arithmetic of R138 to R141 -/

/-- a + b. -/
def fadd (t : Ty) (fp : FpEnv) (lane a b : Nat) : Nat × Nat :=
  roundOpt t fp lane (fsum2 fp.rm (fdecode t fp.nanm a) (fdecode t fp.nanm b))

/-- a - b. -/
def fsub (t : Ty) (fp : FpEnv) (lane a b : Nat) : Nat × Nat :=
  roundOpt t fp lane (fsum2 fp.rm (fdecode t fp.nanm a) (fnegV (fdecode t fp.nanm b)))

/-- a * b. -/
def fmul (t : Ty) (fp : FpEnv) (lane a b : Nat) : Nat × Nat :=
  roundOpt t fp lane (fprod (fdecode t fp.nanm a) (fdecode t fp.nanm b))

/-- x + y * z with the product exact; `negP` negates the product. 0 times infinity is NaN with NV even when x is NaN
(R141). -/
def ffma (t : Ty) (fp : FpEnv) (lane : Nat) (negP negX : Bool) (y z x : Nat) : Nat × Nat :=
  match fprod (fdecode t fp.nanm y) (fdecode t fp.nanm z) with
  | none => (canonNan t fp.nanm, flagNV)
  | some p =>
    let p := if negP then fnegV p else p
    let c := fdecode t fp.nanm x
    let c := if negX then fnegV c else c
    roundOpt t fp lane (fsum2 fp.rm p c)

/-- Round the quotient m/n * 2^e: 100 bits of it and a sticky bit. -/
def roundQuot (t : Ty) (fp : FpEnv) (lane : Nat) (neg : Bool) (m n : Nat) (e : Int) : Nat × Nat :=
  let k := n.log2 + 100
  let q := m * 2 ^ k / n
  roundTo t fp.nanm fp.rm lane neg q (e - k) (m * 2 ^ k % n != 0)

/-- a / b (entry 20, DEDUCED). -/
def fdiv (t : Ty) (fp : FpEnv) (lane a b : Nat) : Nat × Nat :=
  match fdecode t fp.nanm a, fdecode t fp.nanm b with
  | .nan, _ => (canonNan t fp.nanm, 0)
  | _, .nan => (canonNan t fp.nanm, 0)
  | .inf _, .inf _ => (canonNan t fp.nanm, flagNV)
  | .inf s, .fin r _ _ => (mkInf t fp.nanm (s != r), 0)
  | .fin s _ _, .inf r => (if s != r then signBit t else 0, 0)
  | .fin s m e, .fin r n g =>
    if n = 0 then (if m = 0 then (canonNan t fp.nanm, flagNV) else (mkInf t fp.nanm (s != r), flagDZ))
    else if m = 0 then (if s != r then signBit t else 0, 0)
    else roundQuot t fp lane (s != r) m n (e - g)

/-- The square root of a (entry 20, DEDUCED). -/
def fsqrt (t : Ty) (fp : FpEnv) (lane a : Nat) : Nat × Nat :=
  match fdecode t fp.nanm a with
  | .nan => (canonNan t fp.nanm, 0)
  | .inf s => if s then (canonNan t fp.nanm, flagNV) else (mkInf t fp.nanm false, 0)
  | .fin s m e =>
    if m = 0 then (if s then signBit t else 0, 0)
    else if s then (canonNan t fp.nanm, flagNV)
    else
      let odd := (e % 2).toNat
      let x := m * 2 ^ odd * 2 ^ 200
      let r := isqrt x
      roundTo t fp.nanm fp.rm lane false r ((e - odd) / 2 - 100) (r * r != x)

/-- a < b among values that are not NaN, with -0 equal to +0. -/
def fltV : FVal → FVal → Bool
  | .inf s, .inf r => s && !r
  | .inf s, .fin _ _ _ => s
  | .fin _ _ _, .inf r => !r
  | .fin s m e, .fin r n g =>
    let l := min e g
    decide (onGrid s m e l < onGrid r n g l)
  | _, _ => false

/-- a = b among values that are not NaN, with -0 equal to +0. -/
def feqV (a b : FVal) : Bool := a != .nan && b != .nan && !fltV a b && !fltV b a

/-- The sign of a value. -/
def fsign : FVal → Bool
  | .nan => false
  | .inf s => s
  | .fin s _ _ => s

/-- a below b with -0 below +0 (R139). -/
def ftotalLt (a b : FVal) : Bool := fltV a b || (feqV a b && fsign a && !fsign b)

/-- FMIN and FMAX (R139). -/
def fminmax (t : Ty) (nanm isMax : Bool) (a b : Nat) : Nat :=
  let x := fdecode t nanm a
  let y := fdecode t nanm b
  let a := a % 2 ^ t.bits
  let b := b % 2 ^ t.bits
  if x = .nan then (if y = .nan then canonNan t nanm else b)
  else if y = .nan then a
  else if isMax then (if ftotalLt x y then b else a) else (if ftotalLt y x then b else a)

/-- FCMPEQ, FCMPLT and FCMPLE (R139): the truth and the flags. -/
def fcompare (t : Ty) (nanm : Bool) (lt eq : Bool) (a b : Nat) : Bool × Nat :=
  let x := fdecode t nanm a
  let y := fdecode t nanm b
  if x = .nan ∨ y = .nan then (false, if lt then flagNV else 0)
  else ((lt && fltV x y) || (eq && feqV x y), 0)

/-- FCLASS (R139): one set bit. -/
def fclass (t : Ty) (nanm : Bool) (a : Nat) : Nat :=
  match fdecode t nanm a with
  | .nan => 2 ^ 8
  | .inf s => if s then 1 else 2 ^ 7
  | .fin s m e =>
    let sub := decide (m < 2 ^ (fmtOf t).frac ∧ e = 1 - ((fmtOf t).bias : Int) - (fmtOf t).frac)
    if m = 0 then (if s then 2 ^ 3 else 2 ^ 4)
    else if sub then (if s then 2 ^ 2 else 2 ^ 5)
    else if s then 2 ^ 1 else 2 ^ 6

/-! ## Conversions (R76, R77) -/

/-- The range of an integer type (R67). -/
def intRange (t : Ty) : Int × Int :=
  if t.isSigned then (-((2 ^ (t.bits - 1) : Nat) : Int), ((2 ^ (t.bits - 1) : Nat) : Int) - 1)
  else (0, ((2 ^ t.bits : Nat) : Int) - 1)

/-- Saturate an integer to a range: the value and whether it saturated. -/
def satInt (lo hi x : Int) : Int × Bool :=
  if x < lo then (lo, true) else if x > hi then (hi, true) else (x, false)

/-- Round an exact value to an integer in a mode (R77): the integer and whether it was inexact. -/
def roundInt (rm lane : Nat) (neg : Bool) (m : Nat) (e : Int) (sticky : Bool) : Int × Bool :=
  let d := (-e).toNat
  let kept := if 0 ≤ e then m * 2 ^ e.toNat else m / 2 ^ d
  let rem := if 0 ≤ e then 0 else m % 2 ^ d
  let inexact := rem != 0 || sticky
  let kept' : Int := if roundUp rm neg kept rem d sticky lane && inexact then kept + 1 else kept
  (if neg then -kept' else kept', inexact)

/-- FP to FP (R76). -/
def cvtFF (dst src : Ty) (fp : FpEnv) (lane a : Nat) : Nat × Nat :=
  match fdecode src fp.nanm a with
  | .nan => (canonNan dst fp.nanm, if hasNan dst fp.nanm then 0 else flagNV)
  | .inf s =>
    (infPat dst fp.nanm + (if s then signBit dst else 0), if ieeeTop dst fp.nanm then 0 else flagNV)
  | .fin s m e => roundFin dst fp lane s m e

/-- FP to integer (R77): the two's complement code in the type's width. -/
def cvtFI (dst src : Ty) (fp : FpEnv) (lane a : Nat) : Nat × Nat :=
  let (lo, hi) := intRange dst
  match fdecode src fp.nanm a with
  | .nan => (0, flagNV)
  | .inf s => (ofSigned dst.bits (if s then lo else hi), flagNV)
  | .fin s m e =>
    let (x, inexact) := roundInt fp.rm lane s m e false
    let (y, sat) := satInt lo hi x
    (ofSigned dst.bits y, if sat then flagNV else if inexact then flagNX else 0)

/-- The integer a pattern of an integer type stands for. -/
def intOf (t : Ty) (a : Nat) : Int := if t.isSigned then toSigned t.bits a else ((a % 2 ^ t.bits : Nat) : Int)

/-- Integer to FP (R77). -/
def cvtIF (dst src : Ty) (fp : FpEnv) (lane a : Nat) : Nat × Nat :=
  let x := intOf src a
  roundFin dst fp lane (decide (x < 0)) x.natAbs 0

/-- Integer to integer (R77). -/
def cvtII (dst src : Ty) (a : Nat) : Nat × Nat :=
  let (lo, hi) := intRange dst
  let (y, sat) := satInt lo hi (intOf src a)
  (ofSigned dst.bits y, if sat then flagNV else 0)

/-- The conversion of FCVT and VCVT: the pattern in the destination's width and the flags. -/
def fconvert (dst src : Ty) (fp : FpEnv) (lane a : Nat) : Nat × Nat :=
  match src.isFp, dst.isFp with
  | true, true => cvtFF dst src fp lane a
  | true, false => cvtFI dst src fp lane a
  | false, true => cvtIF dst src fp lane a
  | false, false => cvtII dst src a

/-! ## Quantised values (R78) -/

/-- Quant of R78: x a value, s a value, z the zero point, w the width. Under SR 32 bits of the quotient are discarded (entry 79, DESIGN
CHOICE). -/
def quantize (fp : FpEnv) (lane w : Nat) (x s : FVal) (z : Nat) : Nat × Nat :=
  match x, s with
  | .nan, _ => (z, flagNV)
  | _, .nan => (z, flagNV)
  | _, .inf _ => (z, flagNV)
  | .inf xs, .fin ss n _ =>
    if n = 0 then (z, flagNV) else (if xs != ss then 0 else 2 ^ w - 1, flagNV)
  | .fin xs m e, .fin ss n g =>
    if n = 0 then (z, flagNV) else
    let k := n.log2 + 100
    let q := m * 2 ^ k / n
    let (r, inexact) := roundInt fp.rm lane (xs != ss) q (e - g - k) (m * 2 ^ k % n != 0)
    let (t, sat) := satInt 0 ((2 ^ w : Nat) - 1 : Int) (r + z)
    (t.toNat, if sat then flagNV else if inexact then flagNX else 0)

/-- Dequant of R78: s * (q - z), rounded once to the target. -/
def dequantize (t : Ty) (fp : FpEnv) (lane : Nat) (q : Nat) (s : FVal) (z : Nat) : Nat × Nat :=
  let x : Int := (q : Int) - z
  roundOpt t fp lane (fprod s (.fin (decide (x < 0)) x.natAbs 0))

end Sys2Proof.Machine
end

