-- ==== Sys2Proof/Config.lean ====
section
/-! DEFINITION. What the spec leaves open: free values, as constants without a body, so that nothing can evaluate them
(entries 7 and 8 of the assumption log). -/

namespace Sys2Proof

/-- A free value, fresh for each number (entry 7, DESIGN CHOICE). -/
opaque Config.freeWord : Nat → Word

/-- A mask over the payload words w1 and w2 of the crumb records of a kind: the spec names the values of R381 and not how the words hold them
(entry 9, DESIGN CHOICE). -/
opaque Config.crumbMask : Nat → Word × Word

/-- The bytes of a safe-tier image (R390): the spec names its sections and leaves the census sections' lengths open (entry 10, DESIGN CHOICE). -/
opaque Config.imageBytes : Nat

/-- The instances of an element of the census image and the words of each, where the spec fixes neither (R125, R390; entry 10, DESIGN CHOICE). -/
opaque Config.elemShape : Nat → Nat → Nat × Nat

/-- A word of the image that a save writes, where the spec leaves its layout open: the number of the save, and the word's place (R125; entry 10,
DESIGN CHOICE). -/
opaque Config.imageWord : Nat → Nat → Word

/-- Where the census image shows the life log, by the address in CADDR: 1 more than the number of a count, or 0 where it shows none (R390, R395: the host
reads the log there, and no class is its own; entry 42, DESIGN CHOICE). -/
opaque Config.lifeAt : Word → Nat

/-- SHA3-512 (R393, R394; entry 8, DESIGN CHOICE). -/
opaque Config.sha3 : List Byte → List Byte

/-- Whether an ML-DSA-87 signature over a digest verifies against the key of the fuses (R393; entry 8, DESIGN CHOICE). -/
opaque Config.verifies : List Byte → List Byte → Bool

/-- The ML-DSA-87 signature by the device identity key (R394; entry 8, DESIGN CHOICE). -/
opaque Config.sign : List Byte → List Byte

end Sys2Proof
end

