-- ==== Sys2Proof/Machine/Memory.lean ====
section
/-! DEFINITION. Memory: physical bit addresses, cells of one byte in canonical form, granules of 64 bits (R28, R36, R39),
and where each granule is homed (R46, R188, R324).

A physical bit address is a number: bits from 60 upward name the space (0 local memory of the pod's cores, 1 HBM of the
pod's dies, 2 the weight stores of the own package, 3 host memory), and the rest is the place within it. A cell's key is
the physical bit address divided by 8. Space 4 holds what the check bits of local memory say: for each of its granules a byte, not 0 while its data is
uncorrectable (R189). -/

namespace Sys2Proof.Machine

/-- The physical address of a bit of a core's local memory; g counts all cores of the pod (R30). -/
def localAddr (g off : Nat) : Nat := g * 2 ^ 25 + off

/-- The physical address of a bit of an HBM stack; g counts all dies of the pod (R42). -/
def hbmAddr (g off : Nat) : Nat := 2 ^ 60 + g * 2 ^ 39 + off

/-- The physical address of a bit of a die's weight store (R33). -/
def wsAddr (die off : Nat) : Nat := 2 * 2 ^ 60 + die * 2 ^ 35 + off

/-- The physical address of a bit of host memory (R5). -/
def hostAddr (off : Nat) : Nat := 3 * 2 ^ 60 + off

/-- The space of a physical bit address. -/
def spaceOf (p : Nat) : Nat := p / 2 ^ 60

/-- What a byte that no cell lists reads as: zero in local memory (R125) and, by the model's choice, in host memory;
nothing in HBM and the weight store, whose check bits report every granule uncorrectable until it is first written
whole (R189, R313) (entry 2, DESIGN CHOICE). -/
def Mem.unlisted (key : Nat) : Option Byte :=
  if spaceOf (key * 8) = 1 ∨ spaceOf (key * 8) = 2 then none else some 0

/-- Read one byte. -/
def Mem.readByte (m : Mem) (key : Nat) : Option Byte :=
  match m with
  | [] => Mem.unlisted key
  | (j, b) :: rest => if j = key then some b else if key < j then Mem.unlisted key else Mem.readByte rest key

/-- Place a cell at the head of a memory, unless it says what an unlisted byte reads as. -/
def Mem.putHead (key : Nat) (b : Byte) (rest : Mem) : Mem :=
  if Mem.unlisted key = some b then rest else (key, b) :: rest

/-- Write one byte, keeping the canonical form. -/
def Mem.writeByte (m : Mem) (key : Nat) (b : Byte) : Mem :=
  match m with
  | [] => Mem.putHead key b []
  | (j, c) :: rest =>
    if j = key then Mem.putHead key b rest
    else if key < j then Mem.putHead key b ((j, c) :: rest)
    else (j, c) :: Mem.writeByte rest key b

/-- The keys rise strictly. -/
def Mem.rising : Mem → Bool
  | [] => true
  | [_] => true
  | (j, _) :: (k, c) :: rest => decide (j < k) && Mem.rising ((k, c) :: rest)

/-- Canonical form: keys rise strictly, and no cell says what an unlisted byte reads as. -/
def Mem.wf (m : Mem) : Bool := Mem.rising m && m.all fun c => decide (Mem.unlisted c.1 ≠ some c.2)

/-- Read n bytes from a key upward; none when any is uncorrectable. -/
def Mem.readBytes (m : Mem) (key : Nat) : Nat → Option (List Byte)
  | 0 => some []
  | n + 1 =>
    match m.readByte key, Mem.readBytes m (key + 1) n with
    | some b, some bs => some (b :: bs)
    | _, _ => none

/-- Write bytes from a key upward. -/
def Mem.writeBytes (m : Mem) (key : Nat) : List Byte → Mem
  | [] => m
  | b :: bs => Mem.writeBytes (m.writeByte key b) (key + 1) bs

/-- The key of the byte that says whether a granule of local memory is uncorrectable. -/
def checkKey (g : Nat) : Nat := 2 ^ 59 + g / 64

/-- Whether the check bits of local memory report a granule uncorrectable (R189). -/
def Mem.spoiled (m : Mem) (g : Nat) : Bool := spaceOf g == 0 && m.readByte (checkKey g) != some 0

/-- Read the granule at a physical bit address, a multiple of 64; none when its data is uncorrectable (R189). -/
def Mem.readGran (m : Mem) (g : Nat) : Option Word := if m.spoiled g then none else (m.readBytes (g / 8) 8).map fun bs => ofN (joinBytes bs)

/-- Write a granule whole, with its check bits. -/
def Mem.writeGran (m : Mem) (g : Nat) (w : Word) : Mem :=
  let m := m.writeBytes (g / 8) (splitBytes w.toNat 8)
  if spaceOf g = 0 then m.writeByte (checkKey g) 0 else m

/-- A two-bit error in a granule of local memory, an HBM or a weight store: its data is uncorrectable until it is written whole (R189). -/
def Mem.spoil (m : Mem) (g : Nat) : Mem :=
  match spaceOf g with
  | 0 => m.writeByte (checkKey g) 1
  | 1 | 2 => m.filter fun c => c.1 / 8 != g / 64
  | _ => m

/-- The mask of a write that covers its granule. -/
def wholeMask : Word := BitVec.allOnes 64

/-- A store to one granule: whole, or read-merge-write (R41). None: a narrow store met uncorrectable data (R189). -/
def Mem.storeGran (m : Mem) (g : Nat) (mask bits : Word) : Option Mem :=
  if mask = wholeMask then some (m.writeGran g bits)
  else match m.readGran g with
    | some old => some (m.writeGran g (mergeBits old mask bits))
    | none => none

/-- Write words to consecutive granules. -/
def Mem.writeWords (m : Mem) (g : Nat) : List Word → Mem
  | [] => m
  | w :: ws => Mem.writeWords (m.writeGran g w) (g + 64) ws

/-- Read n consecutive granules. -/
def Mem.readWords (m : Mem) (g : Nat) : Nat → Option (List Word)
  | 0 => some []
  | n + 1 =>
    match m.readGran g, Mem.readWords m (g + 64) n with
    | some w, some ws => some (w :: ws)
    | _, _ => none

/-- The HBM slice of a bit offset within a stack (R188). -/
def sliceOf (off : Nat) : Nat := Nat.xor (off / 2 ^ 14 % 16) (off / 2 ^ 18 % 16)

/-- The weight-store bank of a bit offset (R324): 32 banks, rotating every 1,024 bits. -/
def wsBankOf (off : Nat) : Nat := off / 2 ^ 10 % 32

/-- The home of the granule at a physical bit address (R46); host memory goes to the bridge of the issuing die, counted
over the pod. -/
def homeOf (issuingDie p : Nat) : HomeId :=
  match spaceOf p with
  | 0 => .core (p / 2 ^ 25)
  | 1 => .slice (p % 2 ^ 60 / 2 ^ 39) (sliceOf (p % 2 ^ 39))
  | 2 => .bank (issuingDie / 8 * 8 + p % 2 ^ 60 / 2 ^ 35) (wsBankOf (p % 2 ^ 35))
  | _ => .bridge issuingDie

/-- A number for each home, to key its entry. -/
def homeKey : HomeId → Nat
  | .core c => 8 * c
  | .slice d k => 8 * (d * 16 + k) + 1
  | .bank d b => 8 * (d * 32 + b) + 2
  | .bridge d => 8 * d + 3
  | .quadUnit q => 8 * q + 4

/-- The package of a physical bit address; the own package for the weight store and host memory. -/
def pkgOf (own p : Nat) : Nat :=
  match spaceOf p with
  | 0 => p / 2 ^ 36
  | 1 => p % 2 ^ 60 / 2 ^ 42
  | _ => own

/-- Whether a physical bit address is peer memory (R39, R60). -/
def isPeer (own p : Nat) : Bool := pkgOf own p != own

/-- Whether a physical bit address is host memory. -/
def isHost (p : Nat) : Bool := spaceOf p == 3

/-- Whether a physical bit address is in a weight store. -/
def isWs (p : Nat) : Bool := spaceOf p == 2

/-- The 512-bit line of a physical bit address (R191). -/
def lineOf (p : Nat) : Nat := p / 512

end Sys2Proof.Machine
end

