-- ==== Sys2Proof/Machine/Base.lean ====
section
/-! DEFINITION. Reading and writing the parts of the state: strands, cores, quads, dies, homes, contexts, registers, and the
coordinates that name them (R1, R2, R30 to R32, R105, R106). -/

namespace Sys2Proof.Machine

/-! ## Numbers of cores and quads -/

/-- The die of a core. -/
def dieOf (c : Nat) : Nat := c / 256
/-- The row of a core. -/
def rowOf (c : Nat) : Nat := c / 16 % 16
/-- The column of a core. -/
def colOf (c : Nat) : Nat := c % 16
/-- The core at a die, row and column. -/
def coreAt (die row col : Nat) : Nat := die * 256 + row * 16 + col
/-- The quad of a core (R32). -/
def quadOf (c : Nat) : Nat := dieOf c * 64 + rowOf c / 2 * 8 + colOf c / 2
/-- The die of a quad. -/
def dieOfQuad (q : Nat) : Nat := q / 64
/-- The member core of a quad (R32). -/
def quadMember (q i : Nat) : Nat := coreAt (q / 64) (2 * (q % 64 / 8) + i / 2) (2 * (q % 8) + i % 2)
/-- The four member cores of a quad. -/
def quadCores (q : Nat) : List Nat := [quadMember q 0, quadMember q 1, quadMember q 2, quadMember q 3]
/-- The core of a strand. -/
def coreOf (sid : Nat) : Nat := sid / 8
/-- The cores of a die. -/
def coresOfDie (d : Nat) : List Nat := upFrom (d * 256) 256

/-! ## Parts of the state -/

/-- A strand by number: core * 8 + strand. -/
def State.strand (s : State) (sid : Nat) : Strand := s.strands.get sid Strand.init
/-- Change a strand. -/
def State.modStrand (s : State) (sid : Nat) (f : Strand → Strand) : State :=
  { s with strands := s.strands.set sid (f (s.strand sid)) }
/-- The strand an instruction acts on. -/
def State.me (s : State) : Strand := s.strand s.cur
/-- Change the strand an instruction acts on. -/
def State.modMe (s : State) (f : Strand → Strand) : State := s.modStrand s.cur f
/-- The core of that strand. -/
def State.ci (s : State) : Nat := coreOf s.cur
/-- A core by number. -/
def State.core (s : State) (c : Nat) : Core := s.cores.get c Core.init
/-- Change a core. -/
def State.modCore (s : State) (c : Nat) (f : Core → Core) : State := { s with cores := s.cores.set c (f (s.core c)) }
/-- A quad by number. -/
def State.quad (s : State) (q : Nat) : Quad := s.quads.get q Quad.init
/-- Change a quad. -/
def State.modQuad (s : State) (q : Nat) (f : Quad → Quad) : State := { s with quads := s.quads.set q (f (s.quad q)) }
/-- A die by number. -/
def State.die (s : State) (d : Nat) : Die := s.dies.get d Die.init
/-- Change a die. -/
def State.modDie (s : State) (d : Nat) (f : Die → Die) : State := { s with dies := s.dies.set d (f (s.die d)) }
/-- A home. -/
def State.home (s : State) (h : HomeId) : Home := s.homes.get (homeKey h) Home.init
/-- Change a home. -/
def State.modHome (s : State) (h : HomeId) (f : Home → Home) : State :=
  { s with homes := s.homes.set (homeKey h) (f (s.home h)) }
/-- The core an instruction acts on. -/
def State.myCore (s : State) : Core := s.core s.ci
/-- Change that core. -/
def State.modMyCore (s : State) (f : Core → Core) : State := s.modCore s.ci f
/-- An engine context of a core. -/
def State.eng (s : State) (c k : Nat) : EngCtx := (s.core c).engs.get k EngCtx.init
/-- Change an engine context. -/
def State.modEng (s : State) (c k : Nat) (f : EngCtx → EngCtx) : State :=
  s.modCore c fun x => { x with engs := x.engs.set k (f (x.engs.get k EngCtx.init)) }
/-- The number of a core among all cores of the pod. -/
def State.gcore (s : State) (c : Nat) : Nat := s.pkg * 2048 + c
/-- The number of a die among all dies of the pod. -/
def State.gdie (s : State) (d : Nat) : Nat := s.pkg * 8 + d
/-- Add to a count of the life log, which saturates at 32 bits (R395). -/
def State.lifeAdd (s : State) (key n : Nat) : State :=
  { s with life := s.life.set key (min (s.life.get key 0 + n) (2 ^ 32 - 1)) }
/-- The life-log key of faults posted under a cause code (R395). -/
def lifeFault (code : Nat) : Nat := 500 + code
/-- The life-log key of refused host writes (R395). -/
def lifeRefused : Nat := 600
/-- The life-log key of a stack's uncorrectable errors (R395). -/
def lifeUncorrectable (die : Nat) : Nat := 200 + die

/-! ## Contexts -/

/-- The running context of a die (R106). -/
def State.ctxOf (s : State) (d : Nat) : Nat := wfld (s.die d).ctx 0 4
/-- Whether that context is package-wide. -/
def State.ctxWide (s : State) (d : Nat) : Bool := wbit (s.die d).ctx 4
/-- The key of a die's running context in the table of context registers: one for the package when package-wide. -/
def State.ctxKey (s : State) (d : Nat) : Nat := if s.ctxWide d then s.ctxOf d else 16 * (d + 1) + s.ctxOf d
/-- The context registers in force on a die. -/
def State.ctxRegs (s : State) (d : Nat) : CtxRegs := s.ctxs.get (s.ctxKey d) CtxRegs.init
/-- Change them. -/
def State.modCtxRegs (s : State) (d : Nat) (f : CtxRegs → CtxRegs) : State :=
  { s with ctxs := s.ctxs.set (s.ctxKey d) (f (s.ctxRegs d)) }

/-- ctl.coord of a core (R106). -/
def State.coord (s : State) (c : Nat) : Word :=
  ofN (s.pkg * 2 ^ 38 + dieOf c * 2 ^ 35 + rowOf c * 2 ^ 31 + colOf c * 2 ^ 27 + (s.core c).rank % 2 ^ 24)
/-- ctl.coord [47:27] of a core, in place (R120, R136). -/
def State.coordHi (s : State) (c : Nat) : Nat := s.pkg * 2 ^ 38 + dieOf c * 2 ^ 35 + rowOf c * 2 ^ 31 + colOf c * 2 ^ 27

/-- Whether a die's strands stand still and send nothing: for a census cut (R389), or once a halt is confirmed (R121). -/
def State.halted (s : State) (d : Nat) : Bool :=
  (s.die d).frozen != 0 || (match (s.die d).switch with | some w => decide (w.phase ≥ 1) | none => false)

/-- Whether a die has confirmed the halt of a context switch (R121). -/
def State.switching (s : State) (d : Nat) : Bool := match (s.die d).switch with | some w => decide (w.phase ≥ 1) | none => false

/-- The parts of a die's state that belong to its running context, taken from another record (R204, R328, R380). -/
def Die.takeCtx (k from_ : Die) : Die :=
  { k with inherit := from_.inherit, expansion := from_.expansion, lastMode2 := from_.lastMode2, crumbSeq := from_.crumbSeq,
           replay := from_.replay, waitFrom := from_.waitFrom, dead := from_.dead, recFrom := from_.recFrom }

/-! ## Registers (R127, R248) -/

/-- Read a scalar register; s0 reads 0 (R127). -/
def Regs.rd (r : Regs) (i : Reg) : Word := if i = 0 then 0 else r.s[i.val]
/-- Write a scalar register; a write to s0 is discarded (R127). -/
def Regs.wr (r : Regs) (i : Reg) (x : Word) : Regs := if i = 0 then r else { r with s := r.s.set i.val x }
/-- Write a vector register. -/
def Regs.wrV (r : Regs) (i : Reg) (x : Vec) : Regs := { r with v := r.v.set i.val x }
/-- Write a mask register. -/
def Regs.wrM (r : Regs) (i : MReg) (x : Mask) : Regs := { r with m := r.m.set i.val x }

/-- Read a scalar register of the strand. -/
def State.rd (s : State) (i : Reg) : Word := s.me.regs.rd i
/-- Write a scalar register of the strand. -/
def State.wr (s : State) (i : Reg) (x : Word) : State := s.modMe fun t => { t with regs := t.regs.wr i x }
/-- Read a vector register of the strand. -/
def State.rdV (s : State) (i : Reg) : Vec := s.me.regs.v[i.val]
/-- Write a vector register of the strand. -/
def State.wrV (s : State) (i : Reg) (x : Vec) : State := s.modMe fun t => { t with regs := t.regs.wrV i x }
/-- Read a mask register of the strand. -/
def State.rdM (s : State) (i : MReg) : Mask := s.me.regs.m[i.val]
/-- Write a mask register of the strand. -/
def State.wrM (s : State) (i : MReg) (x : Mask) : State := s.modMe fun t => { t with regs := t.regs.wrM i x }

/-- OR flags into ctl.fflags of the strand's core (R79). -/
def State.addFlags (s : State) (f : Nat) : State := s.modMyCore fun c => { c with fflags := c.fflags ||| ofN (f % 32) }

/-- The rounding and NaN settings of a core, sampled at issue (R71). -/
def State.fpEnv (s : State) (c : Nat) : FpEnv :=
  let k := s.core c
  ⟨wfld k.rm 0 3, wbit k.nanmode 0, k.srseed, k.srtile⟩

/-- A strand keeps nothing more of the instruction at its pc: values it has loaded, walks, its wait at a release, the modes it sampled. -/
def Strand.clearInstr (t : Strand) : Strand := { t with got := [], walked := [], gate := false, wsGate := [], fpAt := none }

/-- A strand whose instruction retires to a pc: instret counts it (R106). -/
def Strand.retireTo (t : Strand) (pc : Word) : Strand := { t.clearInstr with pc := pc, instret := t.instret + 1 }

/-- The instruction retires: pc moves past it (R106). -/
def State.retire (s : State) (len : Nat) : State := s.modMe fun t => t.retireTo (t.pc + ofN len)

/-- The instruction retires and the strand continues at another pc (R142 to R145). -/
def State.jump (s : State) (pc : Word) : State := s.modMe fun t => t.retireTo pc

/-- User mode of the strand (R107). -/
def State.user (s : State) : Bool := !s.me.status.mode

/-- Take the next free-value counter (entry 7, DESIGN CHOICE). -/
def State.fresh (s : State) : Nat × State := (s.free, { s with free := s.free + 1 })

/-! ## Messages -/

/-- The words of a message. -/
def Msg.words (m : Msg) : List Word := [m.w0, m.w1, m.w2, m.w3, m.w4, m.w5, m.w6, m.w7]

/-- The word of a list at an index; 0 beyond its end. -/
def wordAt (ws : List Word) (k : Nat) : Word := ws.getD k 0

/-- A message from its words. -/
def Msg.ofWords (ws : List Word) : Msg :=
  ⟨wordAt ws 0, wordAt ws 1, wordAt ws 2, wordAt ws 3, wordAt ws 4, wordAt ws 5, wordAt ws 6, wordAt ws 7⟩

/-- PRIO (R7). -/
def Msg.prio (m : Msg) : Nat := wfld m.w1 62 2
/-- KIND (R7). -/
def Msg.kind (m : Msg) : Nat := wfld m.w1 56 4
/-- SRANK (R7). -/
def Msg.srank (m : Msg) : Nat := wfld m.w1 32 24
/-- COOKIE (R7). -/
def Msg.cookie (m : Msg) : Nat := wfld m.w1 0 32
/-- NANM (R7). -/
def Msg.nanm (m : Msg) : Bool := wbit m.w1 61

/-- A header word from its fields (R7). -/
def header (prio nanm det kind srank cookie : Nat) : Word :=
  ofN (prio % 4 * 2 ^ 62 + nanm % 2 * 2 ^ 61 + det % 2 * 2 ^ 60 + kind % 16 * 2 ^ 56 + srank % 2 ^ 24 * 2 ^ 32 + cookie % 2 ^ 32)

/-- The header with NANM, DET and SRANK filled from the issuing strand's core, and a KIND (R8). -/
def State.ownHeader (s : State) (c kind : Nat) (w1 : Word) : Word :=
  let k := s.core c
  header (wfld w1 62 2) (wfld k.nanmode 0 1) (wfld k.det 0 1) kind k.rank (wfld w1 0 32)

/-- An address that is a multiple of n. -/
def aligned (a : Word) (n : Nat) : Bool := a.toNat % n == 0

end Sys2Proof.Machine
end

