-- ==== Sys2Proof/Machine/Translate.lean ====
section
/-! DEFINITION. From addresses to granules: direct windows and their checks (R28 to R37), page tables, TLBs and walks
(R42 to R45, R113). -/

namespace Sys2Proof.Machine

/-! ## Cause codes (R108) -/

/-- ILL. -/
def cILL : Nat := 0x01
/-- ALIGN. -/
def cALIGN : Nat := 0x02
/-- WINDOW. -/
def cWINDOW : Nat := 0x03
/-- PAGE. -/
def cPAGE : Nat := 0x04
/-- PROT. -/
def cPROT : Nat := 0x05
/-- ATOMIC_SCOPE. -/
def cATOMIC : Nat := 0x06
/-- DET_ATOMIC. -/
def cDET : Nat := 0x07
/-- LANDING_FAULT. -/
def cLANDING : Nat := 0x08
/-- TAG_BUSY. -/
def cTAGBUSY : Nat := 0x09
/-- NANMODE_MISMATCH. -/
def cNANMODE : Nat := 0x0A
/-- COUNTER_DEC. -/
def cCTRDEC : Nat := 0x0B
/-- COUNTER_STORE. -/
def cCTRSTORE : Nat := 0x0C
/-- SLOT_STATE. -/
def cSLOT : Nat := 0x0D
/-- PAIR_TIMEOUT. -/
def cPAIRTMO : Nat := 0x0E
/-- STREAM. -/
def cSTREAM : Nat := 0x0F
/-- CAPSULE. -/
def cCAPSULE : Nat := 0x10
/-- WS_PHASE. -/
def cWSPHASE : Nat := 0x11
/-- PAIR_ABORT. -/
def cPAIRABORT : Nat := 0x12
/-- MEMERR. -/
def cMEMERR : Nat := 0x13
/-- TRAP. -/
def cTRAP : Nat := 0x1F

/-- What an access does, for its permission and its fault record (R44, R120). -/
inductive AccKind where
  | load | store | atomic (sys : Bool) | fetch
  deriving DecidableEq, Repr

/-- Whether an access writes. -/
def AccKind.writes : AccKind → Bool
  | .load | .fetch => false
  | .store | .atomic _ => true

/-- The bits of w4 in the fault record of an access (R120). -/
def AccKind.recordBits : AccKind → Nat
  | .load => 1 | .store => 2 | .fetch => 4 | .atomic _ => 8

/-! ## Direct windows -/

/-- A decoded window address (R29 to R33): its kind, the core or die it reaches, and the offset there; for a striped
address the member core and its local offset. -/
structure Win where
  kind : Nat
  pkg  : Nat
  die  : Nat
  row  : Nat
  col  : Nat
  off  : Nat
  deriving DecidableEq, Repr

/-- Add a signed delta to a coordinate; none outside 0 to lim - 1 (R31). -/
def shifted (x : Nat) (d : Int) (lim : Nat) : Option Nat :=
  let y := (x : Int) + d
  if 0 ≤ y ∧ y < lim then some y.toNat else none

/-- The member core and local offset of a striped offset (R32). -/
def stripeOf (die quad off : Nat) : Win :=
  let g := off / 1024
  let c := quadMember (die * 64 + quad) (g % 4)
  ⟨10, 0, die, rowOf c, colOf c, g / 4 * 1024 + off % 1024⟩

/-- Decode a window address for an issuing core; none for a reserved window, a non-zero must-be-zero field, or a relative
target outside the die or grid (R29 to R33). -/
def State.winDecode (s : State) (c : Nat) (a : Word) : Option Win :=
  let off := wfld a 0 25
  match wfld a 60 4 with
  | 8 => if wfld a 25 14 = 0 then some ⟨8, wfld a 50 10, wfld a 47 3, wfld a 43 4, wfld a 39 4, off⟩ else none
  | 9 =>
    if wfld a 50 10 = 0 ∧ wfld a 25 12 = 0 then
      match shifted (dieOf c) (toSigned 3 (wfld a 47 3)) 8, shifted (rowOf c) (toSigned 5 (wfld a 42 5)) 16,
          shifted (colOf c) (toSigned 5 (wfld a 37 5)) 16 with
      | some d, some r, some k => some ⟨9, s.pkg, d, r, k, off⟩
      | _, _, _ => none
    else none
  | 10 =>
    if wfld a 50 10 = 0 ∧ wfld a 27 14 = 0 then
      let w := stripeOf (wfld a 47 3) (wfld a 41 6) (wfld a 0 27)
      some { w with pkg := s.pkg }
    else none
  | 12 => if wfld a 50 10 = 0 ∧ wfld a 38 9 = 0 then some ⟨12, s.pkg, wfld a 47 3, 0, 0, wfld a 0 38⟩ else none
  | 14 => if wfld a 25 35 = 0 then some ⟨14, s.pkg, dieOf c, rowOf c, colOf c, off⟩ else none
  | _ => none

/-- The first bit's offset and the end of the memory a window reaches (R34). -/
def winSpan (a : Word) : Nat × Nat :=
  match wfld a 60 4 with
  | 10 => (wfld a 0 27, 2 ^ 27)
  | 12 => (wfld a 0 38, 2 ^ 35)
  | _ => (wfld a 0 25, 2 ^ 25)

/-- The physical bit address of a decoded window address. -/
def Win.phys (w : Win) : Nat :=
  if w.kind = 12 then wsAddr w.die w.off else localAddr (w.pkg * 2048 + coreAt w.die w.row w.col) w.off

/-- Whether user mode may reach a core through the window bounds (R35). -/
def inBounds (wb : Word) (checkPkg : Bool) (pkg die row col : Nat) : Bool :=
  (!checkPkg || (decide (wfld wb 54 10 ≤ pkg) && decide (pkg ≤ wfld wb 44 10))) && wbit wb (36 + die) &&
  decide (wfld wb 32 4 ≤ row) && decide (row ≤ wfld wb 28 4) && decide (wfld wb 24 4 ≤ col) && decide (col ≤ wfld wb 20 4)

/-- Whether a decoded window passes the window bounds in user mode (R35). -/
def winAllowed (wb : Word) (isLoad : Bool) (w : Win) : Bool :=
  match w.kind with
  | 14 => true
  | 12 => wbit wb (36 + w.die) && (!isLoad || wbit wb 19)
  | 10 =>
    let r := w.row / 2 * 2
    let k := w.col / 2 * 2
    inBounds wb false 0 w.die r k && inBounds wb false 0 w.die (r + 1) (k + 1)
  | 8 => inBounds wb true w.pkg w.die w.row w.col
  | _ => inBounds wb false 0 w.die w.row w.col

/-- The first offset of the system region of a local memory; of what lies there, capsules alone are in memory, and the core holds the rest (R37; entry 59,
DESIGN CHOICE). -/
def systemRegion : Nat := 0x1C00000

/-- A resolved granule: its physical bit address, whether its host page has SA, and for a virtual address the context and
64 KiB page (R117). -/
structure Loc where
  phys : Nat
  sa   : Bool
  page : Option Nat
  deriving DecidableEq, Repr

/-- The window checks of R34 on n bits at a, for a core, in user mode or not: the cause, or nothing. -/
def State.winCheck (s : State) (c : Nat) (user : Bool) (kind : AccKind) (a : Word) (n : Nat) : Option Nat :=
  match s.winDecode c a with
  | none => some cWINDOW
  | some w =>
    let (off, lim) := winSpan a
    if off + n > lim then some cWINDOW
    else if user && !winAllowed (s.ctxRegs (dieOf c)).wbound (!kind.writes) w then some cPROT
    else if w.kind = 12 ∧ kind.writes = true then some cPROT
    else if kind = .fetch then some cPROT
    else
      let last := if w.kind = 10 then (stripeOf w.die (quadOf (coreAt w.die w.row w.col) % 64) (off + n - 1)).off else w.off + n - 1
      if user && w.kind != 12 && (decide (last ≥ systemRegion) || decide (w.off ≥ systemRegion)) then some cPROT else none

/-! ## Page tables -/

/-- A page-table entry's valid bit (R43). -/
def pteV (p : Word) : Bool := wbit p 63
/-- LOC of an entry (R43). -/
def pteLoc (p : Word) : Nat := wfld p 52 2
/-- DIE of an entry (R43). -/
def pteDie (p : Word) : Nat := wfld p 49 3
/-- PKG of an entry (R43). -/
def ptePkg (p : Word) : Nat := wfld p 39 10
/-- LEAF of an entry (R43). -/
def pteLeaf (p : Word) : Bool := wbit p 54
/-- FRAME of an entry (R43). -/
def pteFrame (p : Word) : Nat := wfld p 0 30

/-- The bits of a page's offset at a level (R42). -/
def pageBits : Nat → Nat
  | 2 => 33 | 3 => 24 | _ => 19

/-- The index of a virtual address at a level (R42). -/
def ptIndex (va level : Nat) : Nat :=
  match level with
  | 1 => nfld va 45 12 | 2 => nfld va 33 12 | 3 => nfld va 24 9 | _ => nfld va 19 5

/-- Reserved fields of a valid entry that must be zero (R43). -/
def pteReservedOk (p : Word) : Bool := wfld p 30 9 == 0 && (pteLoc p == 2 || ptePkg p == 0)

/-- The rules of a valid non-leaf entry (R43, R44). -/
def pteTableOk (p : Word) : Bool := pteReservedOk p && pteLoc p == 0 && decide (pteFrame p * 2 ^ 11 < 2 ^ 39)

/-- The rules of a valid leaf at a level (R43, R44). -/
def pteLeafOk (level : Nat) (p : Word) : Bool :=
  pteReservedOk p && pteLoc p != 3 && pteFrame p % 2 ^ (pageBits level - 19) == 0 &&
  (pteLoc p == 1 || decide (pteFrame p * 2 ^ 19 + 2 ^ pageBits level ≤ 2 ^ 39))

/-- Walk from a table down: `fuel` levels are left to read, the next one being `level`. An entry whose own place lies beyond the 64 GB
of its stack counts as a table base there (entry 49, DEDUCED); an uncorrectable entry ends the walk with MEMERR (entry 50, DESIGN CHOICE). -/
def walkFrom (m : Mem) (own va : Nat) (table : Word) (level : Nat) : Nat → WalkEnd
  | 0 => .prot
  | fuel + 1 =>
    let off := pteFrame table * 2 ^ 11 + 64 * ptIndex va level
    if off ≥ 2 ^ 39 then .prot else
    let p := hbmAddr (own * 8 + pteDie table) off
    match m.readGran p with
    | none => .memerr
    | some e =>
      if pteV e = false then .page
      else if level = 4 ∨ (pteLeaf e = true ∧ level ≠ 1) then
        (if pteLeaf e = true ∧ pteLeafOk level e = true then .leaf level e p else .prot)
      else if pteLeaf e = true ∨ pteTableOk e = false then .prot
      else walkFrom m own va e (level + 1) fuel

/-- The walk of a virtual address under a root (R42, R44). -/
def walkRoot (m : Mem) (own : Nat) (root : Word) (va : Nat) : WalkEnd :=
  if pteV root = false then .page
  else if pteTableOk root = false ∨ pteLeaf root = true then .prot
  else walkFrom m own va root 1 4

/-- The walk for a die's running context. -/
def State.walk (s : State) (d va : Nat) : WalkEnd := walkRoot s.mem s.pkg (s.ctxRegs d).ptroot va

/-- The cause of a permission fault of a leaf, or nothing (R44). -/
def leafDenies (kind : AccKind) (p : Word) : Option Nat :=
  match kind with
  | .load => if wbit p 61 then none else some cPROT
  | .fetch => if wbit p 59 then none else some cPROT
  | .store => if wbit p 60 then none else some cPROT
  | .atomic sys =>
    if !wbit p 60 then some cPROT else if sys && pteLoc p == 1 && !wbit p 58 then some cATOMIC else none

/-- The physical bit address of a virtual address under a leaf. -/
def leafPhys (own level va : Nat) (p : Word) : Nat :=
  let off := pteFrame p * 2 ^ 19 + va % 2 ^ pageBits level
  match pteLoc p with
  | 0 => hbmAddr (own * 8 + pteDie p) off
  | 2 => hbmAddr (ptePkg p * 8 + pteDie p) off
  | _ => hostAddr off

/-! ## TLBs -/

/-- Whether an entry maps a virtual address in a context (R113). -/
def TlbEntry.hits (e : TlbEntry) (ctx va : Nat) : Bool := e.ctx == ctx && e.vpn == va / 2 ^ pageBits e.level

/-- Move a hit to the front, the most recent place. -/
def tlbTouch (l : List TlbEntry) (e : TlbEntry) : List TlbEntry := e :: l.filter (· != e)

/-- Fill a fully associative TLB of n entries. -/
def tlbFill (l : List TlbEntry) (e : TlbEntry) (n : Nat) : List TlbEntry :=
  (e :: l.filter fun x => !(x.ctx == e.ctx && x.level == e.level && x.vpn == e.vpn)).take n

/-- The set of the second-level TLB an entry lies in (R113). -/
def l2Set (e : TlbEntry) : Nat := e.vpn % 1024

/-- Keep the n most recent entries of a set. -/
def keepSet (set : Nat) : List TlbEntry → Nat → List TlbEntry
  | [], _ => []
  | x :: rest, n =>
    if l2Set x = set then (match n with | 0 => keepSet set rest 0 | n + 1 => x :: keepSet set rest n)
    else x :: keepSet set rest n

/-- Fill the second-level TLB: 1,024 sets of 4 ways, least recently used within a set (R113). -/
def l2Fill (l : List TlbEntry) (e : TlbEntry) : List TlbEntry :=
  keepSet (l2Set e) (e :: l.filter fun x => !(x.ctx == e.ctx && x.level == e.level && x.vpn == e.vpn)) 4

/-- The capacity of the data TLB (R45). -/
def dtlbSize : Nat := 64
/-- The capacity of the instruction TLB (R45). -/
def itlbSize : Nat := 32

/-- Fill a core's TLB. -/
def State.fillCoreTlb (s : State) (c : Nat) (fetch : Bool) (e : TlbEntry) : State :=
  s.modCore c fun k =>
    if fetch then { k with itlb := tlbFill k.itlb e itlbSize } else { k with dtlb := tlbFill k.dtlb e dtlbSize }

/-- How a translation ends: an entry, the end of a walk that gave none, or a wait for a walk. -/
inductive Xlate where
  | entry (e : TlbEntry)
  | bad (w : WalkEnd)
  | wait
  deriving DecidableEq, Repr

/-- The core's TLB, for fetches or data. -/
def Core.tlb (k : Core) (fetch : Bool) : List TlbEntry := if fetch then k.itlb else k.dtlb

/-- Look a virtual address up in the core TLB and the second-level TLB (R45, R113). -/
def State.tlbLookup (s : State) (c : Nat) (fetch : Bool) (va : Nat) : Option (TlbEntry × State) :=
  let ctx := s.ctxOf (dieOf c)
  match ((s.core c).tlb fetch).find? (·.hits ctx va) with
  | some e =>
    some (e, s.modCore c fun k => if fetch then { k with itlb := tlbTouch k.itlb e } else { k with dtlb := tlbTouch k.dtlb e })
  | none =>
    match (s.quad (quadOf c)).tlb.find? (·.hits ctx va) with
    | some e =>
      let s := s.modQuad (quadOf c) fun q => { q with tlb := tlbTouch q.tlb e }
      let e := { e with dirty := wbit e.pte 55 }
      some (e, s.fillCoreTlb c fetch e)
    | none => none

/-- Fill the TLBs from a leaf a walk found, setting its A bit by an atomic OR at its home (R43, R113). -/
def State.fillFromLeaf (s : State) (c : Nat) (fetch : Bool) (va level : Nat) (pte : Word) (at_ : Nat) : TlbEntry × State :=
  let pteA := pte ||| (1 <<< 56)
  let s := if wbit pte 56 then s else { s with mem := s.mem.writeGran at_ pteA }
  let e : TlbEntry := ⟨s.ctxOf (dieOf c), level, va / 2 ^ pageBits level, pteA, wbit pte 55⟩
  let s := s.modQuad (quadOf c) fun q => { q with tlb := l2Fill q.tlb e }
  (e, s.fillCoreTlb c fetch e)

/-- What a unit has under way. -/
def State.io (s : State) (key : Nat) : Io := s.ios.get key Io.init

/-- Whether a unit has nothing under way. -/
def Io.idle (x : Io) : Bool := x == Io.init

/-- Change what a unit has under way; a unit with nothing is not listed. -/
def State.modIo (s : State) (key : Nat) (f : Io → Io) : State :=
  { s with ios := if (f (s.io key)).idle then s.ios.erase key else s.ios.set key (f (s.io key)) }

/-- Whose translation this is: the unit whose step is made, or else the strand. -/
def State.walker (s : State) (fetch : Bool) : WalkFor := if s.unit = 0 then .strand s.me.act fetch else .unit s.unit

/-- The walks that whoever translates now has waited for. -/
def State.walked (s : State) : List Walked := if s.unit = 0 then s.me.walked else (s.io s.unit).walked

/-- Ask for a walk, once (R113): it waits in the quad's queue, whose first four are on the walkers. -/
def State.askWalk (s : State) (c : Nat) (fetch : Bool) (va : Nat) : State :=
  let w : Walk := ⟨c, va, s.walker fetch, none⟩
  s.modQuad (quadOf c) fun q => if q.walks.any fun x => x.who == w.who && x.va / 2 ^ 19 == va / 2 ^ 19 then q else { q with walks := q.walks ++ [w] }

/-- A walk ends (R113): its leaf fills the TLBs. -/
def State.endWalk (s : State) (c : Nat) (fetch : Bool) (va : Nat) : WalkEnd × State :=
  match s.walk (dieOf c) va with
  | .leaf level pte at_ => (.leaf level pte at_, (s.fillFromLeaf c fetch va level pte at_).2)
  | x => (x, s)

/-- The cause a walk that ends without a leaf gives (R44). -/
def WalkEnd.cause : WalkEnd → Nat
  | .page => cPAGE
  | .memerr => cMEMERR
  | .prot | .leaf _ _ _ => cPROT

/-- Translate one virtual address for a core (R45, R113): from the TLBs, or from a walk that was waited for; on a miss, ask for one. -/
def State.translate (s : State) (c : Nat) (fetch : Bool) (va : Nat) : Xlate × State :=
  match s.tlbLookup c fetch va with
  | some (e, s) => (.entry e, s)
  | none =>
    match s.walked.find? fun w => w.fetch == fetch && w.page == va / 2 ^ 19 with
    | some ⟨_, _, .leaf level pte _⟩ => (.entry ⟨s.ctxOf (dieOf c), level, va / 2 ^ pageBits level, pte, wbit pte 55⟩, s)
    | some w => (.bad w.fin, s)
    | none => (.wait, s.askWalk c fetch va)

/-! ## Resolving an access -/

/-- Why an access does not go ahead: a trap with its cause, tag and tval (R108), a page fault (R18), or a walk it waits for (R113). -/
inductive Stop where
  | trap (code tag : Nat) (tval : Word)
  | page (kind : AccKind) (addr : Word)
  | wait
  deriving DecidableEq, Repr

/-- The key of a context and 64 KiB page (R114, R117). -/
def pageKey (ctx va : Nat) : Nat := ctx * 2 ^ 38 + va / 2 ^ 19 % 2 ^ 38

/-- The granules a range of n bits at a touches, by logical bit address. -/
def gransOf (a n : Nat) : List Nat :=
  let g := a / 64
  (upFrom g ((a + (n - 1)) / 64 + 1 - g)).map (· * 64)

/-- The key of the page of an entry: that of its first 64 KiB page (R117). -/
def TlbEntry.key (e : TlbEntry) : Nat := pageKey e.ctx (e.vpn * 2 ^ pageBits e.level)

/-- Resolve virtual granules in rising order; each is checked at the first bit of it that the access touches. -/
def State.resolveVirt (s : State) (c : Nat) (kind : AccKind) (a : Nat) : List Nat → Except Stop (List Loc) × State
  | [] => (.ok [], s)
  | g :: gs =>
    let first := max a g
    if first ≥ 2 ^ 57 then (.error (.trap cPROT 0 (ofN first)), s) else
    match s.translate c (kind == .fetch) first with
    | (.wait, s) => (.error .wait, s)
    | (.bad .page, s) => (.error (.page kind (ofN first)), s)
    | (.bad .memerr, s) => (.error (.trap cMEMERR 0 (ofN first)), s)
    | (.bad _, s) => (.error (.trap cPROT 0 (ofN first)), s)
    | (.entry e, s) =>
      match leafDenies kind e.pte with
      | some code => (.error (.trap code 0 (ofN first)), s)
      | none =>
        match State.resolveVirt s c kind a gs with
        | (.ok ls, s) => (.ok (⟨leafPhys s.pkg e.level g e.pte, wbit e.pte 58, some e.key⟩ :: ls), s)
        | (.error x, s) => (.error x, s)

/-- Resolve n bits at an address for a core, in user mode or not, in the order of R34 and R44: one location for each
granule touched, lowest first. -/
def State.resolve (s : State) (c : Nat) (user : Bool) (kind : AccKind) (a : Word) (n : Nat) : Except Stop (List Loc) × State :=
  if wbit a 63 then
    match s.winCheck c user kind a n with
    | some code => (.error (.trap code 0 a), s)
    | none =>
      (.ok ((gransOf a.toNat n).map fun g =>
        match s.winDecode c (ofN g) with
        | some w => ⟨w.phys, false, none⟩
        | none => ⟨0, false, none⟩), s)
  else s.resolveVirt c kind a.toNat (gransOf a.toNat n)

/-- Resolve one granule for a unit of the device, which walks without filling a TLB: the cause (R396), or the granule. -/
def State.devGran (s : State) (c : Nat) (user : Bool) (kind : AccKind) (a : Nat) : Except Nat Loc :=
  if a ≥ 2 ^ 63 then
    match s.winCheck c user kind (ofN a) 1, s.winDecode c (ofN (a / 64 * 64)) with
    | some code, _ => .error code
    | none, some w => .ok ⟨w.phys, false, none⟩
    | none, none => .error cWINDOW
  else if a ≥ 2 ^ 57 then .error cPROT
  else match s.walk (dieOf c) a with
    | .page => .error cPAGE
    | .memerr => .error cMEMERR
    | .prot => .error cPROT
    | .leaf level pte _ =>
      match leafDenies kind pte with
      | some code => .error code
      | none => .ok ⟨leafPhys s.pkg level (a / 64 * 64) pte, wbit pte 58, some (pageKey (s.ctxOf (dieOf c)) (a / 2 ^ pageBits level * 2 ^ pageBits level))⟩

/-- Resolve a list of granules for a unit of the device: the first cause with the address that raised it. -/
def State.devGrans (s : State) (c : Nat) (user : Bool) (kind : AccKind) : List Nat → Except (Nat × Nat) (List Loc)
  | [] => .ok []
  | g :: gs =>
    match s.devGran c user kind g, State.devGrans s c user kind gs with
    | .error code, _ => .error (code, g)
    | .ok _, .error e => .error e
    | .ok l, .ok ls => .ok (l :: ls)

/-! ## The dirty log (R117) -/

/-- Set D of the leaf that maps a page, as an atomic OR at its home; a page that no longer has a leaf is passed over. -/
def State.setDirty (s : State) (root : Word) (page : Nat) : State :=
  match walkRoot s.mem s.pkg root (page * 2 ^ 19) with
  | .leaf _ pte at_ => if wbit pte 55 then s else { s with mem := s.mem.writeGran at_ (pte ||| (1 <<< 55)) }
  | _ => s

/-- The context registers of a context as a die sees them. -/
def State.ctxRegsOf (s : State) (d ctx : Nat) : CtxRegs :=
  if s.ctxOf d = ctx then s.ctxRegs d else s.ctxs.get (16 * (d + 1) + ctx) (s.ctxs.get ctx CtxRegs.init)

/-- Merge a core's dirty log into the leaf entries and empty it (R117). -/
def State.mergeLog (s : State) (c : Nat) : State :=
  let log := (s.core c).dirtyLog
  let s := s.modCore c fun k => { k with dirtyLog := [] }
  log.foldl (fun s w => s.setDirty (s.ctxRegsOf (dieOf c) (wfld w 56 4)).ptroot (wfld w 0 38)) s

/-- The capacity of a dirty log (R117). -/
def dirtyCap : Nat := 2048

/-- Whether the dirty log lets a store to a page drain, and the state after any append (R117). A store whose page has no entry in the data
TLB any more appends its page, unless the log holds it (entry 53, DESIGN CHOICE). -/
def State.logDirty (s : State) (c : Nat) (page : Option Nat) : Option State :=
  match page with
  | none => some s
  | some key =>
    let ctx := key / 2 ^ 38
    let va := key % 2 ^ 38 * 2 ^ 19
    match (s.core c).dtlb.find? (·.hits ctx va) with
    | some e =>
      if e.dirty then some s
      else if (s.core c).dirtyLog.length ≥ dirtyCap then none
      else
        let first := e.vpn * 2 ^ pageBits e.level / 2 ^ 19
        some (s.modCore c fun k =>
          { k with dtlb := k.dtlb.map fun x => if x = e then { x with dirty := true } else x,
                   dirtyLog := k.dirtyLog ++ [ofN (2 ^ 63 + ctx * 2 ^ 56 + first)] })
    | none =>
      let w := ofN (2 ^ 63 + ctx * 2 ^ 56 + key % 2 ^ 38)
      if (s.core c).dirtyLog.contains w then some s
      else if (s.core c).dirtyLog.length ≥ dirtyCap then none
      else some (s.modCore c fun k => { k with dirtyLog := k.dirtyLog ++ [w] })

/-- Log a page for a unit's write that does not wait: a full log is merged first (R117). -/
def State.logNow (s : State) (c : Nat) (page : Option Nat) : State :=
  match s.logDirty c page with
  | some s => s
  | none => ((s.mergeLog c).logDirty c page).getD s

end Sys2Proof.Machine
end

