-- ==== Sys2Proof/Machine/Counter.lean ====
section
/-! DEFINITION. What homes and units of the device do to memory: stores with tail notices, counters and watch lists (R20 to
R23), ring control blocks (R200 to R203), fault records (R118 to R120) and device adds (R396). -/

namespace Sys2Proof.Machine

/-! ## Sending -/

/-- The die, over the pod, of the unit a source number names. -/
def srcDie (src : Nat) : Nat :=
  match src % 8 with
  | 0 => src / 8 / 256 | 1 => src / 8 / 16 | 2 => src / 8 / 32 | 3 => src / 8 | _ => src / 8 / 64

/-- The ports that are up, rising (R369). -/
def State.upPorts (s : State) : List Nat := (upFrom 0 32).filter fun p => nfld s.ports p 1 == 1

/-- The port of an ordered item from a core of the package to a core of another (R369): the entry of the ascending list of ports up that the exclusive or
of the ranks names. The destination's rank is 0 where the item was sent to none (entry 84, DEDUCED). None within the package, for the
adaptive class, whose packets take any port that is up, and for an item that is not sent before those of its pair on another port are gone. -/
def State.pairPort (s : State) (src : Nat) (dst : HomeId) (ordered : Bool) (rank : Option Nat) : Option Nat :=
  match dst with
  | .core g =>
    if g / 2048 = s.pkg ∨ ordered = false ∨ src % 8 ≠ 0 ∨ s.upPorts.isEmpty then none
    else
      let port := s.upPorts[Nat.xor ((s.core (src / 8 % 2048)).rank % 2 ^ 24) (rank.getD 0) % s.upPorts.length]?
      if s.flight.any fun p => p.ordered && p.src == src && p.dst == dst && p.port != port then none else port
  | _ => none

/-- Put a packet of a context into the fabric (R57, R126). -/
def State.postIn (s : State) (ctx src : Nat) (dst : HomeId) (ordered : Bool) (body : Body) : State :=
  { s with flight := s.flight ++ [⟨src, dst, ordered, false, s.clock, ctx, none, false, false, false, s.pairPort src dst ordered none, body⟩] }

/-- Put a packet into the fabric (R57), for the context its source's die runs. -/
def State.post (s : State) (src : Nat) (dst : HomeId) (ordered : Bool) (body : Body) : State :=
  s.postIn (s.ctxOf (srcDie src % 8)) src dst ordered body

/-- Put a packet for a rank, of a context, into the fabric on the ordered class (R27); `fixed`: whatever core has the rank when it arrives. -/
def State.postFor (s : State) (ctx src dst rank : Nat) (fwd fixed : Bool) (body : Body) : State :=
  { s with flight := s.flight ++ [⟨src, .core dst, true, false, s.clock, ctx, some (rank % 2 ^ 24), fwd, false, fixed,
    s.pairPort src (.core dst) true (some (rank % 2 ^ 24)), body⟩] }

/-- Put a packet for a rank, of a context, into the fabric on the ordered class (R27). -/
def State.postRankIn (s : State) (ctx src dst rank : Nat) (fwd : Bool) (body : Body) : State := s.postFor ctx src dst rank fwd false body

/-- Whether a packet is for a rank of a context. -/
def Packet.isFor (p : Packet) (ctx rank : Nat) : Bool := p.rank == some rank && p.ctx == ctx

/-- Whether a core holds packets for a rank of a context, in its interface or in its spill area (R27). -/
def Core.holdsFor (k : Core) (ctx rank : Nat) : Bool :=
  k.rankHeld.any (·.isFor ctx rank) || k.spill.any fun x => match x with | .rank p => p.isFor ctx rank | _ => false

/-- Put a packet that a core of the package sends to a rank into the fabric, on the ordered class (R27). While the core still holds packets for that
rank, as its old core, its own goes the same way, behind them (entry 84, DEDUCED). -/
def State.postRank (s : State) (src dst : Nat) (rank : Nat) (fwd : Bool) (body : Body) : State :=
  let ctx := s.ctxOf (srcDie src % 8)
  s.postRankIn ctx src (if (s.core (src / 8 % 2048)).holdsFor ctx (rank % 2 ^ 24) then src / 8 else dst) rank fwd body

/-- The source number of a core. -/
def srcCore (g : Nat) : Nat := homeKey (.core g)

/-- The home of a granule for a core's accesses (R46). -/
def State.homeFor (s : State) (c p : Nat) : HomeId := homeOf (s.gdie (dieOf c)) p

/-! ## Placement of atomics (R190, R191) -/

/-- The predictor index of a line (R191). -/
def predIndex (line : Nat) : Nat := Nat.xor (line % 256) (line / 256 % 256)

/-- Whether an operation is an FP atomic (R190, R197). -/
def ReqOp.fpAtomic : ReqOp → Bool
  | .amo .fadd _ _ _ _ _ => true
  | .amo .fmax _ _ _ _ _ => true
  | _ => false

/-- Whether an operation is an atomic of major 0x1C. -/
def ReqOp.isAmo : ReqOp → Bool
  | .amo _ _ _ _ _ _ => true
  | _ => false

/-- Whether an atomic goes near, to its quad's atomic unit (R190, R191): a strand's, by ctl.det as it issued. -/
def State.goesNear (s : State) (r : Req) : Bool :=
  let p := r.gran
  r.owner == .strand && r.op.isAmo && !isHost p && !isWs p && !isPeer s.pkg p &&
  !((s.home (s.homeFor r.core p)).watch.any fun w => lineOf w.gran == lineOf p) &&
  !(r.op.fpAtomic && r.det) &&
  decide ((s.quad (quadOf r.core)).predictor.get (predIndex (lineOf p)) 0 ≥ 2)

/-! ## Requests -/

/-- The capacity of a home's arrival queue (R184); of banks, bridges and quad units (entry 81, DESIGN CHOICE). -/
def arrivalCap : HomeId → Nat
  | .core _ => 64
  | .slice _ _ => 256
  | .bank _ _ => 256
  | .bridge _ => 256
  | .quadUnit _ => 64

/-- The key of a saved context of a die. -/
def savedKey (ctx d : Nat) : Nat := ctx * 8 + d

/-- Whether what a die holds is a saved context's: it has just been saved, or is looked at in its image (R123, R126). -/
def State.away (s : State) (d : Nat) : Bool := match (s.die d).switch with | some w => w.phase == 2 | none => false

/-- Send a request on its class: straight to the own home unit (R47), otherwise into the fabric. -/
def State.route (s : State) (r : Req) : State :=
  let near := s.goesNear r
  let h : HomeId := if near then .quadUnit (s.pkg * 512 + quadOf r.core) else s.homeFor r.core r.gran
  let own : HomeId := .core (s.gcore r.core)
  let waiting := s.flight.any fun p => p.ordered && p.src == r.src && p.dst == h
  if h = own ∧ (s.home h).arrivals.length < arrivalCap h ∧ waiting = false ∧ s.away (dieOf r.core) = false then
    s.modHome h fun k => { k with arrivals := k.arrivals ++ [r] }
  else s.post r.src h r.ord (.req r)

/-! ## Memory written at a home -/

/-- Send the tail notices of a granule that a home has written (R206). -/
def State.tailNotices (s : State) (g : Nat) : State :=
  (s.marks.filter fun m => m.1 == g).foldl (fun s m => s.post 0 (.bridge (s.gdie m.2.1)) true (.tail m.2.1 m.2.2)) s

/-- A write performed at a home: whole or merged (R41). None where a narrow write meets uncorrectable data (R189). -/
def State.storeAt (s : State) (g : Nat) (mask bits : Word) : Option State :=
  match s.mem.storeGran g mask bits with
  | some m => some (State.tailNotices { s with mem := m } g)
  | none => none

/-- A whole granule written at a home. -/
def State.putGran (s : State) (g : Nat) (w : Word) : State := State.tailNotices { s with mem := s.mem.writeGran g w } g

/-- Whole granules written at their homes. -/
def State.putGrans (s : State) : List (Nat × Word) → State
  | [] => s
  | (g, w) :: rest => State.putGrans (s.putGran g w) rest

/-! ## Watches (R22) -/

/-- Whether a granule is watched (R21). -/
def State.watched (s : State) (c p : Nat) : Bool := ((s.home (s.homeFor c p)).watch.any fun w => w.gran == p)

/-- The answer to a waiter. -/
def answerValue (v : Word) : Resp := ⟨v, false, 0, .full, false⟩

/-- Send an armed message to its core (R22, R224): for the rank it was armed for, which that core holds while the rank is in transit there (R27). -/
def State.postArmed (s : State) (ctx : Nat) (h : HomeId) (core rank : Nat) (fixed : Bool) (m : Msg) : State :=
  s.postFor ctx (homeKey h) core rank false fixed (.message m)

/-- Fire one watch entry whose target is met: an armed message goes to its core, a waiter is answered. -/
def State.fireOne (s : State) (h : HomeId) (v : Word) (w : Watch) : State :=
  match w.kind with
  | .arm core ctx rank fixed m => s.postArmed ctx h core rank fixed m
  | .waiter core act seq part => s.post (homeKey h) (.core core) false (.resp act seq part (answerValue v))
  | .head quad _ stamp => s.modQuad quad fun q => { q with waited := stamp :: q.waited }

/-- The priority class of an armed message; 0 for a waiter. -/
def Watch.cls (w : Watch) : Nat :=
  match w.kind with
  | .arm _ _ _ _ m => m.prio
  | .waiter _ _ _ _ => 0
  | .head _ _ _ => 0

/-- Send a notice to the inheritance table of every die of the package (R212): the largest class armed on a counter now. -/
def State.inheritNotice (s : State) (h : HomeId) (g cls : Nat) : State :=
  (upFrom 0 8).foldl (fun s d => s.post (homeKey h) (.bridge (s.gdie d)) false (.inherit g cls (cls == 0))) s

/-- The largest class armed on a granule in a watch list (R26). -/
def armedClass (ws : List Watch) (g : Nat) : Nat := ws.foldl (fun m w => if w.gran = g then max m w.cls else m) 0

/-- After a counter operation left value v in granule g, fire every entry whose target is at most v (R22, R222); a lower class left armed,
or none, is told to the inheritance tables (R26, R212). -/
def State.fireWatches (s : State) (h : HomeId) (g : Nat) (v : Word) : State :=
  let ws := (s.home h).watch
  let met := fun (w : Watch) => w.gran == g && decide (w.target.toNat ≤ v.toNat)
  let due := ws.filter met
  let left := ws.filter fun w => !met w
  let s := s.modHome h fun k => { k with watch := left }
  let s := due.foldl (fun s w => s.fireOne h v w) s
  if armedClass left g < armedClass due g then s.inheritNotice h g (armedClass left g) else s

/-- A counter operation performed at the home of a granule (R20, R21, R222): none where the granule is uncorrectable. -/
def State.counterAt (s : State) (h : HomeId) (g : Nat) (f : Nat → Nat) : Option State :=
  match s.mem.readGran g with
  | none => none
  | some old =>
    let v := ofN (min (f old.toNat) (2 ^ 64 - 1))
    some ((s.putGran g v).fireWatches h g v)

/-! ## Ring control blocks (R200 to R203) -/

/-- A ring control block with the granules it lies in. -/
structure RingBlock where
  head : Word
  tail : Word
  base : Word
  cfg  : Word
  locs : List Loc
  deriving DecidableEq, Repr

/-- S of a block. -/
def RingBlock.size (r : RingBlock) : Nat := wfld r.cfg 6 8
/-- The entry count of a block. -/
def RingBlock.count (r : RingBlock) : Nat := 2 ^ wfld r.cfg 0 6
/-- TAIL - HEAD, unsigned. -/
def RingBlock.used (r : RingBlock) : Nat := (r.tail - r.head).toNat
/-- The bit address of entry i. -/
def RingBlock.entry (r : RingBlock) (i : Nat) : Nat := (r.base.toNat + i % r.count * r.size * 64) % 2 ^ 64

/-- The fields that make a block invalid (R200). -/
def RingBlock.badFields (r : RingBlock) : Bool :=
  wfld r.cfg 14 49 != 0 || r.size == 0 || decide (r.size > 64) || decide (wfld r.cfg 0 6 > 32) || !aligned r.base 64 ||
  decide (r.used > r.count)

/-- Logical granules from an address upward. -/
def gransUp (a n : Nat) : List Nat := (upFrom 0 n).map fun k => (a + 64 * k) % 2 ^ 64

/-- The bits of a run that one window decode or one page maps to consecutive places: from a to the end of its page or window memory. -/
def runEnd (a : Nat) : Nat :=
  if a < 2 ^ 63 then (a / 2 ^ 19 + 1) * 2 ^ 19
  else if wfld (ofN a) 60 4 = 10 then (a / 1024 + 1) * 1024
  else (a / 2 ^ 25 + 1) * 2 ^ 25

/-- Whether any of the granules of a block, by place, lies in the storage of n bits at an address of the same core (R200): the storage is
resolved run by run, as what may be read or else written. A run that does not resolve holds none. -/
def State.storageMeets (s : State) (c : Nat) (block : List Nat) : Nat → Nat → Nat → Bool
  | 0, _, _ => false
  | fuel + 1, a, n =>
    if n = 0 then false else
    let m := min n (runEnd a - a)
    match (match s.devGran c false .load a with | .ok l => Except.ok l | .error _ => s.devGran c false .store a) with
    | .ok l => (block.any fun g => decide (l.phys ≤ g) && decide (g < l.phys + a % 64 + m)) || State.storageMeets s c block fuel (a + m) (n - m)
    | .error _ => if a < 2 ^ 63 then State.storageMeets s c block fuel (a + m) (n - m) else false

/-- Whether a block is invalid (R200): by its fields, or where the entry storage overlaps it, as the two resolve. -/
def State.ringInvalid (s : State) (c : Nat) (r : RingBlock) : Bool :=
  r.badFields || s.storageMeets c (r.locs.map (·.phys)) (r.count * r.size * 64 / 1024 + 2) r.base.toNat (r.count * r.size * 64)

/-- Read a block at its home for a core: the cause and address where it cannot be read. -/
def State.ringRead (s : State) (c : Nat) (user : Bool) (kind : AccKind) (block : Nat) : Except (Nat × Nat) RingBlock :=
  match s.devGrans c user kind (gransUp block 4) with
  | .error e => .error e
  | .ok ls =>
    match ls.mapM fun l => s.mem.readGran l.phys with
    | some [h, t, b, k] => .ok ⟨h, t, b, k, ls⟩
    | _ => .error (cMEMERR, block + 64 * (listFind (fun l => (s.mem.readGran l.phys).isNone) ls).getD 0)

/-- A ring status word (R202). -/
def ringStatus (index code : Nat) : Word := ofN (index % 2 ^ 56 * 2 ^ 8 + code)

/-- The checks on the granules of an entry copy (R203), in order: the first that fails, with its cause and bit address, or the granules. Where `first` is
given the first granule is that one, which was checked as the instruction issued. -/
def State.copyGrans (s : State) (c : Nat) (user : Bool) (kind : AccKind) (first : Option Nat) : List Nat → Except (Nat × Nat) (List Loc)
  | [] => .ok []
  | g :: gs =>
    match first, s.devGran c user kind g with
    | some p, x => (State.copyGrans s c user kind none gs).map fun ls => ⟨p, false, match x with | .ok l => l.page | .error _ => none⟩ :: ls
    | none, .error code => .error (code, g)
    | none, .ok l =>
      if isWs l.phys || isHost l.phys then .error (cPROT, g)
      else if s.watched c l.phys then .error (cCTRSTORE, g)
      else (State.copyGrans s c user kind none gs).map fun ls => l :: ls

/-- How an operation that a home takes up goes on: it is over with a status and what stopped it, or it copies, with the index its status will
name, the granules of its block, those it copies from and to with their bit addresses, and the pages it writes (R117). -/
inductive RingStart where
  | over (status : Word) (stopped : Option (Nat × Nat)) (s : State)
  | copy (index : Word) (block : List Nat) (src dst : List (Nat × Nat)) (pages : List (Option Nat))

/-- Granules with their bit addresses. -/
def placed (ls : List Loc) (gs : List Nat) : List (Nat × Nat) := (ls.map (·.phys)).zip gs

/-- The enqueue of an entry at a block's home as it reads the block (R203): of a block that `fits`, from granules that `src` gives. -/
def State.startPut (s : State) (c : Nat) (user : Bool) (block : Nat) (fits : RingBlock → Bool)
    (src : RingBlock → Except (Nat × Nat) (List (Nat × Nat))) : RingStart :=
  match s.ringRead c user .store block with
  | .error e => .over (ringStatus 0 3) (some e) s
  | .ok r =>
    if s.ringInvalid c r || !fits r then .over (ringStatus 0 3) none s
    else if r.used = r.count then
      .over (ringStatus 0 1) none
        (match r.locs with | [_, _, _, l] => (s.logNow c l.page).putGran l.phys (r.cfg ||| (1 <<< 63)) | _ => s)
    else
      let es := gransUp (r.entry r.tail.toNat) r.size
      match s.copyGrans c user .store none es, src r with
      | .error e, _ => .over (ringStatus 0 3) (some e) s
      | .ok _, .error e => .over (ringStatus 0 3) (some e) s
      | .ok ds, .ok xs => .copy r.tail (r.locs.map (·.phys)) xs (placed ds es) ((r.locs ++ ds).map (·.page))

/-- ENQ at the block's home as it reads the block (R203). -/
def State.startEnq (s : State) (c : Nat) (user : Bool) (block src first : Nat) : RingStart :=
  s.startPut c user block (fun _ => true) fun r =>
    let ss := gransUp src r.size
    (s.copyGrans c user .load (some first) ss).map fun ls => placed ls ss

/-- DEQ at the block's home as it reads the block (R203). -/
def State.startDeq (s : State) (c : Nat) (user : Bool) (block dst first : Nat) : RingStart :=
  match s.ringRead c user .store block with
  | .error e => .over (ringStatus 0 3) (some e) s
  | .ok r =>
    if s.ringInvalid c r then .over (ringStatus 0 3) none s
    else if r.used = 0 then .over (ringStatus 0 2) none s
    else
      let es := gransUp (r.entry r.head.toNat) r.size
      let ss := gransUp dst r.size
      match s.copyGrans c user .load none es, s.copyGrans c user .store (some first) ss with
      | .error e, _ => .over (ringStatus 0 3) (some e) s
      | .ok _, .error e => .over (ringStatus 0 3) (some e) s
      | .ok ls, .ok ds => .copy r.head (r.locs.map (·.phys)) (placed ls es) (placed ds ss) ((r.locs ++ ds).map (·.page))

/-- Send an enqueue that the device makes of its own words to the block's home, on the ordered class (R118, R203, R355): where the block does not
resolve, or lies in the weight store or host memory, nothing is sent, with what stopped it. -/
def State.postPut (s : State) (c : Nat) (user : Bool) (block : Word) (size : Nat) (words : List Word) (p : Post) :
    Except (Option (Nat × Nat)) State :=
  if !aligned block 256 then .error none else
  match s.devGrans c user .store (gransUp block.toNat 4) with
  | .error e => .error (some e)
  | .ok ls =>
    if ls.any fun l => isWs l.phys || isHost l.phys then .error none
    else .ok (s.route ⟨0, 0, 0, c, (ls.headD ⟨0, false, none⟩).phys, ls.map (·.phys), .put block user size words, false, false,
      srcCore (s.gcore c), true, false, false, .post p, 0⟩)

/-- RINGSTAT at the block's home (R202): a count word, or BAD alone. -/
def State.ringStat (s : State) (c : Nat) (user : Bool) (block : Nat) : Word × Option (Nat × Nat) :=
  match s.ringRead c user .load block with
  | .error e => (ofN (2 ^ 49), some e)
  | .ok r =>
    if s.ringInvalid c r then (ofN (2 ^ 49), none)
    else (ofN (b2n (wbit r.cfg 63) * 2 ^ 48 + r.used % 2 ^ 48), none)

/-! ## Fault records (R118 to R120) -/

/-- The eight words of a fault record (R120) (entry 17, DEDUCED). -/
def State.faultRec (s : State) (c src code : Nat) (w1 : Word) (strand w3 w4 : Nat) (more : List Word) : FaultRec :=
  [ofN (code + src * 256), w1, ofN (s.ctxOf (dieOf c) + strand * 256 + s.coordHi c), ofN w3, ofN w4] ++
    [wordAt more 0, wordAt more 1, wordAt more 2]

/-- The core that stands for a quad's agent. -/
def agentCore (q : Nat) : Nat := quadMember q 0

/-- Where an add that the device makes at an address goes (R396): the cause that makes the address unusable, or the granule. It is checked in
supervisor mode (entry 78, DESIGN CHOICE). -/
def State.addPlace (s : State) (c : Nat) (addr : Nat) : Except Nat Loc :=
  if addr % 64 ≠ 0 then .error cALIGN else
  match s.devGran c false .store addr with
  | .error code => .error code
  | .ok l => if isWs l.phys || isHost l.phys then .error cPROT else .ok l

/-- Send an add that the device makes for a core to its counter's home, on the ordered class (R21, R22, R57); a unit that waits for it to be
performed counts it among its writes. -/
def State.sendAdd (s : State) (c key : Nat) (l : Loc) (op : ReqOp) (addr : Word) (origin : Nat) : State :=
  let s := s.logNow c l.page
  let s := if key = 0 then s else s.modIo key fun x => { x with puts := x.puts ++ [l.phys] }
  s.route ⟨0, 0, 0, c, l.phys, [l.phys], op, false, false, srcCore (s.gcore c), true, false, false, .device key origin addr, 0⟩

/-- Send an add of one to the counter at ctl.fqctr when it is not 0; a failing add posts no record and is counted under its cause
(R118, R396). -/
def State.fqAdvance (s : State) (q ctx : Nat) : State :=
  let ctr := (s.quad q).fqctr.get ctx 0
  if ctr = 0 then s else
  match s.addPlace (agentCore q) ctr.toNat with
  | .ok l => s.sendAdd (agentCore q) 0 l (.cadd 1) ctr 3
  | .error code => s.lifeAdd (lifeFault code) 1

/-- Put a record into the holding buffer of 16; a record beyond it is dropped but still advances the counter (R119). -/
def State.fqHold (s : State) (q ctx : Nat) (r : FaultRec) : State :=
  if ((s.quad q).holding.filter fun h => h.1 == ctx).length < 16 then
    s.modQuad q fun k => { k with holding := k.holding ++ [(ctx, r)] }
  else s.fqAdvance q ctx

/-- Every record a quad's agent has taken for a context goes to the holding buffer, in order (R119). -/
def State.fqHoldAll (s : State) (q ctx : Nat) : State :=
  let rs := ((s.quad q).posting.filter fun h => h.1 == ctx).map (·.2)
  rs.foldl (fun s r => s.fqHold q ctx r) (s.modQuad q fun k => { k with posting := k.posting.filter fun h => h.1 != ctx })

/-- The first record that a quad's agent has taken for a context goes to the home of the block that ctl.fq names, as an ENQ of S = 8 (R118); where
it names none, or one that cannot be reached, every one is held (R119). -/
def State.fqSend (s : State) (q ctx : Nat) : State :=
  match (s.quad q).posting.find? fun h => h.1 == ctx with
  | none => s
  | some (_, r) =>
    let fq := (s.quad q).fq.get ctx 0
    if fq = 0 then s.fqHoldAll q ctx
    else match s.postPut (agentCore q) false fq 8 r (.fault q ctx) with
      | .ok s => s
      | .error _ => s.fqHoldAll q ctx

/-- A quad's agent takes a record: one at a time is under way for each context, so that they reach the queue in the order they were posted. -/
def State.fqTake (s : State) (q ctx : Nat) (r : FaultRec) : State :=
  let busy := (s.quad q).posting.any fun h => h.1 == ctx
  let s := s.modQuad q fun k => { k with posting := k.posting ++ [(ctx, r)] }
  if busy then s else s.fqSend q ctx

/-- The enqueue of a fault record is over (R118, R119): OK and FULL advance the counter, and the next record goes; after BAD at the block that ctl.fq
still names, it and every later one are held. -/
def State.fqOver (s : State) (q ctx : Nat) (block status : Word) : State :=
  if wfld status 0 2 = 3 then (if (s.quad q).fq.get ctx 0 = block then s.fqHoldAll q ctx else s.fqSend q ctx)
  else ((s.fqAdvance q ctx).modQuad q fun k => { k with posting := k.posting.eraseP fun h => h.1 == ctx }).fqSend q ctx

/-- Post a fault record to a quad's fault queue for the running context (R118, R119); it is counted under its cause
(R395). -/
def State.postRec (s : State) (q : Nat) (r : FaultRec) : State :=
  let ctx := s.ctxOf (dieOfQuad q)
  let s := s.lifeAdd (lifeFault (wfld (wordAt r 0) 0 8)) 1
  if (s.quad q).holding.any fun h => h.1 == ctx then s.fqHold q ctx r else s.fqTake q ctx r

/-- The release of held records when ctl.fq comes to name a block (R119): they are taken in order, before any later record. -/
def State.fqRelease (s : State) (q ctx : Nat) : State :=
  let held := (s.quad q).holding.filter fun h => h.1 == ctx
  held.foldl (fun s h => s.fqTake q ctx h.2) (s.modQuad q fun k => { k with holding := k.holding.filter fun h => h.1 != ctx })

/-- Post a record of a core to its own quad's queue. -/
def State.postFault (s : State) (c src code : Nat) (w1 : Word) (strand w3 w4 : Nat) (more : List Word) : State :=
  s.postRec (quadOf c) (s.faultRec c src code w1 strand w3 w4 more)

/-- An error record of a home unit, for the issuing core (R189, R203): bit [1] store, [3] atomic, [4] ring operation. -/
def State.homeError (s : State) (c code addr bits : Nat) : State := s.postFault c 4 code (ofN addr) 0 0 bits []

/-- A counter operation the device makes for a unit, 0 where nobody waits for it (R21, R396): on an unusable address nothing is sent and a
record goes to the quad of core c with the add's origin. -/
def State.deviceOp (s : State) (c key : Nat) (addr : Word) (op : ReqOp) (origin : Nat) : State :=
  match s.addPlace c addr.toNat with
  | .ok l => s.sendAdd c key l op addr origin
  | .error code => s.postFault c 2 code addr 0 0 origin []

/-- An add the device makes with CADD semantics (R21, R396). -/
def State.deviceAdd (s : State) (c : Nat) (addr : Word) (n origin : Nat) : State := s.deviceOp c 0 addr (.cadd (ofN n)) origin

/-! ## Dead letters (R355) -/

/-- Add 1 to the DONE of a capsule, the counter that word 3 of its header names. -/
def State.capDone (s : State) (c : Nat) (ws : List Word) : State :=
  if wordAt ws 3 = 0 then s else s.deviceAdd c (wordAt ws 3) 1 5

/-- The enqueue of a dead-letter record at a core is over, or could not be made: one that is lost posts a fault record, and then DONE gets its add. -/
def State.letterOver (s : State) (c : Nat) (rec_ : List Word) (ok : Bool) : State :=
  (if ok then s else s.postFault c 2 cCAPSULE (wordAt rec_ 6) 0 0 (wfld (wordAt rec_ 9) 0 8) [wordAt rec_ 0]).capDone c rec_

/-! ## Ranks (R27, R231) -/

/-- The key of a rank in the table of a core's context: one table in the package for each context (R231). -/
def State.rankKey (s : State) (c rank : Nat) : Nat := s.ctxOf (dieOf c) * 2 ^ 24 + rank % 2 ^ 24

/-- The entry of a rank (R231): unmapped where none has been written. -/
def State.rankEntry (s : State) (c rank : Nat) : Word := s.ranks.get (s.rankKey c rank) 0

/-- STATE of an entry (R231). -/
def rankState (e : Word) : Nat := wfld e 30 2

/-- The core an entry names, among all cores of the pod (R231). -/
def rankCore (e : Word) : Nat := wfld e 20 10 * 2048 + coreAt (wfld e 17 3) (wfld e 13 4) (wfld e 9 4)

/-- A message from a core to a core of the pod, on the ordered class (R57). -/
def State.sendMsg (s : State) (c dst : Nat) (m : Msg) : State :=
  s.post (srcCore (s.gcore c)) (.core dst) true (.message m)

end Sys2Proof.Machine
end

