-- ==== Sys2Proof/Machine/Crumb.lean ====
section
/-! DEFINITION. The determinism unit: the crumb log a die writes, the records it replays, and departures (R379 to R386,
R397). A choice is offered to the unit before it is made and noted when it is made. -/

namespace Sys2Proof.Machine

/-- A choice of R381: the die it is made on, the core whose ctl.det decides, the stream (R397), and the payload. -/
structure Choice where
  die    : Nat
  core   : Nat
  unit   : Nat
  src    : Nat
  strand : Nat
  kind   : Nat
  w1     : Word
  w2     : Word
  deriving DecidableEq, Repr

/-- The values of a kind (R381) in two words, each with a place of its own: of a tile issue w2 holds the cycle offset alone, and a handler and a
granule address fill w1. -/
def crumbPlaces (kind : Nat) (vals : List Nat) : Nat × Nat :=
  let v := fun (k n : Nat) => vals.getD k 0 % 2 ^ n
  match kind with
  | 1 => (v 0 64, v 1 6 * 2 + v 2 1)
  | 3 => (v 3 64, v 0 24 + v 1 32 * 2 ^ 24 + v 2 4 * 2 ^ 56 + v 4 1 * 2 ^ 60)
  | 4 => (v 2 64, v 0 24 + v 1 3 * 2 ^ 24)
  | 7 => (v 0 32 + v 1 32 * 2 ^ 32, v 2 32)
  | 8 => (v 1 64, v 0 32 + v 2 32 * 2 ^ 32)
  | 10 => (v 0 4 + v 1 24 * 2 ^ 4 + v 2 3 * 2 ^ 28, v 3 8)
  | _ => (v 1 64, v 0 64)

/-- The payload words of a choice: its values in their places, under the mask of its kind, so that two choices of a kind have one payload only
where their values agree (entry 9, DESIGN CHOICE). -/
def crumbPack (kind : Nat) (vals : List Nat) : Word × Word :=
  (ofN (crumbPlaces kind vals).1 ^^^ (Config.crumbMask kind).1, ofN (crumbPlaces kind vals).2 ^^^ (Config.crumbMask kind).2)

/-- A choice with a packed payload. -/
def mkChoice (die core unit src strand kind : Nat) (vals : List Nat) : Choice :=
  ⟨die, core, unit, src, strand, kind, (crumbPack kind vals).1, (crumbPack kind vals).2⟩

/-- The number of a stream (R397). -/
def crumbKey (unit src strand kind : Nat) : Nat := ((unit * 2 ^ 24 + src % 2 ^ 24) * 8 + strand % 8) * 16 + kind % 16

/-- The stream of a choice. -/
def Choice.key (x : Choice) : Nat := crumbKey x.unit x.src x.strand x.kind

/-! ## The log -/

/-- The core that stands for a die's units: row 0, column 0 (R120). -/
def dieCore (d : Nat) : Nat := coreAt d 0 0

/-- The crumb ring block of the running context of a die (R380, R388). -/
def State.crumbBlock (s : State) (d : Nat) : Word := (s.die d).crumb.get (s.ctxOf d) 0

/-- Whether a request is a record on its way to a crumb ring. -/
def Req.logs (r : Req) (block : Word) : Bool :=
  match r.owner, r.op with
  | .post (.crumb _), .put b _ _ _ => b == block
  | _, _ => false

/-- The records that are on their way to a crumb ring, or that its home is copying. -/
def State.crumbsSent (s : State) (block : Word) : Nat :=
  (s.flight.filter fun p => match p.body with | .req r => r.logs block | _ => false).length +
    s.homes.foldl (fun n e => n + (e.2.arrivals.filter (·.logs block)).length + (e.2.replay.filter (·.1.logs block)).length +
      (e.2.holds.filter (·.req.logs block)).length) 0

/-- Whether the crumb ring of a die has no room for n more records, those on their way to it counted, so that a choice waits (R380). -/
def State.crumbNoRoom (s : State) (d n : Nat) : Bool :=
  s.crumbBlock d != 0 && match s.ringRead (dieCore d) false .store (s.crumbBlock d).toNat with
  | .ok r => !s.ringInvalid (dieCore d) r && decide (r.used + s.crumbsSent (s.crumbBlock d) + n > r.count)
  | .error _ => false

/-- Whether the crumb ring is full. -/
def State.crumbFull (s : State) (d : Nat) : Bool := s.crumbNoRoom d 1

/-- The words of a record (R380). -/
def crumbRecord (unit src strand kind seq : Nat) (w1 w2 : Word) : List Word :=
  [ofN (kind % 256 * 2 ^ 56 + src % 2 ^ 24 * 2 ^ 32 + seq % 2 ^ 32), w1, w2,
   ofN (unit % 16 * 2 ^ 60 + if unit = 1 then strand % 8 else 0)]

/-- Append a record to a die's crumb ring (R380); nothing is written where no ring is named (entry 11, DEDUCED), or where the ring named is
invalid, unreadable, or has no usable next entry: the choice is made and its record is lost (entry 54, DESIGN CHOICE). -/
def State.crumbAppend (s : State) (d unit src strand kind : Nat) (w1 w2 : Word) : State :=
  let key := crumbKey unit src strand kind
  let seq := (s.die d).crumbSeq.get key 0 + 1
  let s := s.modDie d fun k => { k with crumbSeq := k.crumbSeq.set key seq }
  if s.crumbBlock d = 0 then s
  else match s.postPut (dieCore d) false (s.crumbBlock d) 4 (crumbRecord unit src strand kind seq w1 w2) (.crumb d) with
    | .ok s => s
    | .error _ => s

/-! ## Replay -/

/-- Whether a core records its choices (R379). -/
def State.recording (s : State) (c : Nat) : Bool := wbit (s.core c).det 0

/-- Write ctl.det of a core; the die's context starts recording when none of its cores recorded before (R381). -/
def State.setDet (s : State) (c : Nat) (v : Word) : State :=
  let before := (coresOfDie (dieOf c)).any s.recording
  let s := s.modCore c fun k => { k with det := v }
  if before || !wbit v 0 then s else s.modDie (dieOf c) fun k => { k with recFrom := s.clock }

/-- Whether a core's choices of a kind are forced: all in replay, dispatch alone under BIND (R379, R383). -/
def State.forcing (s : State) (c kind : Nat) : Bool := wbit (s.core c).det 1 || (kind == 3 && wbit (s.core c).det 2)

/-- The next record of a stream. -/
def State.nextCrumb (s : State) (d key : Nat) : Option (Word × Word) := ((s.die d).replay.get key []).head?

/-- The replay ring block of the running context (R383, R388). -/
def State.replayBlock (s : State) (d : Nat) : Word := (s.die d).replayRing.get (s.ctxOf d) 0

/-- Whether nothing is left to read from the replay ring (R383), as where none is named. -/
def State.replayEmpty (s : State) (d : Nat) : Bool :=
  s.replayBlock d == 0 || match s.ringRead (dieCore d) false .load (s.replayBlock d).toNat with
  | .ok r => s.ringInvalid (dieCore d) r || r.used == 0
  | .error _ => true

/-- Whether a record names a choice: by both payload words; for a tile issue the cycle offset of w2 is not forced (R381). -/
def Choice.named (x : Choice) (r : Word × Word) : Bool := x.w1 == r.1 && (x.kind == 7 || x.w2 == r.2)

/-- Whether a choice may be made now (R380, R382, R383): the log has room, and in replay its next record names it, or its
records are exhausted. -/
def State.choiceOpen (s : State) (x : Choice) : Bool :=
  (!s.recording x.core || !s.crumbFull x.die) &&
  (!s.forcing x.core x.kind ||
    match s.nextCrumb x.die x.key with
    | some r => x.named r
    | none => s.replayEmpty x.die)

/-- Note a choice that is made: its record is consumed in replay and appended when recording (R380 to R382). -/
def State.noteChoice (s : State) (x : Choice) : State :=
  let s := if s.forcing x.core x.kind then
      s.modDie x.die fun k =>
        { k with replay := k.replay.set x.key ((k.replay.get x.key []).drop 1), waitFrom := k.waitFrom.erase x.key }
    else s
  if s.recording x.core then s.crumbAppend x.die x.unit x.src x.strand x.kind x.w1 x.w2 else s

/-- The unit of a choice has held a candidate since now, unless it held one already (R384). -/
def State.heldNow (s : State) (x : Choice) : State :=
  s.modDie x.die fun k => if (k.waitFrom.find? fun e => e.1 == x.key).isSome then k else { k with waitFrom := k.waitFrom.set x.key s.clock }

/-- A choice that must wait for its turn in replay is held (R382, R384). -/
def State.holdChoice (s : State) (x : Choice) : State := if s.choiceOpen x || !s.forcing x.core x.kind then s else s.heldNow x

/-! ## Departures -/

/-- Clear REPLAY and BIND of a core (R384). -/
def Core.leaveReplay (k : Core) : Core := { k with det := k.det &&& 1 }

/-- A strand that waits for its log goes on (R176, R382). -/
def Strand.wakeLog (t : Strand) : Strand :=
  if t.block = some .lsq then { t with block := none, status := { t.status with state := .ready } } else t

/-- Every strand that waits for its log goes on. -/
def State.wakeLogs (s : State) : State := { s with strands := s.strands.mapV Strand.wakeLog }

/-- What a die's context has read ahead of its log, and how long its choices have waited, are forgotten. -/
def Die.leaveReplay (k : Die) : Die := { k with replay := [], waitFrom := [] }

/-- A context stops forcing its choices on every die of the package, where it runs and where it is switched out (R384). -/
def State.leaveReplay (s : State) (ctx : Nat) : State :=
  { s with
    cores := s.cores.map fun (e : Nat × Core) => if s.ctxOf (dieOf e.1) = ctx then (e.1, e.2.leaveReplay) else e,
    dies := s.dies.map fun (e : Nat × Die) => if s.ctxOf e.1 = ctx then (e.1, e.2.leaveReplay) else e,
    saved := s.saved.map fun (e : Nat × Saved) =>
      if e.1 / 8 = ctx then (e.1, { e.2 with cores := e.2.cores.mapV Core.leaveReplay, die := e.2.die.leaveReplay }) else e }

/-- A departure of a stream of a die (R384): REPLAY and BIND are cleared on every core of the context, a kind-10 record is
appended, and a fault record of source 6 goes to the die's quad 0. -/
def State.depart (s : State) (d unit src strand kind : Nat) : State :=
  let s := s.leaveReplay (s.ctxOf d)
  let w1 := ofN (unit % 16 * 2 ^ 60 + (if unit = 1 then strand % 8 * 2 ^ 24 else 0) + src % 2 ^ 24)
  let x := mkChoice d (dieCore d) 5 0 0 10 [unit, src, strand, kind]
  (s.crumbAppend d 5 0 0 10 x.w1 x.w2).wakeLogs.postRec (d * 64) (s.faultRec (dieCore d) 6 0 w1 0 0 0 [])

/-! ## The choices of strands -/

/-- The landing or fault of a slot (R170): activation count, tag, Landed or Faulted. -/
def State.landChoice (s : State) (c strand count : Nat) (tag : Tag) (faulted : Bool) : Choice :=
  mkChoice (dieOf c) c 1 (s.core c).rank strand 1 [count, tag.val, b2n faulted]

/-- The mask an LSQ returned (R170). -/
def State.lsqChoice (s : State) (c strand : Nat) (mask : Word) : Choice :=
  ⟨dieOf c, c, 1, (s.core c).rank, strand, 2, mask, 0⟩

/-- A CRUMB.MARK (R159, R385): pc and s[a]. -/
def State.markChoice (s : State) (c strand : Nat) (pc v : Word) : Choice :=
  ⟨dieOf c, c, 1, (s.core c).rank, strand, 9, pc, v⟩

end Sys2Proof.Machine
end

