-- ==== Sys2Proof/Machine/Ops.lean ====
section
/-! DEFINITION. The shared operations of a strand: taking a trap and returning from one (R110, R111), aborting a region on a
page fault (R18, R114, R115), committing a region and moving the checkpoint (R16, R17, R149). -/

namespace Sys2Proof.Machine

/-- The outcome of a step of this machine. -/
abbrev Out := Host.Outcome State Fault Refusal

/-! ## Traps -/

/-- ctl.cause (R108). -/
def causeWord (code tag : Nat) (abort : Bool) : Word := ofN (b2n abort * 2 ^ 15 + tag % 64 * 2 ^ 8 + code % 256)

/-- Trap entry (R110), on a strand: epc, cause and tval are written; a trap met in supervisor mode with TRAPPED = 1 stops the
strand and posts a fault record of source 3; otherwise the mode becomes supervisor and pc goes to ctl.tvec. -/
def State.trapAt (s : State) (sid code tag : Nat) (tval : Word) : State :=
  let s := s.modStrand sid fun t => { t.clearInstr with epc := t.pc, cause := causeWord code tag false, tval := tval }
  let st := (s.strand sid).status
  if st.trapped && st.mode then
    (s.modStrand sid fun t => { t with status := { t.status with state := .stopped }, block := none }).postFault
      (coreOf sid) 3 code tval (sid % 8) 0 0 []
  else
    let tvec := (s.ctxRegs (dieOf (coreOf sid))).tvec
    s.modStrand sid fun t =>
      { t with status := ⟨.ready, true, t.status.mode, true⟩, pc := tvec, block := none }

/-- A trap of the running instruction. -/
def State.trap (s : State) (code : Nat) (tval : Word) : State := s.trapAt s.cur code 0 tval

/-- The return from a trap (R111). -/
def State.eret (s : State) : State :=
  s.modMe fun t =>
    { t.retireTo t.epc with status := { t.status with mode := t.status.pmode, trapped := false } }

/-! ## The shadow bank -/

/-- What the shadow bank copies from a strand (R17, R105, R253, R348). -/
def Strand.toShadow (t : Strand) : Shadow := ⟨t.regs, t.pc, t.status, t.streams, t.tail, t.capsule⟩

/-- The checkpoint moves to the strand's present registers and pc (R17). -/
def Strand.checkpoint (t : Strand) : Strand := { t with shadow := t.toShadow, ckpt := t.seq, fresh := false }

/-- The checkpoint of the running strand moves past its instruction, once that has had its effect (R17). -/
def State.checkpoint (s : State) : State := s.modMe Strand.checkpoint

/-- A slot at a commit: Taken becomes free; pending with DROP becomes free and its generation flips (R19, R161, R166). -/
def Slot.commit (x : Slot) : Slot :=
  match x.state with
  | .taken => { Slot.init with gen := x.gen }
  | .pending => if x.drop then { Slot.init with gen := !x.gen } else x
  | _ => x

/-- A slot at an abort (R18, R19, R166): an old one returns from Taken with its stamp and loses DROP; a new one is free,
with its generation flipped if it was pending. -/
def Slot.abort (ckpt : Nat) (x : Slot) : Slot :=
  if x.state = .free then x
  else if x.seq < ckpt then
    (if x.state = .taken then { x with state := x.was, drop := false } else { x with drop := false })
  else { Slot.init with gen := if x.state = .pending then !x.gen else x.gen }

/-! ## Commit -/

/-- The lowest watched granule among buffered stores and an atomic's own granules, by bit address (R149, R197). -/
def lowestWatched (s : State) (c : Nat) (gs : List (Nat × Word)) : Option Word :=
  gs.foldl (fun best g =>
    if s.watched c g.1 then
      (match best with
       | none => some g.2
       | some b => if g.2.toNat < b.toNat then some g.2 else some b)
    else best) none

/-- The granules of a region's buffered stores, with their bit addresses. -/
def Strand.regionGrans (t : Strand) : List (Nat × Word) := t.region.map fun e => (e.gran, e.addr)

/-- The strand at a commit whose check has passed (R17): its stores are released to drain, taken slots are freed, and the
shadow bank takes the registers with the pc of the instruction at the commit point. -/
def Strand.commit (t : Strand) : Strand :=
  { t with drain := t.drain ++ t.region, region := [], slots := t.slots.map Slot.commit }.checkpoint

/-- Commit the running strand's region, with the granules of the atomic at the commit point (R149, R197). On a watched
granule the commit point traps with COUNTER_STORE; when a buffered store met it, the region's stores are discarded. -/
def State.commit (s : State) (own : List (Nat × Word)) : Except State State :=
  match lowestWatched s s.ci (s.me.regionGrans ++ own) with
  | some a =>
    let s := if (lowestWatched s s.ci s.me.regionGrans).isSome then s.modMe fun t => { t with region := [] } else s
    .error (s.trap cCTRSTORE a)
  | none => .ok (s.modMe Strand.commit)

/-- An instruction at a commit point: commit, then have the effect, then the checkpoint moves past it. -/
def State.atCommit (s : State) (own : List (Nat × Word)) (effect : State → State) : Out :=
  match s.commit own with
  | .error t => .next t
  | .ok t => .next (effect t).checkpoint

/-! ## Region abort (R18, R114, R115) -/

/-- A strand sent back to its checkpoint by a page fault (R18). -/
def Strand.abort (t : Strand) (addr : Word) : Strand :=
  { t.clearInstr with
    cause := causeWord cPAGE 0 true, tval := addr, region := [], slots := t.slots.map (Slot.abort t.ckpt),
    regs := t.shadow.regs, pc := t.shadow.pc, status := t.shadow.status, streams := t.shadow.streams,
    tail := t.shadow.tail, capsule := t.shadow.capsule, block := none, poison := [], fetched := [],
    out := t.out.filter fun a => match a.dest with | .sreg _ _ _ | .vreg _ _ | .got _ => false | .count _ => decide (a.seq < t.ckpt) | _ => true }

/-- Free a strand (R13 step 5, R18). -/
def State.freeStrand (s : State) (sid : Nat) : State := { s with strands := s.strands.set sid Strand.init }

/-- The number of abort images a core's save scratch holds (R115). -/
def imageCount : Nat := 18

/-- The number of fault-table entries of a quad (R114). -/
def faultEntries : Nat := 64

/-- Keep the continuation of an aborted strand as an abort image and free the strand, or hold it in STATE 3 until an image
frees (R115). -/
def State.keepImage (s : State) (sid page : Nat) : State :=
  let c := coreOf sid
  if (s.core c).images.length < imageCount then
    (s.modCore c fun k => { k with images := k.images ++ [s.strand sid] }).freeStrand sid
  else s.modStrand sid fun t => { t with status := { t.status with state := .held }, block := some (.abortImage page) }

/-- Enter a synchronous page fault of a strand in its quad's fault table (R114): join an entry, make one and post a record,
or hold the strand until an entry frees. -/
def State.enterFault (s : State) (sid page : Nat) (kind : AccKind) (addr : Word) : State :=
  let c := coreOf sid
  let q := quadOf c
  let ctx := s.ctxOf (dieOf c)
  let act := (s.strand sid).act
  match listFind (fun (f : FaultEntry) => f.ctx == ctx && f.page == page) (s.quad q).faults with
  | some k =>
    (s.modQuad q fun x => { x with faults := listMod x.faults k fun f => { f with conts := f.conts ++ [(c, act)] } }).keepImage sid page
  | none =>
    if (s.quad q).faults.length < faultEntries then
      let s := s.modQuad q fun x => { x with faults := x.faults ++ [⟨ctx, page, [(c, act)], false⟩] }
      let s := s.postFault c 0 cPAGE addr (sid % 8) 1 kind.recordBits []
      s.keepImage sid page
    else
      s.modStrand sid fun t =>
        { t with status := { t.status with state := .held }, block := some (.faultTable page kind.recordBits addr) }

/-- The access kind a fault record's bits stand for. -/
def kindOfBits (k : Nat) : AccKind :=
  match k with | 1 => .load | 2 => .store | 4 => .fetch | _ => .atomic false

/-- A page fault on a synchronous access aborts the strand's region (R18). -/
def State.abortRegion (s : State) (sid : Nat) (kind : AccKind) (addr : Word) : State :=
  let s := s.modStrand sid fun t => t.abort addr
  s.enterFault sid (addr.toNat / 2 ^ 19) kind addr

/-- What a stopped access does to the running strand: a trap, a region abort, or nothing while it waits for a walk. -/
def State.stop (s : State) (x : Stop) : State :=
  match x with
  | .trap code tag tval => s.trapAt s.cur code tag tval
  | .page kind addr => s.abortRegion s.cur kind addr
  | .wait => s

/-- A checked instruction: where a check stops it, the stop is taken; otherwise it goes on. -/
def State.checked {α : Type} (r : Except Stop α × State) (k : α → State → Out) : Out :=
  match r with
  | (.ok x, s) => k x s
  | (.error e, s) => .next (s.stop e)

/-- What a stopped access does at a commit point (R16, R17): a page fault finds the region committed, so that the instruction is taken up again
at its own pc; a trap leaves the region as it is (R96, R110) (entry 51, DEDUCED). -/
def State.stopAt (s : State) (x : Stop) : State :=
  match x with
  | .page _ _ => (match s.commit [] with | .error t => t | .ok t => t.stop x)
  | .trap _ _ _ => s.stop x
  | .wait => s

/-- A checked instruction, with what a stopped access does. -/
def State.checkedBy {α : Type} (halt : State → Stop → State) (r : Except Stop α × State) (k : α → State → Out) : Out :=
  match r with
  | (.ok x, s) => k x s
  | (.error e, s) => .next (halt s e)

/-- A checked instruction at a commit point. -/
def State.checkedAt {α : Type} (r : Except Stop α × State) (k : α → State → Out) : Out := State.checkedBy State.stopAt r k

/-- Run in supervisor mode only; user mode raises PROT with tval 0 (R106, R111). -/
def State.privileged (s : State) (k : State → Out) : Out := if s.user then .next (s.trap cPROT 0) else k s

/-! ## Activations by number (R17, R18: answers find a strand, its abort image, or an ended activation) -/

/-- The strand numbers of a core. -/
def strandsOf (c : Nat) : List Nat := upFrom (c * 8) 8

/-- The strand of a core that runs an activation. -/
def State.strandOfAct (s : State) (c act : Nat) : Option Nat := (strandsOf c).find? fun sid => (s.strand sid).act == act && act != 0

/-- The record of an activation of a core, wherever it is kept. -/
def State.getAct (s : State) (c act : Nat) : Option Strand :=
  match s.strandOfAct c act with
  | some sid => some (s.strand sid)
  | none => ((s.core c).images ++ (s.core c).ended).find? fun t => t.act == act

/-- Change the record of an activation of a core, wherever it is kept. -/
def State.modAct (s : State) (c act : Nat) (f : Strand → Strand) : State :=
  match s.strandOfAct c act with
  | some sid => s.modStrand sid f
  | none =>
    let g := fun (t : Strand) => if t.act == act then f t else t
    s.modCore c fun k => { k with images := k.images.map g, ended := k.ended.map g }

/-! ## Waking -/

/-- Whether any slot of a mask is in a state. -/
def Strand.anySlot (t : Strand) (mask : Word) (p : Slot → Bool) : Bool :=
  (List.finRange 64).any fun i => wbit mask i.val && p t.slots[i.val]

/-- A slot that a take may choose (R162). -/
def Slot.arrived (x : Slot) : Bool := x.state == .landed || x.state == .faulted

/-- A slot a take or LSWAIT still waits for. -/
def Slot.coming (x : Slot) : Bool := (x.state == .pending || x.state == .reissue)

/-- Let a strand blocked on its landing set go on once it has cause to (R174, R179). -/
def Strand.wakeLanding (t : Strand) : Strand :=
  match t.block with
  | some (.take mask) =>
    if t.anySlot mask Slot.arrived || !t.anySlot mask (fun x => x.coming && !x.drop) then
      { t with block := none, status := { t.status with state := .ready } } else t
  | some (.lswait mask) =>
    if t.anySlot mask Slot.coming then t else { t with block := none, status := { t.status with state := .ready } }
  | some .lsq => { t with block := none, status := { t.status with state := .ready } }
  | _ => t

/-- The strand waits in its instruction (R11). -/
def State.blockOn (s : State) (b : Block) : State :=
  s.modMe fun t => { t with block := some b, status := { t.status with state := .blocked } }

end Sys2Proof.Machine
end

