-- ==== Sys2Proof/Machine/Access.lean ====
section
/-! DEFINITION. Accesses on the strand side of the ordering machine (R46 to R61): building them from resolved granules, when
they may be sent, sending them, and what their answers write. -/

namespace Sys2Proof.Machine

/-! ## Building accesses -/

/-- The buffered bits of the running region on a granule, the youngest in each place: mask and bits (R15). -/
def overlay (region : List BufEntry) (gran : Nat) : Word × Word :=
  region.foldl (fun (m, b) e => if e.gran = gran then (m ||| e.mask, mergeBits b e.mask e.bits) else (m, b)) (0, 0)

/-- A natural access (R38). -/
def natural (a n : Nat) : Bool := (n == 8 || n == 16 || n == 32 || n == 64) && a % n == 0

/-- What one access makes of a granule: its location, its own address, and the bits of the 64-bit unit it takes: the first, how many. -/
structure Cut where
  loc  : Loc
  addr : Nat
  lo   : Nat
  n    : Nat
  deriving DecidableEq, Repr

/-- The runs of n bits from bit lo of a unit, cut at every multiple of `step` bits. -/
def stepCuts (step lo : Nat) : Nat → Nat → List (Nat × Nat)
  | 0, _ => []
  | fuel + 1, n => if n = 0 then [] else let m := min n (step - lo % step); (lo, m) :: stepCuts step (lo + m) fuel (n - m)

/-- Whether a location's granules are bytes: host memory on a page without SA (R39). -/
def Loc.bytes (l : Loc) : Bool := isHost l.phys && !l.sa

/-- The granules that n bits from bit lo of a unit cover, by physical bit address: the unit, or for host memory its bytes (R39). -/
def coverOf (phys : Nat) (sa : Bool) (lo n : Nat) : List Nat :=
  if !isHost phys then [phys]
  else if sa then (upFrom 0 8).map fun k => phys + 8 * k
  else (upFrom (lo / 8) ((lo + (n - 1)) / 8 + 1 - lo / 8)).map fun k => phys + 8 * k

/-- The number by which a unit that acts on memory names a granule: its bit address, or for a byte of host memory, which is a granule where the
page has no SA, one more (R39). -/
def grainOf (phys : Nat) (sa : Bool) (lo : Nat) : Nat := if isHost phys && !sa then phys + lo / 8 * 8 + 1 else phys

/-- Whether a number names a byte. -/
def grainByte (x : Nat) : Bool := x % 8 == 1
/-- The 64-bit unit a granule lies in, by physical bit address. -/
def grainUnit (x : Nat) : Nat := x / 64 * 64

/-- The cuts of n bits at a over the units of its locations, from the one at g up; where granules are bytes, at every multiple of `step` bits
(R38, R39). -/
def cutsFrom (step a g n : Nat) : List Loc → List Cut
  | [] => []
  | l :: ls =>
    let lo := a - g
    let m := min n (64 - lo)
    (if l.bytes then (stepCuts step lo 64 m).map fun c => ⟨l, g + c.1 / 8 * 8, c.1, c.2⟩ else [⟨l, g, lo, m⟩]) ++
      cutsFrom step (g + 64) (g + 64) (n - m) ls

/-- The cuts of n bits at a. -/
def cutsOf (step a n : Nat) (ls : List Loc) : List Cut := cutsFrom step a (a / 64 * 64) n ls

/-- Where a scalar access of n bits at a is cut: a natural one is one access, a packed one an access to each granule (R38). -/
def scalarStep (a n : Nat) : Nat := if natural a n then 64 else 8

/-- Where a vector access of elements of w bits at a is cut: natural elements are each one access, packed ones an access to each granule
(R38, R150). -/
def vectorStep (a w : Nat) : Nat := if a % w = 0 then w else 8

/-- A part that has not been sent. -/
def mkPart (gran : Nat) (op : ReqOp) (sa : Bool) (ov : Word × Word) : Part :=
  { gran := gran, cover := [gran], op := op, sa := sa, ovMask := ov.1, ovBits := ov.2, sent := false, valued := false, done := false,
    sysDone := false, bad := false, value := 0, flags := 0 }

/-- The granule a cut lies in. -/
def Cut.grain (x : Cut) : Nat := grainOf x.loc.phys x.loc.sa x.lo

/-- The bits of cuts, in order, each from the word of its unit. -/
def joinCuts : List (Cut × Word) → Nat
  | [] => 0
  | (x, w) :: rest => nfld w.toNat x.lo x.n + 2 ^ x.n * joinCuts rest

/-- The granules a cut covers. -/
def Cut.cover (x : Cut) : List Nat := coverOf x.loc.phys x.loc.sa x.lo x.n

/-- The parts that read cuts, with the strand's own buffered bits overlaid. -/
def readParts (region : List BufEntry) (cs : List Cut) : List Part :=
  cs.map fun x => { mkPart x.loc.phys .read x.loc.sa (overlay region x.loc.phys) with cover := x.cover }

/-- The pieces of an element from its cuts, over parts from the k-th. -/
def cutPieces (k : Nat) : List Cut → List Piece
  | [] => []
  | x :: rest => ⟨k, x.lo, x.n⟩ :: cutPieces (k + 1) rest

/-- An access with its defaults: a load of the given parts. -/
def mkAccess (addr : Word) (parts : List Part) (elems : List (List Piece)) (dest : Dest) : Access :=
  { seq := 0, base := 0, det := false, isLoad := true, isStore := false, entry := true, rel := none, acquire := false, sysAcq := false,
    ordered := false, addr := addr, grans := (parts.map (·.cover)).flatten, parts := parts, elems := elems, dest := dest,
    written := false, walk := false, snap := [], late := false, strand := 0 }

/-- A load of one element from its cuts. -/
def mkLoad (addr : Word) (region : List BufEntry) (cs : List Cut) (dest : Dest) : Access :=
  mkAccess addr (readParts region cs) [cutPieces 0 cs] dest

/-- An access that stores, counts, arms or commands: acknowledged, and both a load and a store for R54. -/
def mkOpAccess (addr : Word) (gran : Nat) (sa : Bool) (op : ReqOp) (dest : Dest) : Access :=
  { mkAccess addr [mkPart gran op sa (0, 0)] [] dest with isStore := true }

/-- An access whose one request covers given granules of its home. -/
def Access.covering (a : Access) (cover : List Nat) : Access :=
  { a with grans := cover, parts := a.parts.map fun p => { p with cover := cover } }

/-- An access that sends something of the strand's own and touches no granule: a message, copies, a capsule, a signal. -/
def mkSendAccess (rel : Option Scope) (op : ReqOp) (dest : Dest) : Access :=
  { mkAccess 0 [mkPart 0 op false (0, 0)] [] dest with isStore := true, entry := false, grans := [], rel := rel, ordered := true }

/-! ## When an access may be sent -/

/-- Whether a part counts as performed at a scope (R60). -/
def Part.performedAt (own : Nat) (scope : Scope) (p : Part) : Bool :=
  if isPeer own p.gran then
    (match scope with | .pod | .sys => p.done | .core | .quad | .die | .pkg => p.sent)
  else if isHost p.gran then (match scope with | .sys => p.sysDone | .core | .quad | .die | .pkg | .pod => p.done)
  else p.done

/-- Whether an access counts as performed at a scope, and its answer has returned (R52). -/
def Access.performedAt (own : Nat) (scope : Scope) (a : Access) : Bool := a.parts.all (·.performedAt own scope)

/-- Whether every part of an access has been answered. -/
def Access.answered (a : Access) : Bool := a.parts.all (·.done)

/-- Whether every access before a place in program order is performed at a scope, drained stores included (R52). -/
def Strand.allBefore (t : Strand) (own : Nat) (scope : Scope) (seq : Nat) : Bool :=
  (t.out.all fun a => decide (a.base ≥ seq) || a.performedAt own scope) && t.drain.all fun e => decide (e.base ≥ seq)

/-- The bits from the lowest to the highest set bit of a mask: the first, how many. -/
def maskSpan (m : Nat) : Nat × Nat :=
  let lo := firstSet m 64
  (lo, m.log2 + 1 - lo)

/-- The granules a buffered store covers. -/
def BufEntry.cover (e : BufEntry) : List Nat :=
  let p := maskSpan e.mask.toNat
  coverOf e.gran e.sa p.1 p.2

/-- The granule an entry of a unit's write lies in. -/
def BufEntry.grain (e : BufEntry) : Nat := grainOf e.gran e.sa (maskSpan e.mask.toNat).1

/-- Whether two lists of granules meet. -/
def meet (xs ys : List Nat) : Bool := xs.any ys.contains

/-- R51: no earlier access to one of the granules is still unperformed, and no earlier committed store to one waits; the granules of a
load that waits for its walk are those its address had when it issued (entry 52, DEDUCED). -/
def Strand.granFree (t : Strand) (seq : Nat) (grans : List Nat) : Bool :=
  (t.out.all fun a => decide (a.base ≥ seq) || a.answered || !meet a.grans grans) &&
  t.drain.all fun e => decide (e.base ≥ seq) || !meet e.cover grans

/-- Whether the earlier accesses a fence orders are performed at its scope (R54). -/
def Fence.over (own : Nat) (t : Strand) (f : Fence) : Bool :=
  let loads := fun (a : Access) => decide (a.base ≥ f.seq) || !a.isLoad || a.performedAt own f.scope
  let stores := fun (a : Access) => decide (a.base ≥ f.seq) || !a.isStore || a.performedAt own f.scope
  let drained := t.drain.all fun e => decide (e.base ≥ f.seq)
  match f.kind with
  | .ll | .ls => t.out.all loads
  | .sl | .ss => t.out.all stores && drained
  | .all => (t.out.all fun a => decide (a.base ≥ f.seq) || a.performedAt own f.scope) && drained

/-- Whether fences let a store be drained or sent (R54). -/
def Strand.storesLet (t : Strand) (own seq : Nat) : Bool :=
  t.fences.all fun f => decide (f.seq > seq) || (match f.kind with | .ll | .sl => true | .ls | .ss | .all => f.over own t)

/-- Whether fences let a load issue (R54). -/
def Strand.loadsLet (t : Strand) (own : Nat) : Bool :=
  t.fences.all fun f => match f.kind with | .ls | .ss => true | .ll | .sl | .all => f.over own t

/-- The outstanding-table entries in use (R46, R56). -/
def Strand.entries (t : Strand) : Nat := (t.out.filter fun a => a.entry && !a.answered).length

/-- The bits of memory an access covers, run by run: the first, how many. -/
def Access.extents (a : Access) : List (Nat × Nat) :=
  a.elems.flatten.filterMap fun x => (a.parts[x.part]?).map fun p => (p.gran + x.lo, x.n)

/-- The bits of memory a cut covers: the first, how many. -/
def Cut.extent (x : Cut) : Nat × Nat := (x.loc.phys + x.lo, x.n)

/-- Whether runs of bits overlap a range of a core's own local memory that one of its engines is writing (R55). -/
def State.scored (s : State) (c : Nat) (runs : List (Nat × Nat)) : Bool :=
  (s.core c).ranges.any fun r => runs.any fun x => decide (x.1 ≤ r.hi) && decide (r.lo < x.1 + x.2)

/-- Whether an unsent access may be sent: same-granule order (R51), release order (R52), fences on stores (R54). -/
def Strand.maySend (t : Strand) (own : Nat) (a : Access) : Bool :=
  !a.walk && t.granFree a.base a.grans &&
  (match a.rel with | some sc => t.allBefore own sc a.base | none => true) &&
  (!a.isStore || t.storesLet own a.base)

/-! ## Sending -/

/-- A message with its NANM, DET and SRANK filled from the sending core as it is sent (R8). -/
def State.restamp (s : State) (c : Nat) (m : Msg) : Msg := { m with w1 := s.ownHeader c m.kind m.w1 }

/-- The copies of a message for the own core's inbox, in one packet, so that they take consecutive stamps (R227). -/
def State.sendCopies (s : State) (c : Nat) (m : Msg) (n : Nat) : State :=
  s.post (srcCore (s.gcore c)) (.core (s.gcore c)) true (.copies m n)

/-- A part settled at once by the strand's side, with a value. -/
def Part.settle (p : Part) (v : Word) : Part :=
  { p with sent := true, valued := true, done := true, sysDone := true, value := v }

/-- A MSG or MSGC handed on (R225): the rank is looked up as it is sent; the status (R221). -/
def State.sendRanked (s : State) (c rank : Nat) (m : Msg) : Word × State :=
  let e := s.rankEntry c rank
  if rankState e = 0 then (1, s) else (0, s.postRank (srcCore (s.gcore c)) (rankCore e) rank false (.message (s.restamp c m)))

/-- Send one part of an access; the parts a strand settles itself answer at once. -/
def State.sendPart (s : State) (c act : Nat) (a : Access) (k : Nat) (p : Part) : Part × State :=
  match p.op with
  | .message _ rank m => let (st, s) := s.sendRanked c rank m; (p.settle st, s)
  | .spawn m n => (p.settle 0, s.sendCopies c (s.restamp c m) n)
  | .barArrive node key m => (p.settle 0, s.post (srcCore (s.gcore c)) (.core node) true (.signal key m))
  | _ =>
    let r : Req := ⟨act, a.seq, k, c, p.gran, p.cover, p.op, a.sysAcq, p.sa, srcCore (s.gcore c), a.ordered, a.det, a.dest != .ack, .strand, a.strand⟩
    ({ p with sent := true }, s.route r)

/-- Whether a part of an access is to be sent: none of those before it is on one of its granules and still unperformed (R51). -/
def Part.mayGo (before : List Part) (p : Part) : Bool := !p.sent && before.all fun q => q.done || !meet q.cover p.cover

/-- Send the parts of an access that may be sent, after those in `before`; elements in one granule are performed in ascending order (R151,
R256). -/
def State.sendParts (s : State) (c act : Nat) (a : Access) (before : List Part) : List Part → List Part × State
  | [] => (before, s)
  | p :: ps =>
    let (p, s) := if p.mayGo before then s.sendPart c act a before.length p else (p, s)
    State.sendParts s c act a (before ++ [p]) ps

/-! ## Answers -/

/-- The value of one element from the parts' values. -/
def assemble (parts : List Part) : List Piece → Nat
  | [] => 0
  | x :: rest =>
    let v := match parts[x.part]? with | some p => nfld (mergeBits p.value p.ovMask p.ovBits).toNat x.lo x.n | none => 0
    v + 2 ^ x.n * assemble parts rest

/-- The bits of an element. -/
def pieceBits (ps : List Piece) : Nat := ps.foldl (fun n p => n + p.n) 0

/-- The value of an access: its elements, the first lowest. -/
def assembleAll (parts : List Part) : List (List Piece) → Nat
  | [] => 0
  | e :: rest => assemble parts e + 2 ^ pieceBits e * assembleAll parts rest

/-- Write a scalar register, in the shadow bank too (R17: registers written later by an instruction's answer). -/
def Strand.wrBoth (t : Strand) (d : Reg) (v : Word) : Strand :=
  { t with regs := t.regs.wr d v, shadow := { t.shadow with regs := t.shadow.regs.wr d v } }

/-- A slot lands with a value (R162, R163, R178): a dropped one goes straight to Taken. -/
def Strand.land (t : Strand) (tag : Tag) (v : Vec) (flags : Nat) : Strand :=
  let x := t.slots[tag.val]
  let y : Slot := { x with state := if x.drop then .taken else .landed, was := .landed, value := v, stamp := t.stamp, flags := flags }
  { t with slots := t.slots.set tag.val y, stamp := t.stamp + 1 }

/-- A slot faults (R162 to R164). -/
def Strand.faultSlot (t : Strand) (tag : Tag) (cause : Nat) (addr : Word) : Strand :=
  let x := t.slots[tag.val]
  let y : Slot :=
    { x with state := if x.drop then .taken else .faulted, was := .faulted, cause := cause, faultAddr := addr, stamp := t.stamp }
  { t with slots := t.slots.set tag.val y, stamp := t.stamp + 1 }

/-- Whether an answer for a slot still counts: the slot is pending with the same generation (R161). -/
def Strand.slotWaits (t : Strand) (tag : Tag) (gen : Bool) : Bool :=
  let x := t.slots[tag.val]
  x.state == .pending && x.gen == gen

/-- The lowest address of an access that came back uncorrectable (R163). -/
def Access.badAddr (a : Access) : Word :=
  match listFind (fun (p : Part) => p.bad) a.parts with
  | some k => a.addr + ofN (pieceBits ((a.elems.headD []).take k))
  | none => a.addr

/-- What a strand keeps of the values of its own instruction's load: none for an element with uncorrectable data. -/
def Access.gotten (a : Access) (keys : List (Nat × Nat)) : List (Nat × Nat × Option Nat) :=
  (keys.zip a.elems).map fun e =>
    let bad := e.2.any fun x => match a.parts[x.part]? with | some p => p.bad | none => true
    (e.1.1, e.1.2, if bad then none else some (assemble a.parts e.2))

/-- What the finished answer of an access writes (R47, R148, R164, R195, R223): the strand after it. -/
def Strand.complete (t : Strand) (a : Access) : Strand :=
  let bad := a.parts.any (·.bad)
  let v := assembleAll a.parts a.elems
  let word := match a.parts.head? with | some p => p.value | none => 0
  match a.dest with
  | .ack => t
  | .got keys => { t with got := t.got ++ a.gotten keys }
  | .sreg d w sx =>
    if bad then { t with poison := t.poison ++ [⟨false, d, a.addr⟩] }
    else { t with regs := t.regs.wr d (if sx then sextW w v else zextW w v) }
  | .vreg d _ =>
    if bad then { t with poison := t.poison ++ [⟨true, d, a.addr⟩] } else { t with regs := t.regs.wrV d (BitVec.ofNat 1024 v) }
  | .slot tag gen =>
    if t.slotWaits tag gen then
      (if bad then t.faultSlot tag cMEMERR a.badAddr else t.land tag (BitVec.ofNat 1024 v) 0).wakeLanding
    else t
  | .amo d lo w =>
    if bad then { t with poison := t.poison ++ [⟨false, d, a.addr⟩] } else t.wrBoth d (ofN (nfld word.toNat lo w))
  | .stat d => t.wrBoth d word
  | .count d => if a.seq < t.ckpt then t.wrBoth d word else { t with regs := t.regs.wr d word }
  | .wait d _ =>
    let t := { t.retireTo (t.pc + 32) with block := none, status := { t.status with state := .ready } }
    if bad then { t with poison := t.poison ++ [⟨false, d, a.addr⟩] } else { t with regs := t.regs.wr d word }

/-- What one answer settles of a part (R47, R60, R61). -/
def Part.settleResp (p : Part) (r : Resp) : Part :=
  let p := { p with done := true, bad := p.bad || r.bad, flags := orFlags p.flags r.flags }
  match r.kind with
  | .full => { p with value := r.value, valued := true, sysDone := true }
  | .accepted => p
  | .valueOnly => { p with value := r.value, valued := true }
  | .sysNow => { p with valued := true, sysDone := true }

/-- Whether an access is over: answered at every scope and written. -/
def Access.over (a : Access) : Bool := a.written && a.parts.all fun p => p.sysDone && p.valued

/-- A slot that an access has faulted takes a lower address at which the rest of it came back uncorrectable (R163). -/
def Strand.lowerFault (t : Strand) (a : Access) : Strand :=
  match a.dest with
  | .slot tag _ =>
    let x := t.slots[tag.val]
    if x.place = a.base ∧ x.was = .faulted ∧ (x.state = .faulted ∨ x.state = .taken) ∧ a.badAddr.toNat < x.faultAddr.toNat then
      { t with slots := t.slots.set tag.val { x with faultAddr := a.badAddr } }
    else t
  | _ => t

/-- Settle a part of an access of a strand, complete the access when its last value is in, or a tagged load's when a part is
uncorrectable (R162, R164), and drop it when it is over. -/
def Strand.settle (t : Strand) (seq part : Nat) (r : Resp) : Strand :=
  match t.out.find? fun a => a.seq == seq with
  | none => t
  | some a =>
    let a := { a with parts := listMod a.parts part fun p => p.settleResp r }
    let tagged := match a.dest with | .slot _ _ => true | _ => false
    let now := !a.written && (a.dest == .ack || a.parts.all (·.valued) || (tagged && r.bad))
    let a' := if now then { a with written := true } else a
    let t := { t with out := (t.out.map fun x => if x.seq == seq then a' else x).filter fun x => !x.over }
    if now then t.complete a' else if r.bad then t.lowerFault a' else t

/-- Whether an answer writes the register of an FP atomic, so that its flags reach ctl.fflags (R195). -/
def Strand.answerFlags (t : Strand) (seq : Nat) (r : Resp) : Nat :=
  match t.out.find? fun a => a.seq == seq with
  | some a => (match a.dest with | .amo _ _ _ => r.flags | _ => 0)
  | none => 0

/-- The predictor learns from a far atomic whose line was last used by the same quad (R191). -/
def State.trainUp (s : State) (c line : Nat) : State :=
  s.modQuad (quadOf c) fun q =>
    { q with predictor := q.predictor.set (predIndex line) (min 3 (q.predictor.get (predIndex line) 0 + 1)) }

/-- Send the first access of an activation's list that may be sent, if it is the one numbered seq. -/
def State.trySend (s : State) (c act seq : Nat) : State :=
  match s.getAct c act with
  | none => s
  | some t =>
    match t.out.find? fun a => a.seq == seq with
    | none => s
    | some a =>
      if a.parts.all (·.sent) || !t.maySend s.pkg a || (a.late && s.scored c a.extents) || s.halted (dieOf c) then s else
      let (ps, s) := s.sendParts c act a [] a.parts
      let a := { a with parts := ps }
      let now := !a.written && a.parts.all (·.valued)
      let a' := if now then { a with written := true } else a
      s.modAct c act fun t =>
        let t := { t with out := (t.out.map fun x => if x.seq == seq then a' else x).filter fun x => !x.over }
        if now then t.complete a' else t

/-- Send every access of an activation that may now be sent, in program order. -/
def State.pump (s : State) (c act : Nat) : State :=
  match s.getAct c act with
  | none => s
  | some t => (t.out.filter fun a => !(a.parts.all (·.sent))).foldl (fun s a => s.trySend c act a.seq) s

/-- An ended activation with nothing left under way is forgotten. -/
def Core.dropEnded (k : Core) : Core := { k with ended := k.ended.filter fun t => !(t.out.isEmpty && t.drain.isEmpty) }

/-- The landing an answer makes (R162): the slot that leaves Pending, and whether it faults. -/
def Strand.landing (t : Strand) (seq part : Nat) (r : Resp) : Option (Tag × Bool) :=
  match t.out.find? fun a => a.seq == seq with
  | some a =>
    (match a.dest with
     | .slot tag _ =>
       let x := (t.settle seq part r).slots[tag.val]
       if t.slots[tag.val].state = .pending ∧ x.state ≠ .pending then some (tag, x.was == .faulted) else none
     | _ => none)
  | none => none

/-- The choice a landing is (R170); of strand 0 where no strand runs the activation (entry 77, DESIGN CHOICE). -/
def State.landingChoice (s : State) (c act : Nat) (t : Strand) (l : Tag × Bool) : Choice :=
  s.landChoice c ((s.strandOfAct c act).getD 0 % 8) t.count l.1 l.2

/-- The choice an answer makes, if it lands a slot. -/
def State.answerChoice (s : State) (c act seq part : Nat) (r : Resp) : Option Choice :=
  match s.getAct c act with
  | some t => (t.landing seq part r).map (s.landingChoice c act t)
  | none => none

/-- Note a choice, where there is one. -/
def State.noteOpt (s : State) (x : Option Choice) : State :=
  match x with
  | some x => s.noteChoice x
  | none => s

/-- Whether a choice, where there is one, may be made now. -/
def State.optOpen (s : State) (x : Option Choice) : Bool :=
  match x with
  | some x => s.choiceOpen x
  | none => true

/-- Hold a choice, where there is one. -/
def State.optHold (s : State) (x : Option Choice) : State :=
  match x with
  | some x => s.holdChoice x
  | none => s

/-- An answer reaches its activation (R47): it settles the part, and what waited for it may be sent. -/
def State.answer (s : State) (c act seq part : Nat) (r : Resp) : State :=
  match s.getAct c act with
  | none => s
  | some t =>
    let fl := t.answerFlags seq r
    let s := s.noteOpt (s.answerChoice c act seq part r)
    let s := if fl = 0 then s else s.modCore c fun k => { k with fflags := k.fflags ||| ofN (fl % 32) }
    let s := s.modAct c act fun t => t.settle seq part r
    (s.pump c act).modCore c Core.dropEnded

/-- The running strand issues an access: it takes the next place in program order and is sent when it may be (R47). -/
def State.issue (s : State) (a : Access) : State :=
  let t := s.me
  let det := wbit s.myCore.det 0
  let s := s.modMe fun t => { t with out := t.out ++ [{ a with seq := t.seq, base := t.seq, det := det, strand := s.cur % 8 }], seq := t.seq + 1 }
  s.pump s.ci t.act

/-! ## Stores into the region buffer -/

/-- The region-buffer entries in use (R15, R106). -/
def Strand.bufUsed (t : Strand) : Nat := t.region.length + t.drain.length

/-- The capacity of the region buffer (R15). -/
def bufCap : Nat := 512

/-- The entries of a store's cuts with the given value, one place in program order each (R15). -/
def cutEntries (seq base : Nat) (rel : Option Scope) (v : Nat) : List Cut → List BufEntry
  | [] => []
  | x :: rest =>
    { seq := seq, base := base, gran := x.loc.phys, addr := ofN x.addr, mask := ofN (onesAt x.lo x.n), bits := ofN (v % 2 ^ x.n * 2 ^ x.lo),
      page := x.loc.page, rel := rel, sa := x.loc.sa, step := 64 } :: cutEntries (seq + 1) base rel (v / 2 ^ x.n) rest

/-- The entries of a store of n bits at an address over its locations. -/
def storeEntries (seq step : Nat) (rel : Option Scope) (a n v : Nat) (ls : List Loc) : List BufEntry :=
  cutEntries seq seq rel v (cutsOf step a n ls)

/-- Whether a synchronous load of the strand is unanswered (R49, R50). -/
def Strand.loadsDue (t : Strand) : Bool :=
  t.out.any fun a => !a.written && (match a.dest with | .sreg _ _ _ | .vreg _ _ | .got _ => true | _ => false)

/-- Put entries into the running region, with the other effects of the instruction. A store that finds too few free entries
commits the region first (R16, R149), and at that commit it waits for synchronous loads and reports their uncorrectable data as any commit
point does (R49, R50, R148); the store then enters the new region, once enough committed stores have drained (entry 46, DEDUCED). -/
def State.bufferStore (s : State) (need : Nat) (mk : Nat → List BufEntry) (fin : State → State) : Out :=
  let put := fun (s : State) => fin (s.modMe fun t => { t with region := t.region ++ mk t.seq, seq := t.seq + need })
  if s.me.bufUsed + need ≤ bufCap then .next (put s)
  else if s.me.loadsDue then .next s
  else match s.me.poison with
  | p :: rest => .next ((s.modMe fun t => { t with poison := rest }).trap cMEMERR p.addr)
  | [] =>
  match s.commit [] with
    | .error t => .next t
    | .ok t =>
      let t := t.modMe Strand.checkpoint
      if t.me.bufUsed + need ≤ bufCap then .next (put t) else .next t

/-- The runs of bits a committed store makes its accesses of, one for each; where granules are bytes, cut as its step says (R38, R39). -/
def BufEntry.runs (e : BufEntry) : List (Nat × Nat) :=
  let p := maskSpan e.mask.toNat
  if isHost e.gran && !e.sa then stepCuts e.step p.1 64 p.2 else [p]

/-- The write of a run of a committed store's bits. -/
def BufEntry.part (e : BufEntry) (r : Nat × Nat) : Part :=
  let m := ofN (onesAt r.1 r.2)
  { mkPart e.gran (.write (e.mask &&& m) (e.bits &&& m)) e.sa (0, 0) with cover := coverOf e.gran e.sa r.1 r.2 }

/-- The outstanding-table entry of a drained store (R47). -/
def bufAccess (e : BufEntry) : Access :=
  { mkOpAccess e.addr e.gran e.sa (.write e.mask e.bits) .ack with
    seq := e.seq, base := e.base, isLoad := false, rel := e.rel, grans := e.cover, parts := e.runs.map e.part }

/-- Whether the k-th committed store of a strand may drain (R51, R52, R54, R56). -/
def Strand.mayDrain (t : Strand) (own k : Nat) : Bool :=
  match t.drain[k]? with
  | none => false
  | some e =>
    decide (t.entries < 32) &&
    (t.out.all fun a => decide (a.base > e.seq) || a.answered || !meet a.grans e.cover) &&
    ((t.drain.take k).all fun x => !meet x.cover e.cover) &&
    (match e.rel with | some sc => t.allBefore own sc e.base | none => true) && t.storesLet own e.base

/-- Drain the k-th committed store of an activation (R47): it enters the outstanding table and is sent on the adaptive class. A
virtual page whose data-TLB entry is clean goes to the core's dirty log (R117). Unchanged where it may not drain. -/
def State.drainStore (s : State) (c act k : Nat) : State :=
  match s.getAct c act with
  | none => s
  | some t =>
    match t.drain[k]?, t.mayDrain s.pkg k && !s.halted (dieOf c) with
    | some e, true =>
      match s.logDirty c e.page with
      | none => s
      | some s =>
        let s := s.modAct c act fun t => { t with drain := listDel t.drain k, out := bufAccess e :: t.out }
        s.trySend c act e.seq
    | _, _ => s

/-! ## Reading descriptors and images (R51, R53 to R56: a synchronous load) -/

/-- The bits of a granule as a load of a core sees them: a host granule with the posted entries of its die's bridge (R61). -/
def State.peek (s : State) (c : Nat) (p : Nat) : Option Word :=
  if isHost p then
    some ((s.die (dieOf c)).posted.foldl (fun w e => if e.gran = p then mergeBits w e.mask e.bits else w) ((s.mem.readGran p).getD 0))
  else s.mem.readGran p

/-- Whether n loads of the instruction at pc may be issued now: entries are free (R56), no acquire and no fence holds them (R53, R54), and no
engine of the core writes there (R55). -/
def State.mayLoad (s : State) (n : Nat) (runs : List (Nat × Nat)) : Bool :=
  let t := s.me
  decide (t.entries + n ≤ 32) && !(t.out.any fun a => a.acquire && !a.answered) && t.loadsLet s.pkg && !s.scored s.ci runs

/-- The value of n bits at a that the instruction at pc has loaded, if it has. -/
def Strand.gotten (t : Strand) (a n : Nat) : Option (Option Nat) := (t.got.find? fun g => g.1 == a && g.2.1 == n).map (·.2.2)

/-- Load n bits at an address for the instruction at pc and go on with them: the load is issued, the strand waits for its answer, and the
instruction is taken up again with the value (R47, R49); uncorrectable data raises MEMERR at once (R148) (entry 46, DEDUCED). `halt` says what
a stopped access does. -/
def State.loadBits (halt : State → Stop → State) (s : State) (a : Word) (n : Nat) (k : Nat → State → Out) : Out :=
  match s.me.gotten a.toNat n with
  | some (some v) => k v s
  | some none => .next (s.trap cMEMERR a)
  | none =>
    State.checkedBy halt (s.resolve s.ci s.user .load a n) fun ls s =>
      let x := mkLoad a s.me.region (cutsOf 8 a.toNat n ls) (.got [(a.toNat, n)])
      .next (if s.mayLoad 1 x.extents then s.issue x else s)

/-- Load n words at an address. -/
def State.loadWords (halt : State → Stop → State) (s : State) (a : Word) (n : Nat) (k : List Word → State → Out) : Out :=
  State.loadBits halt s a (64 * n) fun v s => k (splitWords v n) s

/-- The words of an instruction that is a commit point. -/
def State.readDesc (s : State) (a : Word) (n : Nat) (k : List Word → State → Out) : Out := State.loadWords State.stopAt s a n k

/-- The words of an instruction that is none. -/
def State.readLocal (s : State) (a : Word) (n : Nat) (k : List Word → State → Out) : Out := State.loadWords State.stop s a n k

end Sys2Proof.Machine
end

