-- ==== Sys2Proof/Machine/Arrival.lean ====
section
/-! DEFINITION. What reaches a core from the fabric: the order of arrivals (R57), spill areas (R209), ranks in transit (R27), and
requests for a context that is switched out (R126). -/

namespace Sys2Proof.Machine

/-- The die of a home, over the pod. -/
def homeDie : HomeId → Nat
  | .core c => c / 2048 * 8 + c % 2048 / 256
  | .slice d _ => d
  | .bank d _ => d
  | .bridge d => d
  | .quadUnit q => q / 512 * 8 + q % 512 / 64

/-- Whether a census cut of the destination's die lets a packet through (R389): one under way lets adaptive traffic drain, one taken
nothing. -/
def State.passes (s : State) (p : Packet) : Bool :=
  let g := homeDie p.dst
  if g / 8 ≠ s.pkg then true
  else
    let f := (s.die (g % 8)).frozen
    f == 0 || (f == 1 && !p.ordered)

/-- Whether a packet comes after requests that were held for a context of its destination's die (R126): they are delivered in their order,
before new traffic. -/
def State.afterHeld (s : State) (k : Nat) (p : Packet) : Bool :=
  (if p.held then s.flight.take k else s.flight).any fun x => x.held && homeDie x.dst == homeDie p.dst

/-- The own-package core of a core home; none for other homes. -/
def State.homeCore (s : State) (h : HomeId) : Option Nat :=
  match h with
  | .core g => if g / 2048 = s.pkg then some (g % 2048) else none
  | _ => none

/-- Whether a packet of the ordered class finds its core's network interface closed, because the packet before it has no room there (R208,
R209). -/
def State.doorShut (s : State) (p : Packet) : Bool :=
  p.ordered && (match s.homeCore p.dst with | some c => (s.core c).door.isSome | none => false)

/-- Whether the order of an ordered queue lets the k-th packet move (R57): only from the head of its queue. -/
def State.headOfQueue (s : State) (k : Nat) (p : Packet) : Bool :=
  !p.ordered || !((s.flight.take k).any fun x => x.ordered && x.src == p.src && x.dst == p.dst)

/-- Whether the k-th packet may move. -/
def State.mayMove (s : State) (k : Nat) (p : Packet) : Bool := s.passes p && !s.afterHeld k p && s.headOfQueue k p && !s.doorShut p

/-- Take the k-th packet out of the fabric. -/
def State.dropFlight (s : State) (k : Nat) : State := { s with flight := listDel s.flight k }

/-! ## Spill areas (R209) -/

/-- Replace n bits of a word from bit lo. -/
def putFld (w : Word) (lo n v : Nat) : Word := mergeBits w (ofN (onesAt lo n)) (ofN (v % 2 ^ n * 2 ^ lo))

/-- Replace n bits of word k of an image. -/
def putIn (ws : List Word) (k lo n v : Nat) : List Word := listMod ws k fun w => putFld w lo n v

/-- A capsule that has passed through a spill area says so (R349). -/
def capSpilled (ws : List Word) : List Word := putIn ws 1 49 1 1

/-- A packet that goes to a spill area. -/
def Packet.spilled (p : Packet) : Packet :=
  match p.body with
  | .capsule h ws srank => { p with body := .capsule h (capSpilled ws) srank }
  | _ => p

/-- TBITS of a capsule (R349). -/
def capTbits (ws : List Word) : Nat := wfld (wordAt ws 2) 0 16

/-- The spill entries a packet's body takes. -/
def Body.entries (b : Body) : Nat :=
  match b with
  | .capsule _ ws _ => ceilDiv (1536 + capTbits ws) 512
  | .keyed x => 1 + ceilDiv x.pairs.length 4
  | .copies _ n => n
  | _ => 1

/-- The entries an item takes: a capsule's by its size, one for a message. -/
def SpillItem.entries (x : SpillItem) : Nat :=
  match x with
  | .message _ => 1
  | .rank p => p.body.entries
  | .capsule ws _ => ceilDiv (1536 + capTbits ws) 512

/-- The spill entries in use in a quad. -/
def State.spillUsed (s : State) (q : Nat) : Nat :=
  (quadCores q).foldl (fun n c => (s.core c).spill.foldl (fun n x => n + x.entries) n) 0

/-- The entries of a spill area. -/
def spillCap : Nat := 65536

/-- Whether the spill area of a core's quad is in use and has room for n more entries. -/
def State.spillRoom (s : State) (c n : Nat) : Bool :=
  let q := quadOf c
  wbit ((s.quad q).spill.get (s.ctxOf (dieOf c)) 0) 0 && decide (s.spillUsed q + n ≤ spillCap)

/-- Put an item at the end of a core's spill stream. -/
def State.spillPut (s : State) (c : Nat) (x : SpillItem) : State := s.modCore c fun k => { k with spill := k.spill ++ [x] }

/-! ## Inboxes (R208) -/

/-- The messages an inbox ring holds. -/
def ringCap : Nat := 256

/-- Whether a spilled item is a message of a class. -/
def SpillItem.ofClass (x : SpillItem) (cls : Nat) : Bool :=
  match x with
  | .message m => m.msg.prio == cls
  | _ => false

/-- PRIO of a capsule. -/
def capPrio (ws : List Word) : Nat := wfld (wordAt ws 2) 16 2

/-- Whether a spilled item is a capsule whose notice comes before a message: the message is a notice of the same class and sender (R358). -/
def SpillItem.noticeFirst (x : SpillItem) (m : Msg) : Bool :=
  match x with
  | .capsule ws srank => m.kind == 4 && capPrio ws == m.prio && srank % 2 ^ 24 == m.srank
  | _ => false

/-- Whether an inbox ring has room for a message of a class. -/
def Core.ringRoom (k : Core) (cls : Nat) : Bool := decide ((k.inbox.filter fun x => x.msg.prio == cls).length < ringCap)

/-- Whether a message would go to its inbox ring, not the spill area (R208, R358). -/
def Core.ringTakes (k : Core) (m : Msg) : Bool := k.ringRoom m.prio && !(k.spill.any fun x => x.ofClass m.prio || x.noticeFirst m)

/-- A message that arrived at a time enters a core's inbox ring with that stamp, or its spill area (R208), and ends a back-off from stealing
(R213). None where it must wait. -/
def State.inboxPut (s : State) (c : Nat) (m : Msg) (stamp : Nat) : Option State :=
  let q : QMsg := ⟨m, stamp⟩
  let s := s.modCore c fun k => { k with steal := { k.steal with backoff := none } }
  if (s.core c).ringTakes m then some (s.modCore c fun k => { k with inbox := k.inbox ++ [q] })
  else if s.spillRoom c 1 then some (s.spillPut c (.message q))
  else none

/-- A message with the next COOKIE (R227). -/
def Msg.nextCookie (m : Msg) : Msg := { m with w1 := ofN (m.w1.toNat / 2 ^ 32 * 2 ^ 32 + (m.w1.toNat % 2 ^ 32 + 1) % 2 ^ 32) }

/-- Copies of a message enter one after the other, with consecutive stamps (R227); and those that wait, with the stamp of the first. -/
def State.inboxCopies (s : State) (c : Nat) (m : Msg) (stamp : Nat) : Nat → State × Option (Body × Nat)
  | 0 => (s, none)
  | n + 1 =>
    match s.inboxPut c m stamp with
    | some s => State.inboxCopies s c m.nextCookie (stamp + 1) n
    | none => (s, some (.copies m (n + 1), stamp))

/-- A packet that arrived at a time waits in its core's network interface for room (R208, R209). -/
def State.shutDoor (s : State) (c : Nat) (p : Packet) (stamp : Nat) : State := s.modCore c fun k => { k with door := some (p, stamp) }

/-! ## Contexts that are switched out (R126) -/

/-- The entries of a map that belong to a die, and the others. -/
def splitDie {α : Type} (m : KMap α) (per d : Nat) : KMap α × KMap α := (m.filter fun e => e.1 / per == d, m.filter fun e => e.1 / per != d)

/-- Entries joined into a map. -/
def joinMap {α : Type} (m add : KMap α) : KMap α := add.foldl (fun m e => m.set e.1 e.2) m

/-- Exchange the cores, strands and quads of a die, and its context's part of the die, with those of a saved context. -/
def State.exchange (s : State) (key : Nat) : State :=
  match s.saved.find? fun e => e.1 == key with
  | none => s
  | some (_, x) =>
    let d := key % 8
    let (cs, cr) := splitDie s.cores 256 d
    let (ts, tr) := splitDie s.strands 2048 d
    let (qs, qr) := splitDie s.quads 64 d
    let k := s.die d
    { s with cores := joinMap cr x.cores, strands := joinMap tr x.strands, quads := joinMap qr x.quads,
             dies := s.dies.set d { k.takeCtx x.die with ctx := x.die.ctx, switch := x.die.switch },
             saved := s.saved.set key
               { x with cores := cs, strands := ts, quads := qs, die := { x.die.takeCtx k with ctx := k.ctx, switch := k.switch } } }

/-- Whether a packet of a context for a core finds that context switched out: another runs there, or it has just been saved. -/
def State.switchedOut (s : State) (c ctx : Nat) : Bool :=
  s.ctxOf (dieOf c) != ctx || s.away (dieOf c)

/-- Do something as a context of a die sees the state: the running one, or a saved one through its image. -/
def State.asContext (s : State) (d ctx : Nat) (f : State → State) : State :=
  if s.ctxOf d = ctx ∧ s.away d = false then f s
  else if s.saved.any fun e => e.1 == savedKey ctx d then (f (s.exchange (savedKey ctx d))).exchange (savedKey ctx d)
  else s

/-- Hold the k-th packet for its context. None where its spill area takes no more, or nothing is saved for that context. -/
def State.holdCtx (s : State) (k : Nat) (p : Packet) (c : Nat) : Option State :=
  let key := savedKey p.ctx (dieOf c)
  match s.saved.find? fun e => e.1 == key with
  | none => none
  | some (_, x) =>
    let q := quadOf c
    let area := (x.quads.get q Quad.init).spill.get p.ctx 0
    let used := (quadCores q).foldl (fun n c => (x.cores.get c Core.init).spill.foldl (fun n y => n + y.entries) n) 0 +
      x.held.foldl (fun n y => n + y.body.entries) 0
    if wbit area 0 && decide (used + p.body.entries ≤ spillCap) then
      some { s.dropFlight k with saved := s.saved.set key { x with held := x.held ++ [p.spilled] } }
    else none

/-! ## Ranks in transit (R27) -/

/-- Messages an interface holds for ranks in transit before they spill. -/
def rankCap : Nat := 64

/-- Hold a packet for a rank in transit at its old core: in its interface, in the spill area, or, where neither has room, at the door. -/
def State.holdRank (s : State) (p : Packet) (c : Nat) : State :=
  let spilt := (s.core c).spill.any fun x => match x with | .rank _ => true | _ => false
  if (s.core c).rankHeld.length < rankCap && !spilt then s.modCore c fun x => { x with rankHeld := x.rankHeld ++ [p] }
  else if s.spillRoom c p.body.entries then s.spillPut c (.rank p.spilled)
  else s.shutDoor c p s.clock

/-- Whether messages for a rank that its old core holds, forwards or has yet to forward have still to reach its new core. -/
def State.forwarding (s : State) (ctx rank core : Nat) : Bool :=
  (s.cores.any fun e =>
    e.2.holdsFor ctx rank ||
    (match e.2.door with | some (p, _) => p.isFor ctx rank && p.dst != .core core && !p.fixed | none => false)) ||
  s.flight.any fun p => p.isFor ctx rank && (p.fwd || p.dst != .core core) && !p.fixed

/-- Whether a core g keeps the packets it holds for a rank of a context: the rank is in transit there, or the RANKMAP that changed it is not complete,
which starts the forwarding (R27, R232). -/
def State.keepsRank (s : State) (c g ctx rank : Nat) : Bool :=
  let e := s.rankEntry c rank
  (rankState e == 2 && rankCore e == g) ||
  s.pendings.any fun p => match p.op with | .rankmap r _ => r == rank && s.ctxOf (dieOf p.core) == ctx | _ => false

/-! ## Arrival at a core -/

/-- What becomes of a packet for a rank that reaches a core of the pod: it is held, for the rank in transit or behind what is still held for it, goes
on to the rank's new core in its order, waits for what the old core forwards, or is accepted (R27); one whose core is fixed is held or accepted (R224). -/
inductive RankWay where
  | hold | onward (fwd : Bool) (core : Nat) | wait | accept
  deriving DecidableEq, Repr

/-- The way of a packet for rank r at core g. -/
def State.rankWay (s : State) (c g r : Nat) (p : Packet) : RankWay :=
  let e := s.rankEntry c r
  if p.fixed then (if rankState e = 2 ∧ rankCore e = g then .hold else .accept)
  else if rankState e = 2 then (if rankCore e = g then .hold else .onward false (rankCore e))
  else if rankState e = 1 then
    (if rankCore e ≠ g then (if (s.core c).holdsFor p.ctx r then .hold else .onward true (rankCore e))
     else if !p.fwd && s.forwarding p.ctx r g then .wait else .accept)
  else .accept

/-- Take the k-th packet, of a wanted kind, to its core: it waits (none), it leaves the package, it is held, or it is accepted. -/
def State.onArrival (s : State) (k : Nat) (want : Body → Bool) (accept : Nat → Packet → State → Option State) : Option State :=
  match s.flight[k]? with
  | none => none
  | some p =>
    if !want p.body || !s.mayMove k p then none else
    match p.dst with
    | .core g =>
      if g / 2048 ≠ s.pkg then some (s.dropFlight k)
      else
        let c := g % 2048
        if s.switchedOut c p.ctx then s.holdCtx k p c
        else match p.rank.map fun r => (r, s.rankWay c g r p) with
          | some (_, .hold) => some ((s.dropFlight k).holdRank p c)
          | some (r, .onward fwd core) => some ((s.dropFlight k).postRankIn p.ctx (srcCore g) core r fwd p.body)
          | some (_, .wait) => none
          | some (_, .accept) => accept c p (s.dropFlight k)
          | none => accept c p (s.dropFlight k)
    | _ => none

/-- A packet of the ordered class that a core of another package sends to a core of this one enters at its port (R369, entry 15): `src` is the
sending core's number in the pod, and rk the rank it was sent to plus one, 0 for none. -/
def State.portIn (s : State) (c src rk : Nat) (body : Body) : Option State :=
  if src / 2048 = s.pkg then none
  else some { s with flight := s.flight ++
    [⟨srcCore src, .core (s.gcore c), true, false, s.clock, s.ctxOf (dieOf c), if rk = 0 then none else some ((rk - 1) % 2 ^ 24), false, false, false, none,
      body⟩] }

end Sys2Proof.Machine
end

