-- ==== Sys2Proof/Decode.lean ====
section
/-! DEFINITION. Decoding of halfwords and words (R86 to R95), total, rejecting by name, and the encoder, written
from the match values and field places of spec/opcode_table.json. A word that is rejected here raises ILL (R96). -/

namespace Sys2Proof

/-- Why a word is no instruction (R96 step 3). -/
inductive Reject where
  | tooShort | zeroHalfword | reservedMajor | opNotListed | mustBeZero | reservedWidth | reservedType
  | reservedScope | reservedKind | reservedExtent | reservedSelector | maskField | relBit | shiftAmount | operandRule
  deriving DecidableEq, Repr

/-- The n bits of w from bit lo upward. -/
def fld (w lo n : Nat) : Nat := w / 2 ^ lo % 2 ^ n

/-- A register field at lo (R89). -/
def regAt (w lo : Nat) : Reg := Fin.ofNat 32 (w / 2 ^ lo)

/-- A mask register field at lo; 8-31 is illegal (R89). -/
def mregAt (w lo : Nat) : Except Reject MReg :=
  if fld w lo 5 < 8 then .ok (Fin.ofNat 8 (w / 2 ^ lo)) else .error .maskField

/-- Width codes (R90). -/
def widthOf : Nat → Except Reject Width
  | 0 => .ok .w1 | 1 => .ok .w2 | 2 => .ok .w3 | 3 => .ok .w4 | 4 => .ok .w6 | 5 => .ok .w8 | 6 => .ok .w16
  | 7 => .ok .w32 | 8 => .ok .w64 | _ => .error .reservedWidth

/-- Scope codes (R91). -/
def scopeOf : Nat → Except Reject Scope
  | 0 => .ok .core | 1 => .ok .quad | 2 => .ok .die | 3 => .ok .pkg | 4 => .ok .pod | 5 => .ok .sys
  | _ => .error .reservedScope

/-- Type codes (R92). -/
def tyOf : Nat → Except Reject Ty
  | 0 => .ok .f32 | 1 => .ok .f40 | 2 => .ok .bf16 | 3 => .ok .f16 | 4 => .ok .e5m2 | 5 => .ok .e4m3 | 6 => .ok .e3m2
  | 7 => .ok .e2m3 | 8 => .ok .e2m1 | 16 => .ok .i3 | 17 => .ok .i4 | 18 => .ok .i8 | 19 => .ok .i16 | 20 => .ok .i32
  | 21 => .ok .i64 | 22 => .ok .n3 | 23 => .ok .n4 | 24 => .ok .n8 | 25 => .ok .n16 | 26 => .ok .n32 | 27 => .ok .n64
  | 28 => .ok .q3 | 29 => .ok .q4 | 30 => .ok .q8 | _ => .error .reservedType

/-- Lane type codes (R92). -/
def ltyOf : Nat → Except Reject LTy
  | 0 => .ok .f32 | 1 => .ok .bf16 | 2 => .ok .f16 | 4 => .ok .i8 | 5 => .ok .i16 | 6 => .ok .i32 | 7 => .ok .i64
  | 8 => .ok .n8 | 9 => .ok .n16 | 10 => .ok .n32 | 11 => .ok .n64 | 12 => .ok .b8 | 13 => .ok .b16 | 14 => .ok .b32
  | 15 => .ok .b64 | _ => .error .reservedType

/-- FMA types (R94). -/
def fmaTyOf : Nat → Except Reject FmaTy
  | 0 => .ok .f32 | 1 => .ok .f40 | _ => .error .reservedType

/-- Types of major 0x27 (R94). -/
def vfmaTyOf : Nat → Except Reject VfmaTy
  | 0 => .ok .f32 | 1 => .ok .bf16 | 2 => .ok .f16 | _ => .error .reservedType

/-- Branch conditions (R142). -/
def condOf : Nat → Cond
  | 0 => .eq | 1 => .ne | 2 => .lt | 3 => .ge | 4 => .ltn | 5 => .gen | 6 => .bset | _ => .bclr

/-- VCMP conditions (R94). -/
def vcondOf : Nat → VCond
  | 0 => .eq | 1 => .ne | 2 => .lt | _ => .le

/-- Fence kinds (R94). -/
def fenceKindOf : Nat → Except Reject FenceKind
  | 0 => .ok .ll | 1 => .ok .ls | 2 => .ok .sl | 3 => .ok .ss | 4 => .ok .all | _ => .error .reservedKind

/-- MSEL (R94). -/
def mselOf : Nat → MSel
  | 0 => .none | 1 => .m0 | 2 => .m1 | _ => .m2

/-- Require a field to be zero. -/
def mbz (x : Nat) (r : Except Reject Instr) : Except Reject Instr := if x = 0 then r else .error .mustBeZero

/-- The 16-bit Q forms (R87); the caller has seen bit 0 = 0. -/
def decode16 (h : Nat) : Except Reject Instr :=
  let m := fld h 15 1 == 1
  let b := regAt h 10
  let d := regAt h 5
  if h % 65536 = 0 then .error .zeroHalfword else
  match fld h 1 4 with
  | 0 => .ok (.vaddF32Q m d b) | 1 => .ok (.vsubF32Q m d b) | 2 => .ok (.vmulF32Q m d b) | 3 => .ok (.vmaxF32Q m d b)
  | 4 => .ok (.vminF32Q m d b) | 5 => .ok (.vaddI32Q m d b) | 6 => .ok (.vsubI32Q m d b) | 7 => .ok (.vmulI32Q m d b)
  | 8 => .ok (.vandB32Q m d b) | 9 => .ok (.vorB32Q m d b) | 10 => .ok (.vxorB32Q m d b) | 11 => .ok (.vshlI32Q m d b)
  | 12 => .ok (.vsraI32Q m d b) | 13 => .ok (.vmovQ m d b) | 14 => .ok (.vnegF32Q m d b) | _ => .ok (.vabsF32Q m d b)

/-- Major 0x01, integer operations (R93, R128). -/
def decInt (w : Nat) : Except Reject Instr :=
  let d := regAt w 7; let a := regAt w 12; let b := regAt w 17
  mbz (fld w 27 5) <|
  match fld w 22 5 with
  | 0 => .ok (.add d a b) | 1 => .ok (.sub d a b) | 2 => .ok (.mul d a b) | 3 => .ok (.mulh d a b) | 4 => .ok (.mulhn d a b)
  | 5 => .ok (.div d a b) | 6 => .ok (.divn d a b) | 7 => .ok (.rem d a b) | 8 => .ok (.remn d a b) | 9 => .ok (.and d a b)
  | 10 => .ok (.or d a b) | 11 => .ok (.xor d a b) | 12 => .ok (.andn d a b) | 13 => .ok (.shl d a b) | 14 => .ok (.shr d a b)
  | 15 => .ok (.sra d a b) | 16 => .ok (.rol d a b) | 17 => .ok (.min d a b) | 18 => .ok (.max d a b) | 19 => .ok (.minn d a b)
  | 20 => .ok (.maxn d a b) | 21 => .ok (.slt d a b) | 22 => .ok (.sltn d a b) | 23 => .ok (.seq d a b) | 24 => .ok (.cmov d a b)
  | 25 => mbz (fld w 17 5) (.ok (.clz d a)) | 26 => mbz (fld w 17 5) (.ok (.ctz d a)) | 27 => mbz (fld w 17 5) (.ok (.popc d a))
  | _ => .error .opNotListed

/-- Major 0x06, immediate shifts (R95). -/
def decShiftImm (w : Nat) : Except Reject Instr :=
  let d := regAt w 7; let a := regAt w 12; let n : Fin 64 := Fin.ofNat 64 (w / 2 ^ 17)
  mbz (fld w 26 6) <|
  if fld w 23 1 = 1 then .error .shiftAmount else
  match fld w 24 2 with
  | 0 => .ok (.shli d a n) | 1 => .ok (.shri d a n) | 2 => .ok (.srai d a n) | _ => .ok (.roli d a n)

/-- Major 0x0A, bit pointers (R94, R133 to R136). -/
def decBitPtr (w : Nat) : Except Reject Instr :=
  let d := regAt w 7; let a := regAt w 12; let b := regAt w 17
  mbz (fld w 30 2) <|
  match fld w 22 4 with
  | 0 => do let x ← widthOf (fld w 26 4); .ok (.bpadd x d a b)
  | 1 => do let x ← widthOf (fld w 26 4); .ok (.bpdiff x d a b)
  | 2 => mbz (fld w 26 4) (.ok (.bcrd d a b)) | 3 => mbz (fld w 26 4) (.ok (.brel d a b))
  | 4 => mbz (fld w 26 4) (.ok (.bstripe d a b))
  | 5 => mbz (fld w 26 4 + fld w 17 5) (.ok (.b2byte d a)) | 6 => mbz (fld w 26 4 + fld w 17 5) (.ok (.byte2b d a))
  | 7 => mbz (fld w 26 4) <|
    match fld w 17 5 with
    | 0 => .ok (.bwin 0 d a) | 1 => .ok (.bwin 1 d a) | 2 => .ok (.bwin 2 d a) | _ => .error .reservedSelector
  | 8 => mbz (fld w 17 5) (do let x ← widthOf (fld w 26 4); .ok (.balign x d a))
  | _ => .error .opNotListed

/-- Major 0x0C, scalar floating point (R94, R138 to R140). -/
def decScalarFp (w : Nat) : Except Reject Instr :=
  let d := regAt w 7; let a := regAt w 12; let b := regAt w 17
  mbz (fld w 31 1) <| do
  let t ← tyOf (fld w 26 5)
  match fld w 22 4 with
  | 0 => .ok (.fadd t d a b) | 1 => .ok (.fsub t d a b) | 2 => .ok (.fmul t d a b) | 3 => .ok (.fdiv t d a b)
  | 4 => mbz (fld w 17 5) (.ok (.fsqrt t d a)) | 5 => .ok (.fmin t d a b) | 6 => .ok (.fmax t d a b)
  | 7 => .ok (.fcmpeq t d a b) | 8 => .ok (.fcmplt t d a b) | 9 => .ok (.fcmple t d a b)
  | 10 => do let s ← tyOf (fld w 17 5); .ok (.fcvt t s d a)
  | 11 => mbz (fld w 17 5) (.ok (.fclass t d a))
  | _ => .error .opNotListed

/-- Major 0x13, LOOP and LOOPS (R95). -/
def decLoop (w : Nat) : Except Reject Instr :=
  mbz (fld w 12 5) <|
  if fld w 31 1 = 0 then .ok (.loop (regAt w 7) (BitVec.ofNat 14 (w / 2 ^ 17)))
  else mbz (fld w 7 5) (.ok (.loops (BitVec.ofNat 14 (w / 2 ^ 17))))

/-- Majors 0x14 and 0x15, LD and ST (R88 format C). -/
def decLoad (w : Nat) : Except Reject Instr := do
  let x ← widthOf (fld w 17 4)
  .ok (.ld x (fld w 21 1 == 1) (regAt w 7) (regAt w 12) (BitVec.ofNat 10 (w / 2 ^ 22)))

@[inherit_doc decLoad]
def decStore (w : Nat) : Except Reject Instr :=
  mbz (fld w 21 1) <| do
  let x ← widthOf (fld w 17 4)
  .ok (.st x (regAt w 7) (regAt w 12) (BitVec.ofNat 10 (w / 2 ^ 22)))

/-- Major 0x16, vector loads and stores (R95). -/
def decVecMem (w : Nat) : Except Reject Instr := do
  let x ← widthOf (fld w 17 4)
  let d := regAt w 7; let a := regAt w 12
  match fld w 21 2 with
  | 0 => .ok (.ldv x d a (BitVec.ofNat 9 (w / 2 ^ 23))) | 1 => .ok (.stv x d a (BitVec.ofNat 9 (w / 2 ^ 23)))
  | 2 => mbz (fld w 28 4) (.ok (.ldvx x d a (regAt w 23))) | _ => mbz (fld w 28 4) (.ok (.stvx x d a (regAt w 23)))

/-- Major 0x17, acquire loads and release stores (R95). -/
def decAcqRel (w : Nat) : Except Reject Instr := do
  let x ← widthOf (fld w 17 4)
  let s ← scopeOf (fld w 23 3)
  let d := regAt w 7; let a := regAt w 12; let o := BitVec.ofNat 6 (w / 2 ^ 26)
  if fld w 22 1 = 0 then .ok (.ldAcq x (fld w 21 1 == 1) s d a o) else mbz (fld w 21 1) (.ok (.stRel x s d a o))

/-- Majors 0x18 and 0x19, tagged loads (R88 format G, R94). -/
def decTagged (w : Nat) (vec : Bool) : Except Reject Instr := do
  let x ← widthOf (fld w 23 4)
  let t : Tag := Fin.ofNat 64 (w / 2 ^ 17)
  if vec then mbz (fld w 27 5) (.ok (.ldtv x t (regAt w 12) (regAt w 7)))
  else mbz (fld w 28 4) (.ok (.ldt x (fld w 27 1 == 1) t (regAt w 12) (regAt w 7)))

/-- Major 0x1A, takes and slot control (R94). -/
def decTake (w : Nat) : Except Reject Instr :=
  let d := regAt w 7; let a := regAt w 12; let b := regAt w 17
  mbz (fld w 25 7) <|
  match fld w 22 3 with
  | 0 => mbz (fld w 17 5) (.ok (.take d a)) | 1 => .ok (.takem d a b) | 2 => .ok (.taket d a b)
  | 3 => mbz (fld w 17 5) (.ok (.lsq d a)) | 4 => mbz (fld w 17 5 + fld w 7 5) (.ok (.lsreissue a))
  | 5 => mbz (fld w 17 5 + fld w 7 5) (.ok (.lsclr a)) | 6 => mbz (fld w 17 5 + fld w 7 5) (.ok (.lswait a))
  | _ => .error .opNotListed

/-- Major 0x1B, the SFU family (R94, R180). -/
def decSfu (w : Nat) : Except Reject Instr :=
  let t : Tag := Fin.ofNat 64 (w / 2 ^ 17); let a := regAt w 12
  mbz (fld w 7 5 + fld w 30 2) <|
  if fld w 23 4 = 7 then
    match fld w 27 3 with
    | 0 => .ok (.sfuExp2 t a) | 1 => .ok (.sfuLog2 t a) | 2 => .ok (.sfuRcp t a) | 3 => .ok (.sfuRsq t a)
    | 4 => .ok (.sfuSin t a) | 5 => .ok (.sfuCos t a) | 6 => .ok (.sfuTanh t a) | _ => .ok (.sfuErf t a)
  else .error .reservedWidth

/-- Major 0x1C, atomics (R94, R196). -/
def decAmo (w : Nat) : Except Reject Instr := do
  let d := regAt w 7; let a := regAt w 12; let b := regAt w 17
  let y := fld w 31 1 == 1
  let x ← widthOf (fld w 27 4)
  let red (r : Except Reject Instr) := mbz (fld w 7 5) r
  let fp (r : Except Reject Instr) : Except Reject Instr := if x = .w32 then r else .error .reservedWidth
  match fld w 22 5 with
  | 0 => .ok (.amoAdd y x d a b) | 1 => .ok (.amoAnd y x d a b) | 2 => .ok (.amoOr y x d a b) | 3 => .ok (.amoXor y x d a b)
  | 4 => .ok (.amoMin y x d a b) | 5 => .ok (.amoMax y x d a b) | 6 => .ok (.amoMinn y x d a b) | 7 => .ok (.amoMaxn y x d a b)
  | 8 => .ok (.amoSwap y x d a b) | 9 => .ok (.amoCas y x d a b) | 10 => fp (.ok (.amoFadd y d a b))
  | 11 => red (.ok (.redAdd y x a b)) | 12 => red (.ok (.redAnd y x a b)) | 13 => red (.ok (.redOr y x a b))
  | 14 => red (.ok (.redXor y x a b)) | 15 => red (.ok (.redMin y x a b)) | 16 => red (.ok (.redMax y x a b))
  | 17 => red (.ok (.redMinn y x a b)) | 18 => red (.ok (.redMaxn y x a b))
  | 19 => red (fp (.ok (.redFadd y a b))) | 20 => red (fp (.ok (.redFmax y a b)))
  | _ => .error .opNotListed

/-- Major 0x1D, fences and COMMIT (R94). -/
def decFence (w : Nat) : Except Reject Instr :=
  mbz (fld w 7 15 + fld w 30 2) <|
  match fld w 22 2 with
  | 0 => do let k ← fenceKindOf (fld w 24 3); let s ← scopeOf (fld w 27 3); .ok (.fence k s)
  | 1 => mbz (fld w 24 6) (.ok .fenceI)
  | 2 => mbz (fld w 24 6) (.ok .commit)
  | _ => .error .opNotListed

/-- The instructions of the E majors by major and op, given the scope, the REL bit and the registers (R93). -/
def decEngineOp (maj op : Nat) (s : Scope) (rel : Bool) (w : Nat) : Except Reject Instr :=
  let d := regAt w 7; let a := regAt w 12; let b := regAt w 17
  let zd (r : Except Reject Instr) := mbz (fld w 7 5) r
  let za (r : Except Reject Instr) := mbz (fld w 12 5) r
  let zb (r : Except Reject Instr) := mbz (fld w 17 5) r
  match maj, op with
  | 0x1E, 0 => .ok (.enq s d a b) | 0x1E, 1 => .ok (.deq s d a b) | 0x1E, 2 => zb (.ok (.ringstat s d a))
  | 0x20, 0 => zd (.ok (.cadd rel s a b)) | 0x20, 1 => zd (.ok (.cmax rel s a b)) | 0x20, 2 => .ok (.cwait s d a b)
  | 0x20, 3 => .ok (.cwaitt s d a b) | 0x20, 4 => .ok (.carm s d a b)
  | 0x21, 0 => .ok (.msg s d a b) | 0x21, 1 => .ok (.msgc s d a b) | 0x21, 2 => zd (.ok (.spawn s a b))
  | 0x21, 3 => zd (za (zb (.ok (.recv s)))) | 0x21, 4 => zd (za (zb (.ok (.endAct s)))) | 0x21, 5 => zd (zb (.ok (.yield s a)))
  | 0x21, 6 => .ok (.rankmap s d a b)
  | 0x22, 0 => zb (.ok (.dqpush s d a)) | 0x22, 1 => zb (.ok (.dqpop s d a)) | 0x22, 2 => za (zb (.ok (.dqcount s d)))
  | 0x23, 0 => .ok (.barCfg s d a b) | 0x23, 1 => za (.ok (.barArr s d b)) | 0x23, 2 => .ok (.barWait s d a b)
  | 0x23, 3 => .ok (.barStat s d a b)
  | 0x24, 0 => .ok (.capnew s d a b) | 0x24, 1 => zb (.ok (.capfwd s d a)) | 0x24, 2 => zd (zb (.ok (.capend s a)))
  | 0x24, 3 => .ok (.caprd s d a b)
  | 0x25, 0 => .ok (.capins s d a b) | 0x25, 1 => zb (.ok (.capdel s d a)) | 0x25, 2 => .ok (.capset s d a b)
  | 0x2E, 0 => zb (.ok (.strmCfg s d a)) | 0x2E, 1 => za (zb (.ok (.strmEnd s d))) | 0x2E, 2 => zb (.ok (.strmPos s d a))
  | 0x30, 0 => zb (.ok (.opclaim s d a)) | 0x30, 1 => zd (zb (.ok (.oprel s a))) | 0x30, 2 => zd (.ok (.opload s a b))
  | 0x30, 3 => zb (.ok (.opstat s d a))
  | 0x31, 0 => zb (.ok (.ttEnq s d a)) | 0x31, 1 => zb (.ok (.ttGrp s d a)) | 0x31, 2 => zb (.ok (.ttPair s d a))
  | 0x31, 3 => .ok (.ttAppend s d a b) | 0x31, 4 => zd (zb (.ok (.ttQcfg s a)))
  | 0x32, 0 => zd (.ok (.accClr s a b)) | 0x32, 1 => zd (.ok (.accScale s a b)) | 0x32, 2 => zd (.ok (.accDrain s a b))
  | 0x32, 3 => zd (.ok (.accLoad s a b))
  | 0x34, 0 => .ok (.cpy s d a b) | 0x34, 1 => .ok (.cpy2d s d a b) | 0x34, 2 => .ok (.cpyCvt s d a b)
  | 0x34, 3 => .ok (.putSig s d a b) | 0x34, 4 => .ok (.wsLoad s d a b)
  | 0x35, 0 => .ok (.siftCfg s d a b) | 0x35, 1 => .ok (.gath s d a b) | 0x35, 2 => .ok (.scat s d a b)
  | 0x35, 3 => zb (.ok (.siftStat s d a))
  | 0x36, 0 => .ok (.kbind s d a b) | 0x36, 1 => zb (.ok (.ksend s d a)) | 0x36, 2 => .ok (.kdrain s d a b)
  | 0x36, 3 => .ok (.topkCfg s d a b) | 0x36, 4 => .ok (.topkSend s d a b) | 0x36, 5 => .ok (.topkRd s d a b)
  | 0x37, 0 => .ok (.collRed s d a b) | 0x37, 1 => .ok (.collBcast s d a b) | 0x37, 2 => .ok (.tokSend s d a b)
  | 0x37, 3 => zb (.ok (.fabStat s d a))
  | _, _ => .error .opNotListed

/-- Every E major: op in fn[4:0], REL in fn[5] (legal only for CADD and CMAX), scope in fn[8:6], fn[9] zero (R94). -/
def decEngine (maj w : Nat) : Except Reject Instr :=
  mbz (fld w 31 1) <| do
  let s ← scopeOf (fld w 28 3)
  let op := fld w 22 5
  let rel := fld w 27 1 == 1
  if rel = true ∧ ¬(maj = 0x20 ∧ op ≤ 1) then .error .relBit else decEngineOp maj op s rel w

/-- Major 0x26, element arithmetic (R260). -/
def decLane (w : Nat) : Except Reject Instr := do
  let d := regAt w 7; let a := regAt w 12; let b := regAt w 17
  let t ← ltyOf (fld w 26 4)
  let m := mselOf (fld w 30 2)
  match fld w 22 4 with
  | 0 => .ok (.vadd t m d a b) | 1 => .ok (.vsub t m d a b) | 2 => .ok (.vmul t m d a b) | 3 => .ok (.vmin t m d a b)
  | 4 => .ok (.vmax t m d a b) | 5 => mbz (fld w 17 5) (.ok (.vabs t m d a)) | 6 => mbz (fld w 17 5) (.ok (.vneg t m d a))
  | 7 => do let md ← mregAt w 7; .ok (.vcmp t (vcondOf (fld w 30 2)) md a b)
  | 8 => .ok (.vsel t m d a b) | 9 => .ok (.vand t m d a b) | 10 => .ok (.vor t m d a b) | 11 => .ok (.vxor t m d a b)
  | 12 => .ok (.vshl t m d a b) | 13 => .ok (.vshr t m d a b) | 14 => .ok (.vsra t m d a b)
  | _ => .error .opNotListed

/-- Major 0x27, fused multiply-add (R263). -/
def decVfma (w : Nat) : Except Reject Instr := do
  let d := regAt w 7; let a := regAt w 12; let b := regAt w 17; let c := regAt w 22
  let t ← vfmaTyOf (fld w 29 2)
  let m := fld w 31 1 == 1
  match fld w 27 2 with
  | 0 => .ok (.vfma t m d a b c) | 1 => .ok (.vfms t m d a b c) | 2 => .ok (.vfnma t m d a b c)
  | _ => .error .opNotListed

/-- Major 0x28, conversions and packing (R264). -/
def decConvert (w : Nat) : Except Reject Instr := do
  let d := regAt w 7; let a := regAt w 12; let b := regAt w 17
  let t ← tyOf (fld w 25 5)
  let m := mselOf (fld w 30 2)
  match fld w 22 3 with
  | 0 => do let s ← tyOf (fld w 17 5); .ok (.vcvt t s m d a)
  | 1 => .ok (.vpack t m d a b) | 2 => .ok (.vunpack t m d a b) | 3 => .ok (.vquant t m d a b) | 4 => .ok (.vdeq t m d a b)
  | _ => .error .opNotListed

/-- Major 0x29, permutations (R268). -/
def decPermute (w : Nat) : Except Reject Instr :=
  let d := regAt w 7; let a := regAt w 12; let b := regAt w 17
  mbz (fld w 29 3) <| do
  let t ← ltyOf (fld w 25 4)
  match fld w 22 3 with
  | 0 => .ok (.vperm t d a b) | 1 => mbz (fld w 17 5) (.ok (.vbcast t d a)) | 2 => .ok (.vext t d a b)
  | 3 => .ok (.vins t d a b) | 4 => .ok (.vslide t d a b) | 5 => .ok (.vshuf t d a b)
  | _ => .error .opNotListed

/-- Major 0x2A, reductions and scan (R269, R270). -/
def decReduce (w : Nat) : Except Reject Instr :=
  let d := regAt w 7; let a := regAt w 12
  mbz (fld w 30 2 + fld w 17 5) <| do
  let t ← ltyOf (fld w 24 4)
  let m := mselOf (fld w 28 2)
  match fld w 22 2 with
  | 0 => .ok (.vredadd t m d a) | 1 => .ok (.vredmax t m d a) | 2 => .ok (.vredmin t m d a) | _ => .ok (.vscan t m d a)

/-- Major 0x2B, mask instructions (R271). -/
def decMask (w : Nat) : Except Reject Instr :=
  mbz (fld w 25 7) <|
  match fld w 22 3 with
  | 0 => do let d ← mregAt w 7; let a ← mregAt w 12; let b ← mregAt w 17; .ok (.mand d a b)
  | 1 => do let d ← mregAt w 7; let a ← mregAt w 12; let b ← mregAt w 17; .ok (.mor d a b)
  | 2 => mbz (fld w 17 5) (do let d ← mregAt w 7; let a ← mregAt w 12; .ok (.mnot d a))
  | 3 => mbz (fld w 17 5) (do let a ← mregAt w 12; .ok (.mpopc (regAt w 7) a))
  | 4 => mbz (fld w 17 5) (do let a ← mregAt w 12; .ok (.mfirst (regAt w 7) a))
  | 5 => mbz (fld w 17 5) (do let d ← mregAt w 7; .ok (.mset d (regAt w 12)))
  | _ => .error .opNotListed

/-- Major 0x2C, vector immediates (R95, R272). -/
def decVecImm (w : Nat) : Except Reject Instr := do
  let d := regAt w 7; let a := regAt w 12; let i := BitVec.ofNat 9 (w / 2 ^ 17)
  let t ← ltyOf (fld w 26 4)
  match fld w 30 2 with
  | 0 => .ok (.vaddi t d a i) | 1 => .ok (.vshli t d a i) | 2 => mbz (fld w 12 5) (.ok (.vmovi t d i))
  | _ => .error .opNotListed

/-- Major 0x38, traps and control registers (R94, R153 to R155). -/
def decSystem (w : Nat) : Except Reject Instr :=
  let d := regAt w 7; let a := regAt w 12
  let n := BitVec.ofNat 12 (fld w 25 7 * 32 + fld w 17 5)
  match fld w 22 3 with
  | 0 => mbz (fld w 7 10) (.ok (.trap n))
  | 1 => mbz (fld w 7 15 + fld w 25 7) (.ok .eret)
  | 2 => mbz (fld w 12 5) (.ok (.ctlrd d n))
  | 3 => mbz (fld w 7 5) (.ok (.ctlwr a n))
  | 4 => mbz (fld w 7 15 + fld w 25 7) (.ok .halt)
  | _ => .error .opNotListed

/-- Major 0x39, TLBINV and HARVEST (R94, R156, R157). -/
def decTranslate (w : Nat) : Except Reject Instr :=
  let a := regAt w 12; let b := regAt w 17
  mbz (fld w 25 7 + fld w 7 5) <|
  if fld w 22 1 = 1 then mbz (fld w 23 2 + fld w 12 10) (.ok .harvest) else
  match fld w 23 2 with
  | 0 => .ok (.tlbinvPage a b) | 1 => mbz (fld w 12 5) (.ok (.tlbinvCtx b)) | 2 => mbz (fld w 12 10) (.ok .tlbinvAll)
  | _ => .error .reservedExtent

/-- The 32-bit forms by major opcode (R93); the caller has seen bit 0 = 1. -/
def decode32 (w : Nat) : Except Reject Instr :=
  let d := regAt w 7; let a := regAt w 12; let b := regAt w 17
  match fld w 1 6 with
  | 0x01 => decInt w
  | 0x02 => .ok (.addi d a (BitVec.ofNat 15 (w / 2 ^ 17))) | 0x03 => .ok (.andi d a (BitVec.ofNat 15 (w / 2 ^ 17)))
  | 0x04 => .ok (.ori d a (BitVec.ofNat 15 (w / 2 ^ 17))) | 0x05 => .ok (.xori d a (BitVec.ofNat 15 (w / 2 ^ 17)))
  | 0x06 => decShiftImm w
  | 0x07 => .ok (.slti d a (BitVec.ofNat 15 (w / 2 ^ 17)))
  | 0x08 => .ok (.limm d (BitVec.ofNat 20 (w / 2 ^ 12))) | 0x09 => .ok (.limmh d (BitVec.ofNat 20 (w / 2 ^ 12)))
  | 0x0A => decBitPtr w
  | 0x0B => do let x ← widthOf (fld w 17 4); .ok (.bpaddi x d a (BitVec.ofNat 11 (w / 2 ^ 21)))
  | 0x0C => decScalarFp w
  | 0x0D => mbz (fld w 27 3) (do let t ← fmaTyOf (fld w 30 2); .ok (.fma t d a b (regAt w 22)))
  | 0x10 => .ok (.brc (condOf (fld w 17 3)) (regAt w 7) (regAt w 12) (BitVec.ofNat 12 (w / 2 ^ 20)))
  | 0x11 => .ok (.jal d (BitVec.ofNat 20 (w / 2 ^ 12)))
  | 0x12 => mbz (fld w 23 9 + fld w 17 5) <|
    if fld w 22 1 = 0 then mbz (fld w 7 5) (.ok (.jr a)) else .ok (.jalr d a)
  | 0x13 => decLoop w
  | 0x14 => decLoad w
  | 0x15 => decStore w
  | 0x16 => decVecMem w
  | 0x17 => decAcqRel w
  | 0x18 => decTagged w false
  | 0x19 => decTagged w true
  | 0x1A => decTake w
  | 0x1B => decSfu w
  | 0x1C => decAmo w
  | 0x1D => decFence w
  | 0x1E => decEngine 0x1E w | 0x20 => decEngine 0x20 w | 0x21 => decEngine 0x21 w | 0x22 => decEngine 0x22 w
  | 0x23 => decEngine 0x23 w | 0x24 => decEngine 0x24 w | 0x25 => decEngine 0x25 w | 0x2E => decEngine 0x2E w
  | 0x30 => decEngine 0x30 w | 0x31 => decEngine 0x31 w | 0x32 => decEngine 0x32 w | 0x34 => decEngine 0x34 w
  | 0x35 => decEngine 0x35 w | 0x36 => decEngine 0x36 w | 0x37 => decEngine 0x37 w
  | 0x26 => decLane w
  | 0x27 => decVfma w
  | 0x28 => decConvert w
  | 0x29 => decPermute w
  | 0x2A => decReduce w
  | 0x2B => decMask w
  | 0x2C => decVecImm w
  | 0x38 => decSystem w
  | 0x39 => decTranslate w
  | 0x3A => mbz (fld w 22 10 + fld w 17 5 + fld w 7 5) (.ok (.crumbMark a))
  | _ => .error .reservedMajor

/-- Keep only well-formed instructions (R96 step 3). -/
def checkWf (r : Except Reject Instr) : Except Reject Instr :=
  match r with
  | .ok i => if i.wf then .ok i else .error .operandRule
  | .error e => .error e

/-- Decode from a halfword and the one after it: bit 0 of the first tells the length (R86). -/
def decodeHalves (h0 h1 : Nat) : Except Reject (Instr × Nat) :=
  if h0 % 2 = 0 then (checkWf (decode16 h0)).map (·, 16)
  else (checkWf (decode32 (h0 % 65536 + 65536 * h1))).map (·, 32)

/-- A halfword read from two bytes, the byte at the lower address holding bits [7:0] (R28). -/
def halfOf (b0 b1 : Byte) : Nat := b0.toNat + 256 * b1.toNat

/-- Decode the instruction at the head of a list of code bytes: the instruction and the bytes that follow it (R86). -/
def decode : List Byte → Except Reject (Instr × List Byte)
  | b0 :: b1 :: rest =>
    if b0.toNat % 2 = 0 then (decodeHalves (halfOf b0 b1) 0).map fun r => (r.1, rest)
    else match rest with
      | b2 :: b3 :: rest' => (decodeHalves (halfOf b0 b1) (halfOf b2 b3)).map fun r => (r.1, rest')
      | _ => .error .tooShort
  | _ => .error .tooShort

/-- The bytes of the low nbits of w in memory order. -/
def bytesOf (w : Nat) : Nat → List Byte
  | 0 => []
  | n + 1 => BitVec.ofNat 8 w :: bytesOf (w / 256) n

/-- The instruction the decoder reads from a word numbered as the opcode table numbers it; the bits at and above
nbits are 0, up to the longest instruction of 32 bits. -/
def decodeTableWord (nbits w : Nat) : Option Instr :=
  match decode (bytesOf (w % 2 ^ nbits) 4) with
  | .ok (i, _) => some i
  | .error _ => none

/-! The encoder. -/

/-- The code of a width (R90). -/
def Width.code : Width → Nat
  | .w1 => 0 | .w2 => 1 | .w3 => 2 | .w4 => 3 | .w6 => 4 | .w8 => 5 | .w16 => 6 | .w32 => 7 | .w64 => 8

/-- The code of a scope (R91). -/
def Scope.code : Scope → Nat
  | .core => 0 | .quad => 1 | .die => 2 | .pkg => 3 | .pod => 4 | .sys => 5

/-- The code of a type (R92). -/
def Ty.code : Ty → Nat
  | .f32 => 0 | .f40 => 1 | .bf16 => 2 | .f16 => 3 | .e5m2 => 4 | .e4m3 => 5 | .e3m2 => 6 | .e2m3 => 7 | .e2m1 => 8
  | .i3 => 16 | .i4 => 17 | .i8 => 18 | .i16 => 19 | .i32 => 20 | .i64 => 21
  | .n3 => 22 | .n4 => 23 | .n8 => 24 | .n16 => 25 | .n32 => 26 | .n64 => 27 | .q3 => 28 | .q4 => 29 | .q8 => 30

/-- The code of a lane type (R92). -/
def LTy.code : LTy → Nat
  | .f32 => 0 | .bf16 => 1 | .f16 => 2 | .i8 => 4 | .i16 => 5 | .i32 => 6 | .i64 => 7
  | .n8 => 8 | .n16 => 9 | .n32 => 10 | .n64 => 11 | .b8 => 12 | .b16 => 13 | .b32 => 14 | .b64 => 15

/-- The code of an FMA type (R94). -/
def FmaTy.code : FmaTy → Nat
  | .f32 => 0 | .f40 => 1

/-- The code of a type of major 0x27 (R94). -/
def VfmaTy.code : VfmaTy → Nat
  | .f32 => 0 | .bf16 => 1 | .f16 => 2

/-- The code of a branch condition (R142). -/
def Cond.code : Cond → Nat
  | .eq => 0 | .ne => 1 | .lt => 2 | .ge => 3 | .ltn => 4 | .gen => 5 | .bset => 6 | .bclr => 7

/-- The code of a VCMP condition (R94). -/
def VCond.code : VCond → Nat
  | .eq => 0 | .ne => 1 | .lt => 2 | .le => 3

/-- The code of a fence kind (R94). -/
def FenceKind.code : FenceKind → Nat
  | .ll => 0 | .ls => 1 | .sl => 2 | .ss => 3 | .all => 4

/-- The code of MSEL (R94). -/
def MSel.code : MSel → Nat
  | .none => 0 | .m0 => 1 | .m1 => 2 | .m2 => 3

/-- The fields of a word added to its match value, each at its place. -/
def enc (nbits base : Nat) (fs : List (Nat × Nat)) : Option (Nat × Nat) :=
  some (nbits, fs.foldl (fun w f => w + f.1 * 2 ^ f.2) base)

/-- The word of an instruction, with its length in bits; none for an event, which has no encoding. -/
def encodeWord : Instr → Option (Nat × Nat)
  | .add d a b => enc 32 0x00000003 [(d.val, 7), (a.val, 12), (b.val, 17)]
  | .sub d a b => enc 32 0x00400003 [(d.val, 7), (a.val, 12), (b.val, 17)]
  | .mul d a b => enc 32 0x00800003 [(d.val, 7), (a.val, 12), (b.val, 17)]
  | .mulh d a b => enc 32 0x00c00003 [(d.val, 7), (a.val, 12), (b.val, 17)]
  | .mulhn d a b => enc 32 0x01000003 [(d.val, 7), (a.val, 12), (b.val, 17)]
  | .div d a b => enc 32 0x01400003 [(d.val, 7), (a.val, 12), (b.val, 17)]
  | .divn d a b => enc 32 0x01800003 [(d.val, 7), (a.val, 12), (b.val, 17)]
  | .rem d a b => enc 32 0x01c00003 [(d.val, 7), (a.val, 12), (b.val, 17)]
  | .remn d a b => enc 32 0x02000003 [(d.val, 7), (a.val, 12), (b.val, 17)]
  | .and d a b => enc 32 0x02400003 [(d.val, 7), (a.val, 12), (b.val, 17)]
  | .or d a b => enc 32 0x02800003 [(d.val, 7), (a.val, 12), (b.val, 17)]
  | .xor d a b => enc 32 0x02c00003 [(d.val, 7), (a.val, 12), (b.val, 17)]
  | .andn d a b => enc 32 0x03000003 [(d.val, 7), (a.val, 12), (b.val, 17)]
  | .shl d a b => enc 32 0x03400003 [(d.val, 7), (a.val, 12), (b.val, 17)]
  | .shr d a b => enc 32 0x03800003 [(d.val, 7), (a.val, 12), (b.val, 17)]
  | .sra d a b => enc 32 0x03c00003 [(d.val, 7), (a.val, 12), (b.val, 17)]
  | .rol d a b => enc 32 0x04000003 [(d.val, 7), (a.val, 12), (b.val, 17)]
  | .min d a b => enc 32 0x04400003 [(d.val, 7), (a.val, 12), (b.val, 17)]
  | .max d a b => enc 32 0x04800003 [(d.val, 7), (a.val, 12), (b.val, 17)]
  | .minn d a b => enc 32 0x04c00003 [(d.val, 7), (a.val, 12), (b.val, 17)]
  | .maxn d a b => enc 32 0x05000003 [(d.val, 7), (a.val, 12), (b.val, 17)]
  | .slt d a b => enc 32 0x05400003 [(d.val, 7), (a.val, 12), (b.val, 17)]
  | .sltn d a b => enc 32 0x05800003 [(d.val, 7), (a.val, 12), (b.val, 17)]
  | .seq d a b => enc 32 0x05c00003 [(d.val, 7), (a.val, 12), (b.val, 17)]
  | .cmov d a b => enc 32 0x06000003 [(d.val, 7), (a.val, 12), (b.val, 17)]
  | .clz d a => enc 32 0x06400003 [(d.val, 7), (a.val, 12)]
  | .ctz d a => enc 32 0x06800003 [(d.val, 7), (a.val, 12)]
  | .popc d a => enc 32 0x06c00003 [(d.val, 7), (a.val, 12)]
  | .addi d a i => enc 32 0x00000005 [(d.val, 7), (a.val, 12), (i.toNat, 17)]
  | .andi d a i => enc 32 0x00000007 [(d.val, 7), (a.val, 12), (i.toNat, 17)]
  | .ori d a i => enc 32 0x00000009 [(d.val, 7), (a.val, 12), (i.toNat, 17)]
  | .xori d a i => enc 32 0x0000000b [(d.val, 7), (a.val, 12), (i.toNat, 17)]
  | .slti d a i => enc 32 0x0000000f [(d.val, 7), (a.val, 12), (i.toNat, 17)]
  | .shli d a n => enc 32 0x0000000d [(d.val, 7), (a.val, 12), (n.val, 17)]
  | .shri d a n => enc 32 0x0100000d [(d.val, 7), (a.val, 12), (n.val, 17)]
  | .srai d a n => enc 32 0x0200000d [(d.val, 7), (a.val, 12), (n.val, 17)]
  | .roli d a n => enc 32 0x0300000d [(d.val, 7), (a.val, 12), (n.val, 17)]
  | .limm d i => enc 32 0x00000011 [(d.val, 7), (i.toNat, 12)]
  | .limmh d i => enc 32 0x00000013 [(d.val, 7), (i.toNat, 12)]
  | .bpadd w d a b => enc 32 0x00000015 [(w.code, 26), (d.val, 7), (a.val, 12), (b.val, 17)]
  | .bpdiff w d a b => enc 32 0x00400015 [(w.code, 26), (d.val, 7), (a.val, 12), (b.val, 17)]
  | .bcrd d a b => enc 32 0x00800015 [(d.val, 7), (a.val, 12), (b.val, 17)]
  | .brel d a b => enc 32 0x00c00015 [(d.val, 7), (a.val, 12), (b.val, 17)]
  | .bstripe d a b => enc 32 0x01000015 [(d.val, 7), (a.val, 12), (b.val, 17)]
  | .b2byte d a => enc 32 0x01400015 [(d.val, 7), (a.val, 12)]
  | .byte2b d a => enc 32 0x01800015 [(d.val, 7), (a.val, 12)]
  | .bwin s d a => enc 32 0x01c00015 [(s.val, 17), (d.val, 7), (a.val, 12)]
  | .balign w d a => enc 32 0x02000015 [(w.code, 26), (d.val, 7), (a.val, 12)]
  | .bpaddi w d a i => enc 32 0x00000017 [(w.code, 17), (d.val, 7), (a.val, 12), (i.toNat, 21)]
  | .fadd t d a b => enc 32 0x00000019 [(t.code, 26), (d.val, 7), (a.val, 12), (b.val, 17)]
  | .fsub t d a b => enc 32 0x00400019 [(t.code, 26), (d.val, 7), (a.val, 12), (b.val, 17)]
  | .fmul t d a b => enc 32 0x00800019 [(t.code, 26), (d.val, 7), (a.val, 12), (b.val, 17)]
  | .fdiv t d a b => enc 32 0x00c00019 [(t.code, 26), (d.val, 7), (a.val, 12), (b.val, 17)]
  | .fsqrt t d a => enc 32 0x01000019 [(t.code, 26), (d.val, 7), (a.val, 12)]
  | .fmin t d a b => enc 32 0x01400019 [(t.code, 26), (d.val, 7), (a.val, 12), (b.val, 17)]
  | .fmax t d a b => enc 32 0x01800019 [(t.code, 26), (d.val, 7), (a.val, 12), (b.val, 17)]
  | .fcmpeq t d a b => enc 32 0x01c00019 [(t.code, 26), (d.val, 7), (a.val, 12), (b.val, 17)]
  | .fcmplt t d a b => enc 32 0x02000019 [(t.code, 26), (d.val, 7), (a.val, 12), (b.val, 17)]
  | .fcmple t d a b => enc 32 0x02400019 [(t.code, 26), (d.val, 7), (a.val, 12), (b.val, 17)]
  | .fcvt t s d a => enc 32 0x02800019 [(t.code, 26), (s.code, 17), (d.val, 7), (a.val, 12)]
  | .fclass t d a => enc 32 0x02c00019 [(t.code, 26), (d.val, 7), (a.val, 12)]
  | .fma t d a b c => enc 32 0x0000001b [(t.code, 30), (d.val, 7), (a.val, 12), (b.val, 17), (c.val, 22)]
  | .brc c a b o => enc 32 0x00000021 [(c.code, 17), (a.val, 7), (b.val, 12), (o.toNat, 20)]
  | .jal d o => enc 32 0x00000023 [(d.val, 7), (o.toNat, 12)]
  | .jr a => enc 32 0x00000025 [(a.val, 12)]
  | .jalr d a => enc 32 0x00400025 [(d.val, 7), (a.val, 12)]
  | .loop c o => enc 32 0x00000027 [(c.val, 7), (o.toNat, 17)]
  | .loops o => enc 32 0x80000027 [(o.toNat, 17)]
  | .ld w x d a o => enc 32 0x00000029 [(w.code, 17), (x.toNat, 21), (d.val, 7), (a.val, 12), (o.toNat, 22)]
  | .st w d a o => enc 32 0x0000002b [(w.code, 17), (d.val, 7), (a.val, 12), (o.toNat, 22)]
  | .ldv w d a o => enc 32 0x0000002d [(w.code, 17), (d.val, 7), (a.val, 12), (o.toNat, 23)]
  | .stv w d a o => enc 32 0x0020002d [(w.code, 17), (d.val, 7), (a.val, 12), (o.toNat, 23)]
  | .ldvx w d a i => enc 32 0x0040002d [(w.code, 17), (d.val, 7), (a.val, 12), (i.val, 23)]
  | .stvx w d a i => enc 32 0x0060002d [(w.code, 17), (d.val, 7), (a.val, 12), (i.val, 23)]
  | .ldAcq w x s d a o => enc 32 0x0000002f [(w.code, 17), (x.toNat, 21), (s.code, 23), (d.val, 7), (a.val, 12), (o.toNat, 26)]
  | .stRel w s d a o => enc 32 0x0040002f [(w.code, 17), (s.code, 23), (d.val, 7), (a.val, 12), (o.toNat, 26)]
  | .ldt w x t a i => enc 32 0x00000031 [(w.code, 23), (x.toNat, 27), (t.val, 17), (a.val, 12), (i.val, 7)]
  | .ldtv w t a i => enc 32 0x00000033 [(w.code, 23), (t.val, 17), (a.val, 12), (i.val, 7)]
  | .take d a => enc 32 0x00000035 [(d.val, 7), (a.val, 12)]
  | .takem d a b => enc 32 0x00400035 [(d.val, 7), (a.val, 12), (b.val, 17)]
  | .taket d a b => enc 32 0x00800035 [(d.val, 7), (a.val, 12), (b.val, 17)]
  | .lsq d a => enc 32 0x00c00035 [(d.val, 7), (a.val, 12)]
  | .lsreissue a => enc 32 0x01000035 [(a.val, 12)]
  | .lsclr a => enc 32 0x01400035 [(a.val, 12)]
  | .lswait a => enc 32 0x01800035 [(a.val, 12)]
  | .sfuExp2 t a => enc 32 0x03800037 [(t.val, 17), (a.val, 12)]
  | .sfuLog2 t a => enc 32 0x0b800037 [(t.val, 17), (a.val, 12)]
  | .sfuRcp t a => enc 32 0x13800037 [(t.val, 17), (a.val, 12)]
  | .sfuRsq t a => enc 32 0x1b800037 [(t.val, 17), (a.val, 12)]
  | .sfuSin t a => enc 32 0x23800037 [(t.val, 17), (a.val, 12)]
  | .sfuCos t a => enc 32 0x2b800037 [(t.val, 17), (a.val, 12)]
  | .sfuTanh t a => enc 32 0x33800037 [(t.val, 17), (a.val, 12)]
  | .sfuErf t a => enc 32 0x3b800037 [(t.val, 17), (a.val, 12)]
  | .amoAdd y w d a b => enc 32 0x00000039 [(y.toNat, 31), (w.code, 27), (d.val, 7), (a.val, 12), (b.val, 17)]
  | .amoAnd y w d a b => enc 32 0x00400039 [(y.toNat, 31), (w.code, 27), (d.val, 7), (a.val, 12), (b.val, 17)]
  | .amoOr y w d a b => enc 32 0x00800039 [(y.toNat, 31), (w.code, 27), (d.val, 7), (a.val, 12), (b.val, 17)]
  | .amoXor y w d a b => enc 32 0x00c00039 [(y.toNat, 31), (w.code, 27), (d.val, 7), (a.val, 12), (b.val, 17)]
  | .amoMin y w d a b => enc 32 0x01000039 [(y.toNat, 31), (w.code, 27), (d.val, 7), (a.val, 12), (b.val, 17)]
  | .amoMax y w d a b => enc 32 0x01400039 [(y.toNat, 31), (w.code, 27), (d.val, 7), (a.val, 12), (b.val, 17)]
  | .amoMinn y w d a b => enc 32 0x01800039 [(y.toNat, 31), (w.code, 27), (d.val, 7), (a.val, 12), (b.val, 17)]
  | .amoMaxn y w d a b => enc 32 0x01c00039 [(y.toNat, 31), (w.code, 27), (d.val, 7), (a.val, 12), (b.val, 17)]
  | .amoSwap y w d a b => enc 32 0x02000039 [(y.toNat, 31), (w.code, 27), (d.val, 7), (a.val, 12), (b.val, 17)]
  | .amoCas y w d a b => enc 32 0x02400039 [(y.toNat, 31), (w.code, 27), (d.val, 7), (a.val, 12), (b.val, 17)]
  | .amoFadd y d a b => enc 32 0x3a800039 [(y.toNat, 31), (d.val, 7), (a.val, 12), (b.val, 17)]
  | .redAdd y w a b => enc 32 0x02c00039 [(y.toNat, 31), (w.code, 27), (a.val, 12), (b.val, 17)]
  | .redAnd y w a b => enc 32 0x03000039 [(y.toNat, 31), (w.code, 27), (a.val, 12), (b.val, 17)]
  | .redOr y w a b => enc 32 0x03400039 [(y.toNat, 31), (w.code, 27), (a.val, 12), (b.val, 17)]
  | .redXor y w a b => enc 32 0x03800039 [(y.toNat, 31), (w.code, 27), (a.val, 12), (b.val, 17)]
  | .redMin y w a b => enc 32 0x03c00039 [(y.toNat, 31), (w.code, 27), (a.val, 12), (b.val, 17)]
  | .redMax y w a b => enc 32 0x04000039 [(y.toNat, 31), (w.code, 27), (a.val, 12), (b.val, 17)]
  | .redMinn y w a b => enc 32 0x04400039 [(y.toNat, 31), (w.code, 27), (a.val, 12), (b.val, 17)]
  | .redMaxn y w a b => enc 32 0x04800039 [(y.toNat, 31), (w.code, 27), (a.val, 12), (b.val, 17)]
  | .redFadd y a b => enc 32 0x3cc00039 [(y.toNat, 31), (a.val, 12), (b.val, 17)]
  | .redFmax y a b => enc 32 0x3d000039 [(y.toNat, 31), (a.val, 12), (b.val, 17)]
  | .fence k s => enc 32 0x0000003b [(k.code, 24), (s.code, 27)]
  | .enq s d a b => enc 32 0x0000003d [(s.code, 28), (d.val, 7), (a.val, 12), (b.val, 17)]
  | .deq s d a b => enc 32 0x0040003d [(s.code, 28), (d.val, 7), (a.val, 12), (b.val, 17)]
  | .ringstat s d a => enc 32 0x0080003d [(s.code, 28), (d.val, 7), (a.val, 12)]
  | .cadd r s a b => enc 32 0x00000041 [(r.toNat, 27), (s.code, 28), (a.val, 12), (b.val, 17)]
  | .cmax r s a b => enc 32 0x00400041 [(r.toNat, 27), (s.code, 28), (a.val, 12), (b.val, 17)]
  | .cwait s d a b => enc 32 0x00800041 [(s.code, 28), (d.val, 7), (a.val, 12), (b.val, 17)]
  | .cwaitt s d a b => enc 32 0x00c00041 [(s.code, 28), (d.val, 7), (a.val, 12), (b.val, 17)]
  | .carm s d a b => enc 32 0x01000041 [(s.code, 28), (d.val, 7), (a.val, 12), (b.val, 17)]
  | .msg s d a b => enc 32 0x00000043 [(s.code, 28), (d.val, 7), (a.val, 12), (b.val, 17)]
  | .msgc s d a b => enc 32 0x00400043 [(s.code, 28), (d.val, 7), (a.val, 12), (b.val, 17)]
  | .spawn s a b => enc 32 0x00800043 [(s.code, 28), (a.val, 12), (b.val, 17)]
  | .recv s => enc 32 0x00c00043 [(s.code, 28)]
  | .endAct s => enc 32 0x01000043 [(s.code, 28)]
  | .yield s a => enc 32 0x01400043 [(s.code, 28), (a.val, 12)]
  | .rankmap s d a b => enc 32 0x01800043 [(s.code, 28), (d.val, 7), (a.val, 12), (b.val, 17)]
  | .dqpush s d a => enc 32 0x00000045 [(s.code, 28), (d.val, 7), (a.val, 12)]
  | .dqpop s d a => enc 32 0x00400045 [(s.code, 28), (d.val, 7), (a.val, 12)]
  | .dqcount s d => enc 32 0x00800045 [(s.code, 28), (d.val, 7)]
  | .barCfg s d a b => enc 32 0x00000047 [(s.code, 28), (d.val, 7), (a.val, 12), (b.val, 17)]
  | .barArr s d b => enc 32 0x00400047 [(s.code, 28), (d.val, 7), (b.val, 17)]
  | .barWait s d a b => enc 32 0x00800047 [(s.code, 28), (d.val, 7), (a.val, 12), (b.val, 17)]
  | .barStat s d a b => enc 32 0x00c00047 [(s.code, 28), (d.val, 7), (a.val, 12), (b.val, 17)]
  | .capnew s d a b => enc 32 0x00000049 [(s.code, 28), (d.val, 7), (a.val, 12), (b.val, 17)]
  | .capfwd s d a => enc 32 0x00400049 [(s.code, 28), (d.val, 7), (a.val, 12)]
  | .capend s a => enc 32 0x00800049 [(s.code, 28), (a.val, 12)]
  | .caprd s d a b => enc 32 0x00c00049 [(s.code, 28), (d.val, 7), (a.val, 12), (b.val, 17)]
  | .capins s d a b => enc 32 0x0000004b [(s.code, 28), (d.val, 7), (a.val, 12), (b.val, 17)]
  | .capdel s d a => enc 32 0x0040004b [(s.code, 28), (d.val, 7), (a.val, 12)]
  | .capset s d a b => enc 32 0x0080004b [(s.code, 28), (d.val, 7), (a.val, 12), (b.val, 17)]
  | .vadd t m d a b => enc 32 0x0000004d [(t.code, 26), (m.code, 30), (d.val, 7), (a.val, 12), (b.val, 17)]
  | .vsub t m d a b => enc 32 0x0040004d [(t.code, 26), (m.code, 30), (d.val, 7), (a.val, 12), (b.val, 17)]
  | .vmul t m d a b => enc 32 0x0080004d [(t.code, 26), (m.code, 30), (d.val, 7), (a.val, 12), (b.val, 17)]
  | .vmin t m d a b => enc 32 0x00c0004d [(t.code, 26), (m.code, 30), (d.val, 7), (a.val, 12), (b.val, 17)]
  | .vmax t m d a b => enc 32 0x0100004d [(t.code, 26), (m.code, 30), (d.val, 7), (a.val, 12), (b.val, 17)]
  | .vabs t m d a => enc 32 0x0140004d [(t.code, 26), (m.code, 30), (d.val, 7), (a.val, 12)]
  | .vneg t m d a => enc 32 0x0180004d [(t.code, 26), (m.code, 30), (d.val, 7), (a.val, 12)]
  | .vcmp t c d a b => enc 32 0x01c0004d [(t.code, 26), (c.code, 30), (d.val, 7), (a.val, 12), (b.val, 17)]
  | .vsel t m d a b => enc 32 0x0200004d [(t.code, 26), (m.code, 30), (d.val, 7), (a.val, 12), (b.val, 17)]
  | .vand t m d a b => enc 32 0x0240004d [(t.code, 26), (m.code, 30), (d.val, 7), (a.val, 12), (b.val, 17)]
  | .vor t m d a b => enc 32 0x0280004d [(t.code, 26), (m.code, 30), (d.val, 7), (a.val, 12), (b.val, 17)]
  | .vxor t m d a b => enc 32 0x02c0004d [(t.code, 26), (m.code, 30), (d.val, 7), (a.val, 12), (b.val, 17)]
  | .vshl t m d a b => enc 32 0x0300004d [(t.code, 26), (m.code, 30), (d.val, 7), (a.val, 12), (b.val, 17)]
  | .vshr t m d a b => enc 32 0x0340004d [(t.code, 26), (m.code, 30), (d.val, 7), (a.val, 12), (b.val, 17)]
  | .vsra t m d a b => enc 32 0x0380004d [(t.code, 26), (m.code, 30), (d.val, 7), (a.val, 12), (b.val, 17)]
  | .vaddF32Q m d b => enc 16 0x0000 [(m.toNat, 15), (d.val, 5), (b.val, 10)]
  | .vsubF32Q m d b => enc 16 0x0002 [(m.toNat, 15), (d.val, 5), (b.val, 10)]
  | .vmulF32Q m d b => enc 16 0x0004 [(m.toNat, 15), (d.val, 5), (b.val, 10)]
  | .vmaxF32Q m d b => enc 16 0x0006 [(m.toNat, 15), (d.val, 5), (b.val, 10)]
  | .vminF32Q m d b => enc 16 0x0008 [(m.toNat, 15), (d.val, 5), (b.val, 10)]
  | .vaddI32Q m d b => enc 16 0x000a [(m.toNat, 15), (d.val, 5), (b.val, 10)]
  | .vsubI32Q m d b => enc 16 0x000c [(m.toNat, 15), (d.val, 5), (b.val, 10)]
  | .vmulI32Q m d b => enc 16 0x000e [(m.toNat, 15), (d.val, 5), (b.val, 10)]
  | .vandB32Q m d b => enc 16 0x0010 [(m.toNat, 15), (d.val, 5), (b.val, 10)]
  | .vorB32Q m d b => enc 16 0x0012 [(m.toNat, 15), (d.val, 5), (b.val, 10)]
  | .vxorB32Q m d b => enc 16 0x0014 [(m.toNat, 15), (d.val, 5), (b.val, 10)]
  | .vshlI32Q m d b => enc 16 0x0016 [(m.toNat, 15), (d.val, 5), (b.val, 10)]
  | .vsraI32Q m d b => enc 16 0x0018 [(m.toNat, 15), (d.val, 5), (b.val, 10)]
  | .vmovQ m d b => enc 16 0x001a [(m.toNat, 15), (d.val, 5), (b.val, 10)]
  | .vnegF32Q m d b => enc 16 0x001c [(m.toNat, 15), (d.val, 5), (b.val, 10)]
  | .vabsF32Q m d b => enc 16 0x001e [(m.toNat, 15), (d.val, 5), (b.val, 10)]
  | .vfma t m d a b c => enc 32 0x0000004f [(t.code, 29), (m.toNat, 31), (d.val, 7), (a.val, 12), (b.val, 17), (c.val, 22)]
  | .vfms t m d a b c => enc 32 0x0800004f [(t.code, 29), (m.toNat, 31), (d.val, 7), (a.val, 12), (b.val, 17), (c.val, 22)]
  | .vfnma t m d a b c => enc 32 0x1000004f [(t.code, 29), (m.toNat, 31), (d.val, 7), (a.val, 12), (b.val, 17), (c.val, 22)]
  | .vcvt t s m d a => enc 32 0x00000051 [(t.code, 25), (s.code, 17), (m.code, 30), (d.val, 7), (a.val, 12)]
  | .vpack t m d a b => enc 32 0x00400051 [(t.code, 25), (m.code, 30), (d.val, 7), (a.val, 12), (b.val, 17)]
  | .vunpack t m d a b => enc 32 0x00800051 [(t.code, 25), (m.code, 30), (d.val, 7), (a.val, 12), (b.val, 17)]
  | .vquant t m d a b => enc 32 0x00c00051 [(t.code, 25), (m.code, 30), (d.val, 7), (a.val, 12), (b.val, 17)]
  | .vdeq t m d a b => enc 32 0x01000051 [(t.code, 25), (m.code, 30), (d.val, 7), (a.val, 12), (b.val, 17)]
  | .vperm t d a b => enc 32 0x00000053 [(t.code, 25), (d.val, 7), (a.val, 12), (b.val, 17)]
  | .vbcast t d a => enc 32 0x00400053 [(t.code, 25), (d.val, 7), (a.val, 12)]
  | .vext t d a b => enc 32 0x00800053 [(t.code, 25), (d.val, 7), (a.val, 12), (b.val, 17)]
  | .vins t d a b => enc 32 0x00c00053 [(t.code, 25), (d.val, 7), (a.val, 12), (b.val, 17)]
  | .vslide t d a b => enc 32 0x01000053 [(t.code, 25), (d.val, 7), (a.val, 12), (b.val, 17)]
  | .vshuf t d a b => enc 32 0x01400053 [(t.code, 25), (d.val, 7), (a.val, 12), (b.val, 17)]
  | .vredadd t m d a => enc 32 0x00000055 [(t.code, 24), (m.code, 28), (d.val, 7), (a.val, 12)]
  | .vredmax t m d a => enc 32 0x00400055 [(t.code, 24), (m.code, 28), (d.val, 7), (a.val, 12)]
  | .vredmin t m d a => enc 32 0x00800055 [(t.code, 24), (m.code, 28), (d.val, 7), (a.val, 12)]
  | .vscan t m d a => enc 32 0x00c00055 [(t.code, 24), (m.code, 28), (d.val, 7), (a.val, 12)]
  | .mand d a b => enc 32 0x00000057 [(d.val, 7), (a.val, 12), (b.val, 17)]
  | .mor d a b => enc 32 0x00400057 [(d.val, 7), (a.val, 12), (b.val, 17)]
  | .mnot d a => enc 32 0x00800057 [(d.val, 7), (a.val, 12)]
  | .mpopc d a => enc 32 0x00c00057 [(d.val, 7), (a.val, 12)]
  | .mfirst d a => enc 32 0x01000057 [(d.val, 7), (a.val, 12)]
  | .mset d a => enc 32 0x01400057 [(d.val, 7), (a.val, 12)]
  | .vaddi t d a i => enc 32 0x00000059 [(t.code, 26), (d.val, 7), (a.val, 12), (i.toNat, 17)]
  | .vshli t d a i => enc 32 0x40000059 [(t.code, 26), (d.val, 7), (a.val, 12), (i.toNat, 17)]
  | .vmovi t d i => enc 32 0x80000059 [(t.code, 26), (d.val, 7), (i.toNat, 17)]
  | .strmCfg s d a => enc 32 0x0000005d [(s.code, 28), (d.val, 7), (a.val, 12)]
  | .strmEnd s d => enc 32 0x0040005d [(s.code, 28), (d.val, 7)]
  | .strmPos s d a => enc 32 0x0080005d [(s.code, 28), (d.val, 7), (a.val, 12)]
  | .opclaim s d a => enc 32 0x00000061 [(s.code, 28), (d.val, 7), (a.val, 12)]
  | .oprel s a => enc 32 0x00400061 [(s.code, 28), (a.val, 12)]
  | .opload s a b => enc 32 0x00800061 [(s.code, 28), (a.val, 12), (b.val, 17)]
  | .opstat s d a => enc 32 0x00c00061 [(s.code, 28), (d.val, 7), (a.val, 12)]
  | .ttEnq s d a => enc 32 0x00000063 [(s.code, 28), (d.val, 7), (a.val, 12)]
  | .ttGrp s d a => enc 32 0x00400063 [(s.code, 28), (d.val, 7), (a.val, 12)]
  | .ttPair s d a => enc 32 0x00800063 [(s.code, 28), (d.val, 7), (a.val, 12)]
  | .ttAppend s d a b => enc 32 0x00c00063 [(s.code, 28), (d.val, 7), (a.val, 12), (b.val, 17)]
  | .ttQcfg s a => enc 32 0x01000063 [(s.code, 28), (a.val, 12)]
  | .accClr s a b => enc 32 0x00000065 [(s.code, 28), (a.val, 12), (b.val, 17)]
  | .accScale s a b => enc 32 0x00400065 [(s.code, 28), (a.val, 12), (b.val, 17)]
  | .accDrain s a b => enc 32 0x00800065 [(s.code, 28), (a.val, 12), (b.val, 17)]
  | .accLoad s a b => enc 32 0x00c00065 [(s.code, 28), (a.val, 12), (b.val, 17)]
  | .cpy s d a b => enc 32 0x00000069 [(s.code, 28), (d.val, 7), (a.val, 12), (b.val, 17)]
  | .cpy2d s d a b => enc 32 0x00400069 [(s.code, 28), (d.val, 7), (a.val, 12), (b.val, 17)]
  | .cpyCvt s d a b => enc 32 0x00800069 [(s.code, 28), (d.val, 7), (a.val, 12), (b.val, 17)]
  | .putSig s d a b => enc 32 0x00c00069 [(s.code, 28), (d.val, 7), (a.val, 12), (b.val, 17)]
  | .wsLoad s d a b => enc 32 0x01000069 [(s.code, 28), (d.val, 7), (a.val, 12), (b.val, 17)]
  | .siftCfg s d a b => enc 32 0x0000006b [(s.code, 28), (d.val, 7), (a.val, 12), (b.val, 17)]
  | .gath s d a b => enc 32 0x0040006b [(s.code, 28), (d.val, 7), (a.val, 12), (b.val, 17)]
  | .scat s d a b => enc 32 0x0080006b [(s.code, 28), (d.val, 7), (a.val, 12), (b.val, 17)]
  | .siftStat s d a => enc 32 0x00c0006b [(s.code, 28), (d.val, 7), (a.val, 12)]
  | .kbind s d a b => enc 32 0x0000006d [(s.code, 28), (d.val, 7), (a.val, 12), (b.val, 17)]
  | .ksend s d a => enc 32 0x0040006d [(s.code, 28), (d.val, 7), (a.val, 12)]
  | .kdrain s d a b => enc 32 0x0080006d [(s.code, 28), (d.val, 7), (a.val, 12), (b.val, 17)]
  | .topkCfg s d a b => enc 32 0x00c0006d [(s.code, 28), (d.val, 7), (a.val, 12), (b.val, 17)]
  | .topkSend s d a b => enc 32 0x0100006d [(s.code, 28), (d.val, 7), (a.val, 12), (b.val, 17)]
  | .topkRd s d a b => enc 32 0x0140006d [(s.code, 28), (d.val, 7), (a.val, 12), (b.val, 17)]
  | .collRed s d a b => enc 32 0x0000006f [(s.code, 28), (d.val, 7), (a.val, 12), (b.val, 17)]
  | .collBcast s d a b => enc 32 0x0040006f [(s.code, 28), (d.val, 7), (a.val, 12), (b.val, 17)]
  | .tokSend s d a b => enc 32 0x0080006f [(s.code, 28), (d.val, 7), (a.val, 12), (b.val, 17)]
  | .fabStat s d a => enc 32 0x00c0006f [(s.code, 28), (d.val, 7), (a.val, 12)]
  | .trap c => enc 32 0x00000071 [(c.toNat / 32, 25), (c.toNat % 32, 17)]
  | .ctlrd d n => enc 32 0x00800071 [(d.val, 7), (n.toNat / 32, 25), (n.toNat % 32, 17)]
  | .ctlwr a n => enc 32 0x00c00071 [(a.val, 12), (n.toNat / 32, 25), (n.toNat % 32, 17)]
  | .tlbinvPage a b => enc 32 0x00000073 [(a.val, 12), (b.val, 17)]
  | .tlbinvCtx b => enc 32 0x00800073 [(b.val, 17)]
  | .crumbMark a => enc 32 0x00000075 [(a.val, 12)]
  | .fenceI => enc 32 0x0040003b []
  | .commit => enc 32 0x0080003b []
  | .eret => enc 32 0x00400071 []
  | .halt => enc 32 0x01000071 []
  | .tlbinvAll => enc 32 0x01000073 []
  | .harvest => enc 32 0x00400073 []
  | .dispatch | .messageArrival | .spillReinject | .drain | .deliver | .perform
  | .answer | .postedWriteFlush | .bankReplayRetry | .bankhashRewrite | .escapeChannelEntry | .leaseGrant
  | .leaseRecall | .leaseIdleReturn | .pageWalkComplete | .tlbinvComplete | .faultRewalk | .harvestComplete
  | .dirtyLogMerge | .rankmapComplete | .sfuResult | .yieldExpiry | .cwaittTimeout | .barrierPhaseComplete
  | .inheritanceNotice | .stealRequest | .stealVictimReply | .stealBackoffExpiry | .launchRingRegister | .tailNotice
  | .launchRingPoll | .launchExpansion | .contextSwitch | .haltConfirm | .contextSaveComplete | .contextRestore
  | .tileTaskIssue | .tileTaskComplete | .pairCommit | .pairTimeout | .groupStart | .groupFinish
  | .matrixCommandStart | .matrixCommandComplete | .copyCommandStart | .copyChunk | .copyCommandComplete | .engineFaultStop
  | .wsBankRefresh | .wsPhaseChange | .sifterCommandComplete | .keyedBatch | .topkScore | .topkCfgComplete
  | .capsuleArrival | .capsuleSpillLanding | .cellArrival | .reductionCellCombine | .tokenRowArrival | .portDown
  | .cellLost | .replayRingRead | .replayDeparture | .hostWrite | .hostRead | .detset
  | .wsReadPhaseRequest | .wsWritePhaseRequest | .censusFreeze | .censusThaw | .park | .ckpt
  | .checkpointComplete | .cdataRead | .cdataWrite | .configRegisterWrite | .powerUpBoot | .attestationQuote
  | .illegalWord | .routerCommandComplete | .linkRetrain | .poweredHour | .supplyDroopEvent => none

/-- The bytes of an instruction in memory order; empty for an event. -/
def encode (i : Instr) : List Byte :=
  match encodeWord i with
  | some (n, w) => bytesOf w (n / 8)
  | none => []

end Sys2Proof
end

