-- ==== Sys2Proof/Machine/Operands.lean ====
section
/-! DEFINITION. Operand forms: results of scalar instructions, shift amounts and division (R127 to R129), effective addresses
(R146, R150), vector elements and masks (R248, R249), and the word of an instruction that traps ILL (R96). -/

namespace Sys2Proof.Machine

/-- Write a scalar result and retire a 32-bit instruction (R127). -/
def State.setReg (s : State) (d : Reg) (v : Word) : Out := .next ((s.wr d v).retire 32)

/-- Truth as a word. -/
def boolWord (b : Bool) : Word := if b then 1 else 0

/-- A shift amount: bits [5:0]; the rest is ignored (R128). -/
def amount (b : Word) : Nat := b.toNat % 64

/-- Leading zeros of a word; 64 for 0 (R128). -/
def leadingZeros (a : Word) : Nat := if a = 0 then 64 else 63 - a.toNat.log2

/-- DIV (R129). -/
def divSigned (a b : Word) : Word :=
  if b = 0 then BitVec.allOnes 64 else BitVec.ofInt 64 (a.toInt.tdiv b.toInt)

/-- REM (R129). -/
def remSigned (a b : Word) : Word := if b = 0 then a else BitVec.ofInt 64 (a.toInt.tmod b.toInt)

/-- DIVN (R129). -/
def divUnsigned (a b : Word) : Word := if b = 0 then BitVec.allOnes 64 else ofN (a.toNat / b.toNat)

/-- REMN (R129). -/
def remUnsigned (a b : Word) : Word := if b = 0 then a else ofN (a.toNat % b.toNat)

/-- A base register with an offset in units of n bits (R146, R150, R194). -/
def State.ea (s : State) (base : Reg) {k : Nat} (off : BitVec k) (n : Nat) : Word := s.rd base + sextI off * ofN n

/-- The word of an instruction, zero-extended: what tval holds for an ILL trap (R96, R108). -/
def illWord (i : Instr) : Word :=
  match encodeWord i with
  | some (_, w) => ofN w
  | none => 0

/-- ILL raised by an instruction's own checks (R96). -/
def State.ill (s : State) (i : Instr) : Out := .next (s.trap cILL (illWord i))

/-- A vector register bound to a stream: v24 to v31 (R250, R252). -/
def State.boundStream (s : State) (r : Reg) : Option Stream := if r.val < 24 then none else (s.me.streams.getD (r.val - 24) none)

/-- Whether a vector register is bound to a stream. -/
def State.isBound (s : State) (r : Reg) : Bool := (s.boundStream r).isSome

/-- STREAM with tval = the register number (R151, R257). -/
def State.streamTrap (s : State) (r : Reg) : Out := .next (s.trap cSTREAM (ofN r.val))

end Sys2Proof.Machine
end

