-- ==== Sys2Proof/Machine/Atomics.lean ====
section
/-! DEFINITION. Atomics, fences and rings on the strand side: majors 0x1C to 0x1E (R195 to R203). -/

namespace Sys2Proof.Machine

/-! ## Atomics -/

/-- Whether an atomic of w bits is natural or packed within one granule (R40). -/
def atomicAligned (ea : Word) (w : Nat) : Bool := decide (ea.toNat % 64 + w ≤ 64)

/-- Whether an atomic crosses the 8-bit granules of a host page without SA and is not natural (R39, R40). -/
def hostSplit (ea : Word) (w : Nat) (l : Loc) : Bool :=
  isHost l.phys && !l.sa && !(w ≥ 8 && ea.toNat % w == 0) && decide (ea.toNat % 8 + w > 8)

/-- Whether an atomic's page, where it is mapped, is a host page whose granules the atomic splits: its ALIGN comes before every check of the
page (R40, R195). -/
def State.splits (s : State) (ea : Word) (w : Nat) : Bool :=
  if wbit ea 63 || decide (ea.toNat ≥ 2 ^ 57) then false else
  let split := fun (level : Nat) (pte : Word) => hostSplit ea w ⟨leafPhys s.pkg level (ea.toNat / 64 * 64) pte, wbit pte 58, none⟩
  match s.tlbLookup s.ci false ea.toNat with
  | some (e, _) => split e.level e.pte
  | none =>
    match s.walked.find? fun x => !x.fetch && x.page == ea.toNat / 2 ^ 19 with
    | some ⟨_, _, .leaf level pte _⟩ => split level pte
    | _ => false

/-- The shared effect of an atomic (R195): the checks in order, the commit, and the request. -/
def State.atomic (s : State) (op : AmoOp) (sys : Bool) (w : Nat) (a b : Reg) (c : Word) (detTraps : Bool) (dest : Dest) : Out :=
  let ea := s.rd a
  if !atomicAligned ea w || s.splits ea w then .next (s.trap cALIGN ea) else
  State.checkedAt (s.resolve s.ci s.user (.atomic sys) ea w) fun ls s =>
    match ls with
    | l :: _ =>
      if detTraps && wbit s.myCore.det 0 then .next (s.trap cDET ea)
      else
        let req : ReqOp := .amo op (ea.toNat % 64) w (zextW w (s.rd b).toNat) (zextW w c.toNat) (s.fpEnv s.ci)
        let acc := { (mkOpAccess ea l.phys l.sa req dest).covering (coverOf l.phys l.sa (ea.toNat % 64) w) with sysAcq := sys }
        s.atCommit [(l.phys, ofN (ea.toNat / 64 * 64))] fun s => (s.issue acc).retire 32
    | [] => .next s

/-- An AMO: d receives the old value, zero-extended (R195). -/
def State.amo (s : State) (op : AmoOp) (sys : Bool) (w : Nat) (d a b : Reg) (detTraps : Bool) : Out :=
  s.atomic op sys w a b (s.rd d) detTraps (.amo d ((s.rd a).toNat % 64) w)

/-- A RED: acknowledged only (R195). -/
def State.red (s : State) (op : AmoOp) (sys : Bool) (w : Nat) (a b : Reg) : Out := s.atomic op sys w a b 0 false .ack

/-- AMO.ADD (R196). -/
def execAmoAdd (y : Bool) (w : Width) (d a b : Reg) (s : State) : Out := s.amo .add y w.bits d a b true
/-- AMO.AND (R196). -/
def execAmoAnd (y : Bool) (w : Width) (d a b : Reg) (s : State) : Out := s.amo .and y w.bits d a b true
/-- AMO.OR (R196). -/
def execAmoOr (y : Bool) (w : Width) (d a b : Reg) (s : State) : Out := s.amo .or y w.bits d a b true
/-- AMO.XOR (R196). -/
def execAmoXor (y : Bool) (w : Width) (d a b : Reg) (s : State) : Out := s.amo .xor y w.bits d a b true
/-- AMO.MIN (R196). -/
def execAmoMin (y : Bool) (w : Width) (d a b : Reg) (s : State) : Out := s.amo .min y w.bits d a b true
/-- AMO.MAX (R196). -/
def execAmoMax (y : Bool) (w : Width) (d a b : Reg) (s : State) : Out := s.amo .max y w.bits d a b true
/-- AMO.MINN (R196). -/
def execAmoMinn (y : Bool) (w : Width) (d a b : Reg) (s : State) : Out := s.amo .minn y w.bits d a b true
/-- AMO.MAXN (R196). -/
def execAmoMaxn (y : Bool) (w : Width) (d a b : Reg) (s : State) : Out := s.amo .maxn y w.bits d a b true
/-- AMO.SWAP (R196). -/
def execAmoSwap (y : Bool) (w : Width) (d a b : Reg) (s : State) : Out := s.amo .swap y w.bits d a b true
/-- AMO.CAS (R196). -/
def execAmoCas (y : Bool) (w : Width) (d a b : Reg) (s : State) : Out := s.amo .cas y w.bits d a b true
/-- AMO.FADD (R196). -/
def execAmoFadd (y : Bool) (d a b : Reg) (s : State) : Out := s.amo .fadd y 32 d a b false
/-- RED.ADD (R196). -/
def execRedAdd (y : Bool) (w : Width) (a b : Reg) (s : State) : Out := s.red .add y w.bits a b
/-- RED.AND (R196). -/
def execRedAnd (y : Bool) (w : Width) (a b : Reg) (s : State) : Out := s.red .and y w.bits a b
/-- RED.OR (R196). -/
def execRedOr (y : Bool) (w : Width) (a b : Reg) (s : State) : Out := s.red .or y w.bits a b
/-- RED.XOR (R196). -/
def execRedXor (y : Bool) (w : Width) (a b : Reg) (s : State) : Out := s.red .xor y w.bits a b
/-- RED.MIN (R196). -/
def execRedMin (y : Bool) (w : Width) (a b : Reg) (s : State) : Out := s.red .min y w.bits a b
/-- RED.MAX (R196). -/
def execRedMax (y : Bool) (w : Width) (a b : Reg) (s : State) : Out := s.red .max y w.bits a b
/-- RED.MINN (R196). -/
def execRedMinn (y : Bool) (w : Width) (a b : Reg) (s : State) : Out := s.red .minn y w.bits a b
/-- RED.MAXN (R196). -/
def execRedMaxn (y : Bool) (w : Width) (a b : Reg) (s : State) : Out := s.red .maxn y w.bits a b
/-- RED.FADD (R196). -/
def execRedFadd (y : Bool) (a b : Reg) (s : State) : Out := s.red .fadd y 32 a b
/-- RED.FMAX (R196). -/
def execRedFmax (y : Bool) (a b : Reg) (s : State) : Out := s.red .fmax y 32 a b

/-! ## Fences (R198, R199) -/

/-- A fence takes its place in program order (R54); fences that hold nothing back any more are dropped. -/
def State.putFence (s : State) (k : FenceKind) (sc : Scope) : State :=
  s.modMe fun t => { t with fences := (t.fences.filter fun f => !f.over s.pkg t) ++ [⟨k, sc, t.seq⟩] }

/-- FENCE (R54, R198): kinds SL, SS and ALL commit first. -/
def execFence (k : FenceKind) (sc : Scope) (s : State) : Out :=
  match k with
  | .ll | .ls => .next ((s.putFence k sc).retire 32)
  | .sl | .ss | .all => s.atCommit [] fun s => (s.putFence k sc).retire 32

/-- Whether every earlier store of a strand is performed at `.pkg` (R199). -/
def Strand.storesDone (t : Strand) (own : Nat) : Bool :=
  t.drain.isEmpty && t.out.all fun a => !a.isStore || a.performedAt own .pkg

/-- FENCE.I (R199): commit, wait for the stores, and discard the fetched halfwords. -/
def execFenceI (s : State) : Out :=
  match s.commit [] with
  | .error t => .next t
  | .ok s =>
    if s.me.storesDone s.pkg then .next ((s.modMe fun t => { t with fetched := [], block := none }).retire 32).checkpoint
    else .next (s.modMe fun t => { t with block := some .fence })

/-! ## Rings (R201 to R203) -/

/-- The granules an ENQ or DEQ counts as accessing from s[b] upward, as far as they resolve (R201). -/
def State.entryGrans (s : State) (user : Bool) (kind : AccKind) (a : Nat) : List Nat :=
  (gransUp a 64).filterMap fun g => match s.devGran s.ci user kind g with | .ok l => some l.phys | .error _ => none

/-- The issue check of an operand that must lie in device memory (R20, R201): PROT for the weight store or host memory. -/
def State.deviceOnly (s : State) (a : Word) (ls : List Loc) (k : State → Out) : Out :=
  if ls.any fun l => isWs l.phys || isHost l.phys then .next (s.trap cPROT a) else k s

/-- ENQ or DEQ: the block, then the first granule of the entry, then the commit and the request. -/
def State.ringOp (s : State) (d a b : Reg) (kind : AccKind) (mk : Word → Word → Nat → Bool → ReqOp) : Out :=
  let block := s.rd a
  let entry := s.rd b
  if !aligned block 256 then .next (s.trap cALIGN block)
  else if !aligned entry 64 then .next (s.trap cALIGN entry)
  else State.checkedAt (s.resolve s.ci s.user .store block 256) fun ls s =>
    s.deviceOnly block ls fun s =>
      State.checkedAt (s.resolve s.ci s.user kind entry 64) fun es s =>
        s.deviceOnly entry es fun s =>
          let gs := ls.map (·.phys) ++ s.entryGrans s.user kind entry.toNat
          let acc := { (mkOpAccess block (ls.headD ⟨0, false, none⟩).phys false (mk block entry (es.headD ⟨0, false, none⟩).phys s.user)
            (.stat d)).covering (ls.map (·.phys)) with grans := gs }
          s.atCommit [] fun s => (s.issue acc).retire 32

/-- ENQ (R201, R203). -/
def execEnq (_sc : Scope) (d a b : Reg) (s : State) : Out := s.ringOp d a b .load .enq

/-- DEQ (R201, R203). -/
def execDeq (_sc : Scope) (d a b : Reg) (s : State) : Out := s.ringOp d a b .store .deq

/-- RINGSTAT (R201, R202). -/
def execRingstat (_sc : Scope) (d a : Reg) (s : State) : Out :=
  let block := s.rd a
  if !aligned block 256 then .next (s.trap cALIGN block)
  else State.checked (s.resolve s.ci s.user .load block 256) fun ls s =>
    s.deviceOnly block ls fun s =>
      let acc := (mkOpAccess block (ls.headD ⟨0, false, none⟩).phys false (.ringstat block) (.count d)).covering (ls.map (·.phys))
      .next ((s.issue acc).retire 32)

end Sys2Proof.Machine
end

