-- ==== Sys2Proof/Machine/Counters.lean ====
section
/-! DEFINITION. The counter instructions: major 0x20 (R20 to R23, R221 to R224), and the shared checks of messages (R8, R225). -/

namespace Sys2Proof.Machine

/-- The checks of a counter instruction, in order (R20, R222): ALIGN, the address, PROT for memory that holds no counter (entry 18, DEDUCED).
`halt` says what a stopped access does. -/
def State.counterAddr (s : State) (halt : State → Stop → State) (a : Word) (kind : AccKind) (k : Loc → State → Out) : Out :=
  if !aligned a 64 then .next (s.trap cALIGN a) else
  State.checkedBy halt (s.resolve s.ci s.user kind a 64) fun ls s =>
    s.deviceOnly a ls fun s => k (ls.headD ⟨0, false, none⟩) s

/-- CADD or CMAX (R222): a commit point, sent on the ordered class, and a release when REL is set. -/
def State.counterOp (s : State) (r : Bool) (sc : Scope) (a b : Reg) (negTraps : Bool) (op : Word → ReqOp) : Out :=
  s.counterAddr State.stopAt (s.rd b) (.atomic false) fun l s =>
    if negTraps && (s.rd a).msb then .next (s.trap cCTRDEC (s.rd b))
    else
      let acc := { mkOpAccess (s.rd b) l.phys false (op (s.rd a)) .ack with ordered := true, rel := if r then some sc else none }
      s.atCommit [] fun s => (s.issue acc).retire 32

/-- CADD (R222). -/
def execCadd (r : Bool) (sc : Scope) (a b : Reg) (s : State) : Out := s.counterOp r sc a b true .cadd

/-- CMAX (R222). -/
def execCmax (r : Bool) (sc : Scope) (a b : Reg) (s : State) : Out := s.counterOp r sc a b false .cmax

/-- Send a wait for a counter and block until it is answered (R11, R223). -/
def State.waitCounter (s : State) (d : Reg) (addr : Word) (l : Loc) (target : Word) (limit : Option Nat) : State :=
  let seq := s.me.seq
  let acc := { mkOpAccess addr l.phys false (.wait target) (.wait d target) with acquire := true }
  let s := s.blockOn (.cwait seq (limit.map (s.clock + ·)) false)
  s.issue acc

/-- CWAIT (R223). -/
def execCwait (_sc : Scope) (d a b : Reg) (s : State) : Out :=
  s.counterAddr State.stop (s.rd b) .load fun l s => .next (s.waitCounter d (s.rd b) l (s.rd a) none)

/-- CWAITT (R223): the limit is s[d], read at issue. -/
def execCwaitt (_sc : Scope) (d a b : Reg) (s : State) : Out :=
  s.counterAddr State.stop (s.rd b) .load fun l s => .next (s.waitCounter d (s.rd b) l (s.rd a) (some (s.rd d).toNat))

/-- The cancel a timed wait sends when its limit expires (R223), once its request is performed. None where there is nothing
to cancel yet. -/
def State.cancelWait (s : State) (sid : Nat) : Option State :=
  let t := s.strand sid
  match t.block with
  | some (.cwait seq (some dl) false) =>
    if dl > s.clock then none else
    match t.out.find? fun a => a.seq == seq with
    | none => none
    | some a =>
      match a.parts with
      | p :: _ =>
        if !p.done then none else
        let s := s.modStrand sid fun t => { t with block := some (.cwait seq (some dl) true) }
        let c := coreOf sid
        some (s.route ⟨t.act, seq, 0, c, p.gran, p.cover, .cancel, false, false, srcCore (s.gcore c), false, a.det, true, .strand, a.strand⟩)
      | [] => none
  | _ => none

/-! ## Messages from a producer (R8) -/

/-- KIND 0 or 1 only, and w0 a multiple of 16 (R8, R225). -/
def State.messageChecks (s : State) (i : Instr) (m : Msg) (k : State → Out) : Out :=
  if m.kind > 1 then s.ill i else if !aligned m.w0 16 then .next (s.trap cALIGN m.w0) else k s

/-- A message with NANM, DET and SRANK of the issuing strand's core (R8). -/
def State.stamped (s : State) (m : Msg) : Msg := { m with w1 := s.ownHeader s.ci m.kind m.w1 }

/-- CARM (R224). -/
def execCarm (sc : Scope) (d a b : Reg) (s : State) : Out :=
  s.counterAddr State.stopAt (s.rd b) .load fun l s =>
    if !aligned (s.rd a) 64 then .next (s.trap cALIGN (s.rd a)) else
    s.readDesc (s.rd a) 10 fun ws s =>
      let m := Msg.ofWords ws
      s.messageChecks (.carm sc d a b) m fun s =>
        s.atCommit [] fun s =>
          let w8 := wordAt ws 8
          if wfld w8 24 40 ≠ 0 then (s.wr d 5).retire 32 else
          let e := s.rankEntry s.ci (wfld w8 0 24)
          if rankState e = 0 then (s.wr d 1).retire 32 else
          let addr := s.rd b
          let s := s.wr d 0
          (s.issue { mkOpAccess addr l.phys false (.arm (wordAt ws 9) (rankCore e) (wfld w8 0 24) true (s.stamped m)) .ack with ordered := true }).retire 32

end Sys2Proof.Machine
end

