-- ==== Sys2Proof/Machine/Keyed.lean ====
section
/-! DEFINITION. The table of a keyed binding (R336, R338): its entries in local memory, the probes for a key, and how a pair is combined at its home. -/

namespace Sys2Proof.Machine

/-- A key that stands for no entry. -/
def emptyKey : Word := BitVec.allOnes 64

/-- The entries of a binding's table. -/
def bindSize (b : List Word) : Nat := 2 ^ wfld (wordAt b 1) 25 5
/-- The granule of an entry's key; its value is in the next. -/
def State.entryGran (s : State) (c : Nat) (b : List Word) (e : Nat) : Nat := localAddr (s.gcore c) (wfld (wordAt b 1) 0 25 + 128 * e)

/-- Comb of a binding on a value (R338), with its flags: FP32 in the low bits, the high bits of the result a free value; or INT64. -/
def keyedComb (b : List Word) (fp : FpEnv) (lane : Nat) (free old v : Word) : Word × Nat :=
  let op := wfld (wordAt b 1) 30 2
  if wbit (wordAt b 1) 32 then
    (match op with
     | 0 => old + v
     | 1 => if old.toInt < v.toInt then v else old
     | _ => if v.toInt < old.toInt then v else old, 0)
  else
    let o := wfld old 0 32
    let n := wfld v 0 32
    let r := match op with
      | 0 => fadd .f32 fp lane o n
      | k => (fminmax .f32 fp.nanm (k == 1) o n, 0)
    ((free >>> 32 <<< 32) ||| ofN r.1, r.2)

/-- What the probes for a key come to: its entry, the first empty entry, an uncorrectable granule, or none of these. -/
inductive Probed where
  | hit (e : Nat) | empty (e : Nat) | bad (gran : Nat) | full
  deriving DecidableEq, Repr

/-- Probe for a key from entry h on, at the given distances: the entries looked at, and what was found. -/
def State.probe (s : State) (c : Nat) (b : List Word) (key : Word) (h : Nat) : List Nat → List Nat × Probed
  | [] => ([], .full)
  | j :: rest =>
    let e := (h + j) % bindSize b
    let g := s.entryGran c b e
    match s.mem.readGran g with
    | none => ([e], .bad g)
    | some k =>
      if k = key then ([e], if (s.mem.readGran (g + 64)).isNone then .bad (g + 64) else .hit e)
      else if k = emptyKey then ([e], .empty e)
      else
        let (es, x) := State.probe s c b key h rest
        (e :: es, x)

/-- The granules of the entries a pair may touch: its sixteen probes. -/
def State.pairGrans (s : State) (c : Nat) (b : List Word) (key : Word) : List Nat :=
  ((upFrom 0 16).map fun j =>
    let g := s.entryGran c b (((mix64 key).toNat + j) % bindSize b)
    [g, g + 64]).flatten

/-- The granules of the entries that a pair's probes read now. -/
def State.probedGrans (s : State) (c : Nat) (b : List Word) (key : Word) : List Nat :=
  ((s.probe c b key ((mix64 key).toNat % bindSize b) (upFrom 0 16)).1.map fun e => [s.entryGran c b e, s.entryGran c b e + 64]).flatten

/-- What one step on a pair comes to: it is in the table; it is lost, with the granule of uncorrectable data; or the table has no place for it. -/
inductive PairStep where
  | kept (s : State)
  | lost (bad : Option Nat)
  | full

/-- A pair at its home, the p-th of batch n (R338): one step on its entry's two granules. A watched entry or uncorrectable data loses it
(entry 31, DEDUCED). -/
def State.pairStep (s : State) (c n p : Nat) (fp : FpEnv) (key v : Word) : PairStep :=
  match (s.core c).binding with
  | none => .lost none
  | some b =>
    if key = emptyKey then .lost none else
    let at_ := s.entryGran c b
    match (s.probe c b key ((mix64 key).toNat % bindSize b) (upFrom 0 16)).2 with
    | .hit e =>
      if s.watched c (at_ e + 64) then .lost none else
      let (k, s) := s.fresh
      let old := (s.mem.readGran (at_ e + 64)).getD 0
      let (new, fl) := keyedComb b fp (laneWord fp.srseed e 2 (n % 2 ^ 24) (p % 64)) (Config.freeWord k) old v
      let s := s.putGran (at_ e + 64) new
      .kept (if fl = 0 then s else s.modEng c 5 fun x => { x with flags := orFlags x.flags fl })
    | .empty e =>
      if s.watched c (at_ e) || s.watched c (at_ e + 64) then .lost none else .kept ((s.putGran (at_ e) key).putGran (at_ e + 64) v)
    | .bad g => .lost (some g)
    | .full => .full

/-- The pair at the head of a core's keyed unit is done (R338). -/
def State.pairOver (s : State) (c lost diverted : Nat) : State :=
  s.modCore c fun k =>
    match k.keyed with
    | r :: rest => { k with keyed := { r with pos := r.pos + 1, lost := r.lost + lost, diverted := r.diverted + diverted, sent := false } :: rest }
    | [] => k

end Sys2Proof.Machine
end

