-- ==== Sys2Proof/Machine/Mailbox.lean ====
section
/-! DEFINITION. The mailboxes of the top-k unit (R341 to R344): folding scores, and what a read finds. A mailbox lives in its core's system
region (R37), and a read of it is a request to the core's own home unit. -/

namespace Sys2Proof.Machine

/-- NEXPM1 + 1. -/
def topkExperts (ws : List Word) : Nat := wfld (wordAt ws 0) 8 12 + 1
/-- NTOK. -/
def topkTokens (ws : List Word) : Nat := wfld (wordAt ws 3) 0 10
/-- K. -/
def topkDepth (ws : List Word) : Nat := wfld (wordAt ws 0) 0 5

/-- Whether an expert is dead on a die (R328, R342). -/
def State.isDead (s : State) (d x : Nat) : Bool := decide (x < 4096) && nfld (s.die d).dead x 1 == 1

/-- Whether entry a comes before entry b: the higher score, -0 equal to +0, then the lower expert. -/
def scoreBefore (a b : Nat × Nat) : Bool :=
  let x := fdecode .f32 false a.1
  let y := fdecode .f32 false b.1
  fltV y x || (feqV x y && decide (a.2 < b.2))

/-- Insert an entry in order. -/
def insertScore (e : Nat × Nat) : List (Nat × Nat) → List (Nat × Nat)
  | [] => [e]
  | f :: rest => if scoreBefore e f then e :: f :: rest else f :: insertScore e rest

/-- The entries kept, walking in order: fewer than GLIM of a group and fewer than K in all. -/
def keepScores (ws : List Word) (es : List (Nat × Nat)) : List (Nat × Nat) :=
  let group := fun (x : Nat) => x / (wfld (wordAt ws 0) 20 12 + 1)
  es.foldl (fun kept e =>
    if (kept.filter fun k => group k.2 == group e.2).length < wfld (wordAt ws 0) 32 5 ∧ kept.length < topkDepth ws then kept ++ [e]
    else kept) []

/-- One score folded into a mailbox. -/
def foldScore (ws : List Word) (es : List (Nat × Nat)) (score expert : Nat) : List (Nat × Nat) :=
  let score := match es.find? fun e => e.2 == expert with
    | some old => fminmax .f32 false true old.1 score
    | none => score
  keepScores ws (insertScore (score, expert) (es.filter fun e => e.2 != expert))

/-- A score processed at a core's unit (R342). -/
def State.takeScore (s : State) (c : Nat) (x : Score) : State :=
  match (s.core c).topk with
  | none => s
  | some ws =>
    if x.token ≥ topkTokens ws then s else
    let drop := decide (x.expert ≥ topkExperts ws) || fdecode .f32 false x.score == .nan || s.isDead (dieOf c) x.expert
    let s := s.modCore c fun k =>
      { k with mail := if drop then k.mail else k.mail.set x.token (foldScore ws (k.mail.get x.token []) x.score x.expert),
               mailCount := k.mailCount.set x.token (k.mailCount.get x.token 0 + 1) }
    if wordAt ws 1 = 0 then s else s.deviceAdd c (wordAt ws 1 + ofN (64 * x.token)) 1 4

/-! ## Replay (R344) -/

/-- The choice a read makes (R381 kind 11): the token, and the scores processed for it since it was last read or cleared. -/
def State.mailChoice (s : State) (c token : Nat) : Choice :=
  mkChoice (dieOf c) c 0 (s.core c).rank 0 11 [token, (s.core c).mailCount.get token 0]

/-- The token and the count that a record of a read names. -/
def mailRecord (r : Word × Word) : Nat × Nat := ((r.2 ^^^ (Config.crumbMask 11).2).toNat, (r.1 ^^^ (Config.crumbMask 11).1).toNat)

/-- The scores that the next recorded read of a token names, if one has been read ahead. -/
def State.mailNext (s : State) (c token : Nat) : Option Nat :=
  (((s.die (dieOf c)).replay.get (s.mailChoice c token).key []).map mailRecord).findSome? fun r => if r.1 = token then some r.2 else none

/-- Whether replay holds a further score for a token (R344): its next recorded read names no more than have been processed, or may still
stand in the replay ring. -/
def State.scoreHeld (s : State) (c token : Nat) : Bool :=
  s.forcing c 11 &&
  (match s.mailNext c token with
   | some n => decide (n ≤ (s.core c).mailCount.get token 0)
   | none => !s.replayEmpty (dieOf c))

/-- Whether more scores have been processed than the next recorded read of a token names (R344). -/
def State.mailPassed (s : State) (c token : Nat) : Bool :=
  s.forcing c 11 && (match s.mailNext c token with | some n => decide (n < (s.core c).mailCount.get token 0) | none => false)

/-- Whether a read of a mailbox may be performed now: its place in the log has come, or has been passed, and the log has room for the departure and
for the read. -/
def State.mailOpen (s : State) (c token : Nat) : Bool :=
  s.choiceOpen (s.mailChoice c token) || (s.mailPassed c token && !s.crumbNoRoom (dieOf c) 2)

/-! ## Reading (R343) -/

/-- The granule of a token's mailbox, which names it at its home. -/
def State.mailGran (s : State) (c token : Nat) : Nat := localAddr (s.gcore c) (0x1D40000 + 1024 * (token % 512))

/-- The granules that n entries will occupy, or the first that fails the checks of R343, with its cause. -/
def State.mailGrans (s : State) (c : Nat) (user : Bool) : List Nat → Except (Nat × Nat) (List Loc)
  | [] => .ok []
  | g :: gs =>
    match s.devGran c user .store g with
    | .error code => .error (code, g)
    | .ok l =>
      if isWs l.phys || isHost l.phys then .error (cPROT, g)
      else if s.watched c l.phys then .error (cCTRSTORE, g)
      else match State.mailGrans s c user gs with
        | .error e => .error e
        | .ok ls => .ok (l :: ls)

/-- The word of an entry. -/
def scoreWord (e : Nat × Nat) : Word := ofN (e.1 * 2 ^ 32 + e.2)

/-- The word d receives: n, SHORT and BAD. -/
def mailStatus (n depth : Nat) (bad : Bool) : Word := ofN (n + 32 * b2n (decide (n < depth)) + 64 * b2n bad)

/-- What a read of a mailbox finds: BAD with its status, and the fault record of a granule that fails, or the entries and their granules. -/
inductive MailEnd where
  | bad (status : Word) (s : State)
  | ok (status : Word) (words : List Word) (dst : List (Nat × Nat)) (s : State)

/-- Read and empty the mailbox of a token. -/
def State.readMail (s : State) (c : Nat) (user : Bool) (token : Nat) (dst : Word) : MailEnd :=
  match (s.core c).topk with
  | none => .bad (mailStatus 0 0 true) s
  | some ws =>
    if token ≥ topkTokens ws then .bad (mailStatus 0 (topkDepth ws) true) s else
    let es := ((s.core c).mail.get token []).filter fun e => !s.isDead (dieOf c) e.2
    let gs := gransUp dst.toNat es.length
    match s.mailGrans c user gs with
    | .error (cause, a) => .bad (mailStatus 0 (topkDepth ws) true) (s.postFault c 2 cause (ofN a) 0 0 (0x36 * 256 + 5) [])
    | .ok ls =>
      .ok (mailStatus es.length (topkDepth ws) false) (es.map scoreWord) (placed ls gs)
        (s.modCore c fun k => { k with mail := k.mail.set token [], mailCount := k.mailCount.set token 0 })

end Sys2Proof.Machine
end

