-- ==== Sys2Proof/Machine/Region.lean ====
section
/-! DEFINITION. What a read finds where the spec places the queues of a core and the spill area of a quad (R37, R209): the model keeps these as lists, and
a read of their places shows the lists (entry 59, DESIGN CHOICE). -/

namespace Sys2Proof.Machine

/-- The messages of an inbox ring, in arrival order. -/
def Core.ringOf (k : Core) (cls : Nat) : List QMsg := k.inbox.filter fun m => m.msg.prio == cls

/-- The word at a place of some words, none past the last. -/
def wordOf (ws : List Word) (w : Nat) : Option Word := ws[w]?

/-- The word at a place of messages of eight words each, none past the last. -/
def msgsAt (ms : List QMsg) (w : Nat) : Option Word := (ms[w / 8]?).map fun m => wordAt m.msg.words (w % 8)

/-- The word at a place of the mailboxes: 16 places a token; none past a mailbox's entries. -/
def Core.mailAt (k : Core) (w : Nat) : Option Word := ((k.mail.get (w / 16) [])[w % 16]?).map scoreWord

/-- What the system region of a core shows at an offset, but for the landing area and save scratch, which lie in memory (R37). -/
def Core.systemAt (k : Core) (off : Nat) : Option Word :=
  if off < 0x1C00000 ∨ off ≥ 0x1DC0000 then none
  else if off < 0x1C80000 then msgsAt (k.ringOf ((off - 0x1C00000) / 0x20000)) (off % 0x20000 / 64)
  else if off < 0x1CA0000 then msgsAt k.deque (off % 0x20000 / 64)
  else if off < 0x1CC0000 then wordOf k.dirtyLog (off % 0x20000 / 64)
  else if off < 0x1D40000 then none
  else k.mailAt ((off - 0x1D40000) / 64)

/-- The words of a packet that waits in a spill area. -/
def Body.spillWords (b : Body) : List Word :=
  match b with
  | .message m => m.words
  | .capsule _ ws _ => ws
  | _ => []

/-- The words of a spilled item, in whole entries of eight (R209). -/
def SpillItem.words (x : SpillItem) : List Word :=
  let ws := match x with | .message m => m.msg.words | .rank p => p.body.spillWords | .capsule ws _ => ws
  ws ++ List.replicate (8 * x.entries - ws.length) 0

/-- The words of a quad's spill area: its cores' streams, one after the other. -/
def State.spillWords (s : State) (q : Nat) : List Word :=
  ((quadCores q).map fun c => ((s.core c).spill.map SpillItem.words).flatten).flatten

/-- What the spill areas of a die show at an offset of its HBM stack (R209). -/
def State.spillAt (s : State) (d off : Nat) : Option Word :=
  s.quads.findSome? fun e =>
    let w := (s.quad e.1).spill.get (s.ctxOf d) 0
    if e.1 / 64 = d ∧ wbit w 0 = true ∧ off / 2 ^ 25 = wfld w 25 14 then wordOf (s.spillWords e.1) (off % 2 ^ 25 / 64) else none

/-- What a granule shows that lies where the spec places a queue. -/
def State.queueAt (s : State) (g : Nat) : Option Word :=
  if spaceOf g = 0 then (if g / 2 ^ 36 = s.pkg then (s.core (g / 2 ^ 25 % 2048)).systemAt (g % 2 ^ 25) else none)
  else if spaceOf g = 1 ∧ g % 2 ^ 60 / 2 ^ 42 = s.pkg then s.spillAt (g % 2 ^ 60 / 2 ^ 39 % 8) (g % 2 ^ 39)
  else none

/-- What a read of a granule finds: none where it is uncorrectable. -/
def State.readAt (s : State) (g : Nat) : Option Word := (s.queueAt g).or (s.mem.readGran g)

end Sys2Proof.Machine
end

