-- ==== Sys2Proof/Machine/Units.lean ====
section
/-! DEFINITION. Units that act on memory on their own, engines and homes that copy: what each has under way, its reads and writes as requests
to homes, and the shape of one step (R46, R47, R59). A step that needs granules asks for them and is taken again with their values. -/

namespace Sys2Proof.Machine

/-! ## Unit numbers -/

/-- The number of a unit: its kind, a sequence number of that kind, and its place. -/
def unitNum (kind n place : Nat) : Nat := (n * 16 + kind) * 2 ^ 25 + place + 1

/-- The number of a unit of a core for the core's running context: command n of engine context or queue k. -/
def State.unitKey (s : State) (c k n : Nat) : Nat := unitNum k n (s.ctxOf (dieOf c) * 2048 + c)

/-- The kind of a unit. -/
def unitKind (key : Nat) : Nat := (key - 1) / 2 ^ 25 % 16
/-- The sequence number of a unit. -/
def unitSeq (key : Nat) : Nat := (key - 1) / 2 ^ 29
/-- The core of a unit of a core. -/
def unitCore (key : Nat) : Nat := (key - 1) % 2048
/-- The context of a unit of a core. -/
def unitCtx (key : Nat) : Nat := (key - 1) % 2 ^ 25 / 2048

/-! ## Steps -/

/-- Why a unit's step does not go ahead: it must wait, or a fault with its cause and address. -/
inductive EngStop where
  | wait
  | bad (cause addr : Nat)
  deriving DecidableEq, Repr

/-- A failed translation as a unit's stop. -/
def engStopOf (x : Stop) : EngStop :=
  match x with
  | .trap code _ tval => .bad code tval.toNat
  | .page _ addr => .bad cPAGE addr.toNat
  | .wait => .wait

/-- What a unit's step comes to: it is done; it meets a fault; or it waits, with the state after what it asks for, if it asks for anything. -/
inductive UnitEnd (α : Type) where
  | ok (a : α) (s : State)
  | bad (cause addr : Nat) (s : State)
  | wait (s : Option State)

/-- Send a unit's read of a granule on the adaptive class (R57). -/
def State.askGran (s : State) (c key x : Nat) : State :=
  let g := grainUnit x
  let cover := if grainByte x then [x - 1] else coverOf g true 0 64
  s.route ⟨0, 0, 0, c, g, cover, .read, false, false, srcCore (s.gcore c), false, false, true, .unit key 0 false, 0⟩

/-- Ask for the granules that a unit's step found missing and has not asked for; one the unit is writing is asked for once that is done. -/
def State.askNeeds (s : State) (c key : Nat) : State :=
  let x := s.io key
  let gs := (x.need.filter fun g => !x.asked.contains g && !x.puts.contains g).eraseDups
  let s := s.modIo key fun x => { x with need := [], asked := x.asked ++ gs }
  gs.foldl (fun s g => s.askGran c key g) s

/-- What a unit has under way, without what it has read and asked for. -/
def Io.forgotten (x : Io) : Io := { x with got := [], asked := [], need := [], walked := [], rows := [], stale := [] }

/-- One step of a unit of a core. The values it has read serve one step, or, where `keep`, its later steps too. -/
def State.asUnit {α : Type} (s : State) (c key : Nat) (keep : Bool) (work : State → Except EngStop α × State) : UnitEnd α :=
  match work { s with unit := key } with
  | (.ok a, t) =>
    .ok a { t.modIo key fun x => { x with got := if keep then x.got else [], need := [], walked := [], rows := [], stale := [] } with unit := s.unit }
  | (.error (.bad cause addr), t) =>
    .bad cause addr { t.modIo key Io.forgotten with unit := s.unit }
  | (.error .wait, t) =>
    let u := { t.askNeeds c key with unit := s.unit }
    .wait (if (u.io key).asked != (s.io key).asked || (u.quad (quadOf c)).walks.length != (s.quad (quadOf c)).walks.length then some u else none)

/-- A unit forgets what it has read and asked for, as at a save (R323): its writes under way stand. -/
def State.dropReads (s : State) (key : Nat) : State := s.modIo key Io.forgotten

/-! ## Reads -/

/-- The values of granules for the unit whose step this is, none for uncorrectable data; those not yet read are noted as needed. -/
def State.unitTries (s : State) (gs : List Nat) : Except EngStop (List (Option Word)) × State :=
  let x := s.io s.unit
  let find := fun (g : Nat) => x.got.find? fun e => e.1 == g
  let missing := gs.filter fun g => (find g).isNone
  if missing.isEmpty then (.ok (gs.map fun g => (find g).bind (·.2)), s)
  else (.error .wait, s.modIo s.unit fun x => { x with need := x.need ++ missing })

/-- The words of granules for the unit whose step this is, each with the bit address a fault reports. -/
def State.unitWords (s : State) (ls : List (Nat × Nat)) : Except EngStop (List Word) × State :=
  match s.unitTries (ls.map (·.1)) with
  | (.error e, s) => (.error e, s)
  | (.ok vs, s) =>
    match (ls.zip vs).find? fun y => y.2.isNone with
    | some y => (.error (.bad cMEMERR y.1.2), s)
    | none => (.ok (vs.map (·.getD 0)), s)

/-- Read n bits at an address for a unit of a core; a granule the command may not read is a PROT at translation. -/
def State.engReadIf (s : State) (c : Nat) (user : Bool) (deny : Nat → Bool) (a : Word) (n : Nat) : Except EngStop Nat × State :=
  if n = 0 then (.ok 0, s) else
  match s.resolve c user .load a n with
  | (.error e, s) => (.error (engStopOf e), s)
  | (.ok ls, s) =>
    if ls.any fun l => deny l.phys then (.error (.bad cPROT a.toNat), s) else
    let cuts := cutsOf 8 a.toNat n ls
    match s.unitWords (cuts.map fun y => (y.grain, max a.toNat y.addr)) with
    | (.error e, s) => (.error e, s)
    | (.ok ws, s) => (.ok (joinCuts (cuts.zip ws)), s)

/-- Read n bits at an address for a unit of a core. -/
def State.engRead (s : State) (c : Nat) (user : Bool) (a : Word) (n : Nat) : Except EngStop Nat × State :=
  s.engReadIf c user (fun _ => false) a n

/-- Of what two reads come to, both needed: a wait for either, or else the first fault. -/
def bothRead {α β γ : Type} (f : α → β → γ) (x : Except EngStop α) (y : Except EngStop β) : Except EngStop γ :=
  match x, y with
  | .ok a, .ok b => .ok (f a b)
  | .error .wait, _ => .error .wait
  | _, .error .wait => .error .wait
  | .error e, _ => .error e
  | .ok _, .error e => .error e

/-- Read runs of bits, each with its length, all asked for at once (R59). -/
def State.engRuns (s : State) (c : Nat) (user : Bool) (deny : Nat → Bool) : List (Word × Nat) → Except EngStop (List Nat) × State
  | [] => (.ok [], s)
  | (a, n) :: rest =>
    let (v, s) := s.engReadIf c user deny a n
    let (vs, s) := State.engRuns s c user deny rest
    (bothRead (fun v vs => v :: vs) v vs, s)

/-- Read elements of n bits each at addresses, in order. -/
def State.engReads (s : State) (c : Nat) (user : Bool) (deny : Nat → Bool) (n : Nat) (as : List Word) : Except EngStop (List Nat) × State :=
  s.engRuns c user deny (as.map fun a => (a, n))

/-! ## Writes -/

/-- Entries on one granule joined into one, the later bits over the earlier. -/
def mergeEntry (es : List BufEntry) (e : BufEntry) : List BufEntry :=
  if es.any fun x => x.grain == e.grain then
    es.map fun x => if x.grain = e.grain then { x with mask := x.mask ||| e.mask, bits := mergeBits x.bits e.mask e.bits } else x
  else es ++ [e]

/-- Send a unit's write of part of a granule to its home (R21, R41, R57). -/
def State.sendPut (s : State) (c key : Nat) (watch : Bool) (e : BufEntry) : State :=
  (s.modIo key fun x => { x with puts := x.puts ++ [e.grain] }).route
    ⟨0, 0, 0, c, e.gran, e.cover, .write e.mask e.bits, false, e.sa, srcCore (s.gcore c), false, false, false, .unit key e.addr.toNat watch, 0⟩

/-- The entry of a whole granule that a unit writes. -/
def wholeEntry (g : Nat) (w : Word) : BufEntry := ⟨0, 0, g, ofN g, wholeMask, w, none, none, false, 64⟩

/-- Log the pages of entries (R117); none while the dirty log is full. -/
def State.logAll (s : State) (c : Nat) : List BufEntry → Option State
  | [] => some s
  | e :: rest => match s.logDirty c e.page with | some s => State.logAll s c rest | none => none

/-- Send the writes of the unit whose step this is, all or none: it waits while it still writes one of the granules, or while the dirty log
takes no page. -/
def State.unitPuts (s : State) (c : Nat) (watch : Bool) (es : List BufEntry) : State × Option EngStop :=
  let es := es.foldl mergeEntry []
  if es.any fun e => (s.io s.unit).puts.contains e.grain then (s, some .wait)
  else match s.logAll c es with
    | none => (s, some .wait)
    | some s => (es.foldl (fun s e => s.sendPut c s.unit watch e) s, none)

/-- The resolved granules of a unit's write: through the weight-store window for WS.LOAD alone (R33, R327). -/
def State.engLocs (s : State) (c : Nat) (user ws : Bool) (a : Word) (n : Nat) : Except Stop (List Loc) × State :=
  if !ws then s.resolve c user .store a n
  else match s.winDecode c a with
    | some w =>
      if w.kind ≠ 12 then (.error (.trap cPROT 0 a), s)
      else if w.off + n > 2 ^ 35 then (.error (.trap cWINDOW 0 a), s)
      else if user && !wbit (s.ctxRegs (dieOf c)).wbound (36 + w.die) then (.error (.trap cPROT 0 a), s)
      else (.ok ((gransOf w.off n).map fun g => ⟨wsAddr w.die g, false, none⟩), s)
    | none => (.error (.trap cWINDOW 0 a), s)

/-- One run a unit writes: its address, its bits and their value. -/
structure Put where
  addr : Word
  n    : Nat
  v    : Nat
  deriving DecidableEq, Repr

/-- The entries of runs a unit writes, up to the first run that may not be written, with what stops it there: a walk it waits for, or a
fault. A run in memory the command may not write is a PROT at translation. -/
def State.putEntries (s : State) (c : Nat) (user ws : Bool) (deny : Nat → Bool) : List Put → (List BufEntry × Option EngStop) × State
  | [] => (([], none), s)
  | x :: rest =>
    if x.n = 0 then State.putEntries s c user ws deny rest else
    match s.engLocs c user ws x.addr x.n with
    | (.error e, s) => (([], some (engStopOf e)), s)
    | (.ok ls, s) =>
      if ls.any fun l => deny l.phys then (([], some (.bad cPROT x.addr.toNat)), s)
      else
        let ((es, stop), s) := State.putEntries s c user ws deny rest
        ((storeEntries 0 8 none x.addr.toNat x.n x.v ls ++ es, stop), s)

/-- Write runs for the unit whose step this is. What comes before a run that faults is written (R295, R322). -/
def State.engPutAll (s : State) (c : Nat) (user ws : Bool) (deny : Nat → Bool) (xs : List Put) : State × Option EngStop :=
  match s.putEntries c user ws deny xs with
  | ((_, some .wait), s) => (s, some .wait)
  | ((es, stop), s) =>
    match s.unitPuts c true es with
    | (s, some e) => (s, some e)
    | (s, none) => (s, stop)

/-- Memory that takes no write of an engine of the majors that name device memory alone (R302, R346, R376). -/
def notDevice (p : Nat) : Bool := isHost p || isWs p

/-- Write n bits at an address for an engine of a core. -/
def State.engWrite (s : State) (c : Nat) (user ws : Bool) (a : Word) (n v : Nat) : State × Option EngStop :=
  s.engPutAll c user ws (fun _ => false) [⟨a, n, v⟩]

/-- Send an atomic of the unit whose step this is, at a resolved granule (R57, R320). -/
def State.unitAtomic (s : State) (c : Nat) (l : Loc) (addr : Nat) (op : ReqOp) : State × Option EngStop :=
  if (s.io s.unit).puts.contains l.phys then (s, some .wait)
  else match s.logDirty c l.page with
    | none => (s, some .wait)
    | some s =>
      ((s.modIo s.unit fun x => { x with puts := x.puts ++ [l.phys] }).route
        ⟨0, 0, 0, c, l.phys, coverOf l.phys l.sa 0 64, op, false, l.sa, srcCore (s.gcore c), false, false, false, .unit s.unit addr true, 0⟩, none)

/-- Send read-modify-writes of the unit whose step this is, each at a resolved granule with the bit address it reports, all or none (R333). -/
def State.unitRmws (s : State) (c : Nat) (xs : List (Loc × Nat × ReqOp)) : State × Option EngStop :=
  if xs.any fun x => (s.io s.unit).puts.contains x.1.phys then (s, some .wait)
  else match s.logAll c (xs.map fun x => ⟨0, 0, x.1.phys, 0, 0, 0, x.1.page, none, false, 64⟩) with
    | none => (s, some .wait)
    | some s =>
      (xs.foldl (fun s x =>
        (s.modIo s.unit fun y => { y with puts := y.puts ++ [x.1.phys] }).route
          ⟨0, 0, 0, c, x.1.phys, [x.1.phys], x.2.2, false, false, srcCore (s.gcore c), false, false, false, .unit s.unit x.2.1 true, 0⟩) s, none)

/-! ## Answers -/

/-- What one answer settles of what a unit has under way. -/
def Io.settle (x : Io) (gran addr : Nat) (write : Bool) (r : Resp) : Io :=
  if r.kind = .sysNow then (if write then { x with posted := x.posted.erase gran } else x)
  else if write then
    let x := if r.kind = .accepted then { x with posted := x.posted ++ [gran] } else x
    { x with puts := x.puts.erase gran, bad := if r.bad && x.bad.isNone then some (r.value.toNat, addr) else x.bad }
  else if x.asked.contains gran then
    { x with asked := x.asked.erase gran, got := x.got ++ [(gran, if r.bad then none else some r.value)] }
  else x

/-- Whether every write and add of a unit is performed. -/
def State.putsDone (s : State) (key : Nat) : Bool := (s.io key).puts.isEmpty

end Sys2Proof.Machine
end

