-- ==== Sys2Proof/Machine/Home.lean ====
section
/-! DEFINITION. The homes: what one request does when its home performs it (R47, R189 to R203, R222 to R224), ring operations in progress
(R203), banks and replay (R185, R186), the order of a home's queue (R187), leases (R192), host bridges (R61, R193), and the fabric's Deliver
and Answer steps. -/

namespace Sys2Proof.Machine

/-! ## Atomics (R196) -/

/-- New(op, old, v, c) of R196 on w bits, with the flags of the FP members. -/
def amoNew (op : AmoOp) (w : Nat) (fp : FpEnv) (old v c : Nat) : Nat × Nat :=
  let so := toSigned w old
  let sv := toSigned w v
  match op with
  | .add => ((old + v) % 2 ^ w, 0)
  | .and => (Nat.land old v, 0)
  | .or => (Nat.lor old v, 0)
  | .xor => (Nat.xor old v, 0)
  | .min => (if sv < so then v else old, 0)
  | .max => (if sv > so then v else old, 0)
  | .minn => (min old v, 0)
  | .maxn => (max old v, 0)
  | .swap => (v, 0)
  | .cas => (if old = c then v else old, 0)
  | .fadd => fadd .f32 fp (envLane fp 0 0) old v
  | .fmax => (fminmax .f32 fp.nanm true old v, 0)

/-- Comb of SCAT (R333), with its flags. -/
def scatElem (t : Ty) (fp : FpEnv) (op lane a b : Nat) : Nat × Nat :=
  match op with
  | 0 => if t.isFp then fadd t fp lane a b else ((a + b) % 2 ^ t.bits, 0)
  | k => if t.isFp then (fminmax t fp.nanm (k == 1) a b, 0)
    else (if k = 1 then (if intOf t a < intOf t b then b else a) else if intOf t b < intOf t a then b else a, 0)

/-- n elements of a table row, from element e0 of row `row`, combined with contributions in ascending position (R333, R339): their bits, and
the flags. -/
def scatBits (op : Nat) (t : Ty) (fp : FpEnv) (row e0 n old : Nat) (cs : List (Nat × Nat)) : Nat × Nat :=
  let rs := (upFrom 0 n).map fun e =>
    cs.foldl (fun acc c =>
      let r := scatElem t fp op (laneWord fp.srseed c.1 1 (row % 2 ^ 24) ((e0 + e) % 64)) acc.1 (elemOf c.2 t.bits e)
      (r.1, orFlags acc.2 r.2)) (elemOf old t.bits e, 0)
  (joinElems t.bits (rs.map (·.1)), rs.foldl (fun fl r => orFlags fl r.2) 0)

/-! ## Answers -/

/-- A whole answer. -/
def respFull (v : Word) : Resp := ⟨v, false, 0, .full, false⟩
/-- An answer that reports uncorrectable data (R189). -/
def respBad : Resp := ⟨0, true, 0, .full, false⟩
/-- An answer that refuses a unit's write, with the cause (R21, R295). -/
def respRefuse (cause : Nat) : Resp := ⟨ofN cause, true, 0, .full, false⟩

/-- Whether a request writes its granules. -/
def ReqOp.writes : ReqOp → Bool
  | .read => false
  | _ => true

/-- The granule of a unit's request. -/
def Req.grain (r : Req) : Nat :=
  match r.cover with
  | [b] => if isHost r.gran then b + 1 else r.gran
  | _ => r.gran

/-- A ring operation's status, with the error record its checks ask for (R203). -/
def State.ringError (s : State) (c : Nat) (e : Option (Nat × Nat)) : State :=
  match e with
  | none => s
  | some (code, addr) => s.homeError c code addr 16

/-- An enqueue of the device's own words is over, with its status and what stopped it: what the fault queue, a dead letter or a diverted pair does then,
in the context it is for (R118, R119, R338, R355). A record of the crumb log that finds no usable entry is lost (entry 54, DESIGN CHOICE). -/
def State.postOver (s : State) (r : Req) (p : Post) (st : Word) (stopped : Option (Nat × Nat)) : State :=
  let words := match r.op with | .put _ _ _ ws => ws | _ => []
  let block := match r.op with | .put b _ _ _ => b | _ => 0
  let ok := wfld st 0 8 == 0
  match p with
  | .fault q ctx => s.asContext (dieOfQuad q) ctx fun s => s.fqOver q ctx block st
  | .dead c ctx => s.asContext (dieOf c) ctx fun s => s.letterOver c words ok
  | .crumb _ => s
  | .pair c ctx => s.asContext (dieOf c) ctx fun s => (s.ringError c stopped).pairOver c (b2n !ok) (b2n ok)

/-- The wait of a tile queue's head is answered (R286): its record's place is noted, apart where its counter is uncorrectable. -/
def State.headAnswered (s : State) (quad stamp : Nat) (x : Resp) : State :=
  if x.kind = .accepted then s
  else if x.bad then s.modQuad quad fun q => { q with unread := stamp :: q.unread }
  else s.modQuad quad fun q => { q with waited := stamp :: q.waited }

/-- Send the answer to a request, on the adaptive class (R57), to whom the request belongs. -/
def State.reply (s : State) (h : HomeId) (r : Req) (x : Resp) : State :=
  let send := fun (b : Body) => s.post (homeKey h) (.core (s.gcore r.core)) false b
  match r.owner with
  | .strand => send (.resp r.act r.seq r.part x)
  | .unit key addr _ => send (.unitResp key r.grain addr r.op.writes x)
  | .device key _ addr => if key = 0 then s else send (.unitResp key r.gran addr.toNat true x)
  | .post p => s.postOver r p x.value none
  | .head quad _ stamp => s.headAnswered quad stamp x

/-- Count an uncorrectable granule of an HBM stack in the life log (R395). -/
def State.countBad (s : State) (g : Nat) : State :=
  if spaceOf g = 1 then s.lifeAdd (lifeUncorrectable (g % 2 ^ 60 / 2 ^ 39 % 8)) 1 else s

/-- A request that its granule's uncorrectable data keeps from being performed (R189): a unit's answer carries the cause, an add of the
device posts the record of R396, or is only counted where it is the fault queue's own; a request that returns no value posts an error
record with the granule's physical bit address (entry 80, DESIGN CHOICE). -/
def State.unperformed (s : State) (h : HomeId) (r : Req) (bits : Nat) : State :=
  let s := s.countBad r.gran
  match r.owner with
  | .strand => if r.ret then s.reply h r respBad else (s.homeError r.core cMEMERR r.gran bits).reply h r (respFull 0)
  | .unit _ _ _ => s.reply h r (respRefuse cMEMERR)
  | .post _ | .head _ _ _ => s.reply h r respBad
  | .device _ origin addr =>
    (if origin = 3 then s.lifeAdd (lifeFault cMEMERR) 1 else s.postFault r.core 2 cMEMERR addr 0 0 origin []).reply h r (respFull 0)

/-! ## Host memory at a bridge (R61, R193) -/

/-- Whether a posted entry covers one of some granules. -/
def Posted.meets (p : Posted) (cover : List Nat) : Bool := meet p.cover cover

/-- The bits of a granule as the bridge's die sees them: the coherence point with the posted entries laid over it. -/
def forwarded (base : Word) (g : Nat) (ps : List Posted) : Word :=
  ps.foldl (fun w p => if p.gran = g then mergeBits w p.mask p.bits else w) base

/-- Write one posted entry to the coherence point and answer those who wait for it at `.sys`, and for no other entry (R61). -/
def State.writePosted (s : State) (d : Nat) (p : Posted) : State :=
  let old := (s.mem.readGran p.gran).getD 0
  let s := { s with mem := s.mem.writeGran p.gran (mergeBits old p.mask p.bits) }
  let waits := fun (r : Req) => (s.die d).posted.any fun q => q.waiters.contains r
  (p.waiters.filter fun r => !waits r).foldl (fun s r => s.reply (.bridge (s.gdie d)) r ⟨0, false, 0, .sysNow, false⟩) s

/-- Of posted entries, oldest first, those that some granules wait for: the entries that cover one, and for each of these the entries before
it that cover one of its own (R61). The granules reached so far, those entries, and the others. -/
def flushSplit (cover : List Nat) : List Posted → List Nat × List Posted × List Posted
  | [] => (cover, [], [])
  | p :: rest =>
    let (cs, due, left) := flushSplit cover rest
    if p.meets cs then (cs ++ p.cover, p :: due, left) else (cs, due, p :: left)

/-- Write every posted entry that some granules wait for, oldest first (R193 step 2). -/
def State.flushCover (s : State) (d : Nat) (cover : List Nat) : State :=
  let x := flushSplit cover (s.die d).posted
  let s := s.modDie d fun k => { k with posted := x.2.2 }
  x.2.1.foldl (fun s p => s.writePosted d p) s

/-- Whether a store covers its host granules whole: 64 bits on SA pages, bytes elsewhere (R39). -/
def coversHost (sa : Bool) (mask : Word) : Bool :=
  if sa then mask == wholeMask else (splitBytes mask.toNat 8).all fun b => b == 0 || b == 0xFF

/-- Have a read wait at `.sys` for the youngest posted entry of each of its granules (R61): the entries, youngest first. -/
def addWaiter (r : Req) : List Nat → List Posted → List Posted
  | _, [] => []
  | cover, p :: rest =>
    if p.meets cover then { p with waiters := p.waiters ++ [r] } :: addWaiter r (cover.filter fun g => !p.cover.contains g) rest
    else p :: addWaiter r cover rest

/-- Whether a request is a locked read-modify-write at its bridge (R193). -/
def Req.locks (r : Req) : Bool :=
  match r.op with
  | .write mask _ => !coversHost r.sa mask
  | .amo _ _ _ _ _ _ => !(r.sys && r.sa)
  | _ => false

/-- The bits that a read-modify-write leaves of the old ones, with the answer (R193, R195). -/
def Req.modified (r : Req) (old : Word) : Word × Resp :=
  match r.op with
  | .write mask bits => (mergeBits old mask bits, respFull 0)
  | .amo op lo w v c fp =>
    let (x, fl) := amoNew op w fp (nfld old.toNat lo w) (v.toNat % 2 ^ w) (c.toNat % 2 ^ w)
    (mergeBits old (ofN (onesAt lo w)) (ofN (x * 2 ^ lo)), ⟨old, false, fl, .full, false⟩)
  | _ => (old, respFull 0)

/-- The bits of a granule that a cover names. -/
def coverMask (gran : Nat) (cover : List Nat) : Word :=
  if cover.contains gran && cover.length == 1 && !isHost gran then wholeMask
  else ofN (cover.foldl (fun m g => m + onesAt (g - gran) 8) 0)

/-- A request performed at a die's host bridge; none where it must wait (R61). Loads are forwarded from their own die's bridge alone, against an
outcome of the table of R63 (entry 70, DESIGN CHOICE). A locked read-modify-write reads here and is completed by a step of its own (R193). -/
def State.serveHost (s : State) (d : Nat) (h : HomeId) (r : Req) : Option State :=
  let posted := (s.die d).posted
  let base := (s.mem.readGran r.gran).getD 0
  let has := posted.any (·.meets r.cover)
  match r.op with
  | .read =>
    if !has then some (s.reply h r (respFull base))
    else if r.sys && r.sa then none
    else
      let s := s.modDie d fun k => { k with posted := (addWaiter r r.cover k.posted.reverse).reverse }
      some (s.reply h r ⟨forwarded base r.gran posted, false, 0, .valueOnly, false⟩)
  | .write mask bits =>
    if r.locks then
      let s := s.flushCover d r.cover
      some (s.modDie d fun k => { k with locks := k.locks ++ [(r, (s.mem.readGran r.gran).getD 0)] })
    else
      let s := s.modDie d fun k => { k with posted := k.posted ++ [⟨r.gran, r.cover, mask, bits, [r]⟩] }
      some (s.reply h r ⟨0, false, 0, .accepted, false⟩)
  | .amo _ _ _ _ _ _ =>
    let s := s.flushCover d r.cover
    let old := (s.mem.readGran r.gran).getD 0
    if r.locks then some (s.modDie d fun k => { k with locks := k.locks ++ [(r, old)] })
    else
      let (new, x) := r.modified old
      some ({ s with mem := s.mem.writeGran r.gran new }.reply h r x)
  | _ => some (s.reply h r (respFull 0))

/-- The k-th locked read-modify-write of a die's bridge writes its granules over what they hold, and unlocks them (R193 step 4). -/
def State.unlock (s : State) (d k : Nat) : Option State :=
  match (s.die d).locks[k]? with
  | none => none
  | some (r, old) =>
    let (new, x) := r.modified old
    let s := s.modDie d fun y => { y with locks := listDel y.locks k }
    let m := coverMask r.gran r.cover
    let now := (s.mem.readGran r.gran).getD 0
    some ({ s with mem := s.mem.writeGran r.gran (mergeBits now m new) }.reply (.bridge (s.gdie d)) r x)

/-- Whether a bridge of the package has locked one of some granules (R193). -/
def State.locked (s : State) (cover : List Nat) : Bool := s.dies.any fun e => e.2.locks.any fun l => meet l.1.cover cover

/-! ## The watch list (R22, R184, R224) -/

/-- The watch-list entries of a die's homes (R184). -/
def State.watchCount (s : State) (g : Nat) : Nat :=
  let cores := (coresOfDie (g % 8)).foldl (fun n c => n + (s.home (.core (g / 8 * 2048 + c))).watch.length) 0
  (upFrom 0 16).foldl (fun n k => n + (s.home (.slice g k)).watch.length) cores

/-- The most watch-list entries a die holds (R184). -/
def watchCap : Nat := 65536

/-- Whether the die of a home has no room for another watch-list entry, so that the request waits (R184, R224). -/
def State.watchFull (s : State) (h : HomeId) : Bool := decide (s.watchCount (homeDie h) ≥ watchCap)

/-! ## The deque at its home (R214, R233) -/

/-- The capacity of a deque (R204). -/
def dequeCap : Nat := 256

/-- DQPUSH at the home: pushed at the bottom with its stamp, or FULL (R233). -/
def State.dequePush (s : State) (c : Nat) (m : Msg) : Word × State :=
  if (s.core c).deque.length < dequeCap then (0, s.modCore c fun k => { k with deque := ⟨m, s.clock⟩ :: k.deque })
  else (2, s)

/-! ## Banks (R185, R186) -/

/-- The bank of granule index g under a hash (R185). -/
def bankOf (hash : Word) (g : Nat) : Nat :=
  let a := if wbit hash 0 then nfld g (wfld hash 8 4) 5 else 0
  let b := if wbit hash 1 then nfld g (wfld hash 12 4) 5 else 0
  Nat.xor (g % 32) (Nat.xor a b)

/-- The bank of a core's granule now. -/
def State.bankAt (s : State) (c g : Nat) : Nat := bankOf (s.core c).bankhash (g % 2 ^ 25 / 64)

/-- Die cycles a request occupies its bank (R186): 4 for a read-merge-write, 2 otherwise. -/
def Req.bankCycles (r : Req) : Nat :=
  match r.op with
  | .write mask _ => if mask = wholeMask then 2 else 4
  | _ => 2

/-- The granules a request reads or writes at its home now: for a pair those of its probes. -/
def State.touches (s : State) (r : Req) : List Nat :=
  match r.op with
  | .keyed key _ => (match (s.core r.core).binding with | some b => s.probedGrans r.core b key | none => [])
  | _ => r.cover

/-- Whether the bank of a core's granule is busy now. -/
def State.granBusy (s : State) (c g : Nat) : Bool := decide ((s.core c).bankBusy.get (s.bankAt c g) 0 > s.clock)

/-- Whether a bank that a request needs is busy now. -/
def State.bankIsBusy (s : State) (c : Nat) (r : Req) : Bool := (s.touches r).any (s.granBusy c)

/-- Take the bank of a core's granule for some cycles. -/
def State.takeGran (s : State) (c cycles g : Nat) : State :=
  s.modCore c fun k => { k with bankBusy := k.bankBusy.set (s.bankAt c g) (s.clock + cycles) }

/-- Take a request's banks. -/
def State.takeBank (s : State) (c : Nat) (r : Req) : State := (s.touches r).foldl (fun s g => s.takeGran c r.bankCycles g) s

/-- The weight-store bank refreshing at a die cycle, if any (R324): bank b while (D mod 61,440) - 1,920 b lies in 0 to 1,023. -/
def wsRefreshing (d : Nat) : Option Nat := if d % 61440 % 1920 < 1024 then some (d % 61440 / 1920) else none

/-- Whether a home performs nothing now: a hash rewrite (R185) or a refresh (R324). -/
def State.homeIdle (s : State) (h : HomeId) : Bool :=
  match h with
  | .core _ => (s.home h).rewrite || decide ((s.home h).busyTo > s.clock)
  | .bank _ b => wsRefreshing s.clock == some b
  | _ => false

/-- A home writes a granule of its own that no request names, such as HEAD or TAIL: none while it is idle or the granule's bank is busy. -/
def State.homePut (s : State) (h : HomeId) (g : Nat) (w : Word) : Option State :=
  match s.homeIdle h, s.homeCore h with
  | true, _ => none
  | false, some c => if s.granBusy c g then none else some ((s.takeGran c 2 g).putGran g w)
  | false, none => some (s.putGran g w)

/-! ## Ring operations in progress (R203) -/

/-- A home takes up an operation that copies: it holds the granules of its block until the end. -/
def State.hold (s : State) (h : HomeId) (r : Req) (block : List Nat) (src dst : List (Nat × Nat)) (words : List Word) (index : Word)
    (copied : Bool) : State :=
  let n := (s.home h).holdSeq
  s.modHome h fun k => { k with holdSeq := n + 1, holds := k.holds ++ [⟨r, unitNum 11 n (homeKey h), block, src, dst, words, index, copied⟩] }

/-- A ring operation as its home reads the block: over at once, with its answer, or taken up, the pages it writes logged (R117). -/
def State.takeRing (s : State) (h : HomeId) (r : Req) (x : RingStart) : State :=
  match x with
  | .over st e s =>
    (match r.owner with
     | .post p => s.postOver r p st e
     | _ => (s.ringError r.core e).reply h r (respFull st))
  | .copy index block src dst pages =>
    (pages.foldl (fun s p => s.logNow r.core p) s).hold h r block src dst (match r.op with | .put _ _ _ ws => ws | _ => []) index false

/-- DQPOP at the home (R233): the bottom record is removed and goes to its destination as a ring copy does, or EMPTY. -/
def State.startPop (s : State) (h : HomeId) (r : Req) (dst : Word) (first : Nat) (user : Bool) : State :=
  match (s.core r.core).deque with
  | [] => s.reply h r (respFull 3)
  | m :: rest =>
    match s.copyGrans r.core user .store (some first) (gransUp dst.toNat 8) with
    | .error (code, a) => (s.homeError r.core code a 16).reply h r (respFull 5)
    | .ok ls => (s.modCore r.core fun k => { k with deque := rest }).hold h r r.cover [] (placed ls (gransUp dst.toNat 8)) m.msg.words 0 false

/-- TOPK.RD at the home (R343, R344): the mailbox is read and emptied, and its entries go to their destination as a ring copy does. A read
that replay finds too late departs first. -/
def State.startRead (s : State) (h : HomeId) (r : Req) (token : Nat) (dst : Word) (user : Bool) : State :=
  let c := r.core
  let x := s.mailChoice c token
  let s := if s.mailPassed c token then s.depart x.die x.unit x.src x.strand x.kind else s
  match (s.noteChoice (s.mailChoice c token)).readMail c user token dst with
  | .bad st s => s.reply h r (respFull st)
  | .ok st ws ds s => if ws.isEmpty then s.reply h r (respFull st) else s.hold h r r.cover [] ds ws st false

/-- Send the writes of a hold's words to their granules (R203). -/
def State.holdWrites (s : State) (x : Hold) (words : List Word) : State :=
  (x.dst.zip words).foldl (fun s e =>
    s.sendPut x.req.core x.key false ⟨0, 0, e.1.1, ofN e.1.2, wholeMask, e.2, none, none, false, 64⟩) s

/-- The word of its block that an operation advances when its copies are done, with its status. -/
def Hold.finish (x : Hold) : Option (Nat × Word) × Word :=
  match x.req.op with
  | .enq _ _ _ _ | .put _ _ _ _ => ((x.block[1]?).map fun g => (g, x.index + 1), ringStatus x.index.toNat 0)
  | .deq _ _ _ _ => ((x.block[0]?).map fun g => (g, x.index + 1), ringStatus x.index.toNat 0)
  | .topkRd _ _ _ => (none, x.index)
  | _ => (none, 0)

/-- End a hold with its answer. -/
def State.endHold (s : State) (h : HomeId) (k : Nat) (x : Hold) (st : Word) : State :=
  ({ s.modHome h fun y => { y with holds := listDel y.holds k } with ios := s.ios.erase x.key }).reply h x.req (respFull st)

/-- A step of the k-th operation in progress at a home: its reads, then its writes, then its HEAD or TAIL and its answer. An uncorrectable
source word ends it with BAD and a record (R189). None where it still waits. -/
def State.holdStep (s : State) (h : HomeId) (k : Nat) : Option State :=
  match (s.home h).holds[k]? with
  | none => none
  | some x =>
    let mark := fun (s : State) (ws : List Word) =>
      s.modHome h fun y => { y with holds := listSet y.holds k { x with words := ws, copied := true } }
    if x.copied then
      (if !s.putsDone x.key then none
       else
         let (w, st) := x.finish
         let put := match w with | some (g, v) => s.homePut h g v | none => some s
         put.map fun (s : State) => s.endHold h k x st)
    else if x.src.isEmpty then some ((mark s x.words).holdWrites x x.words)
    else match s.asUnit x.req.core x.key false (fun s => s.unitWords x.src) with
      | .wait t => t
      | .bad cause addr t => some ((t.homeError x.req.core cause addr 16).endHold h k x (ringStatus 0 3))
      | .ok ws t => some ((mark t ws).holdWrites x ws)

/-! ## Performing one request (R47) -/

/-- The line was last used by an atomic of a quad (R191); only the home tells. -/
def State.lineUsed (s : State) (h : HomeId) (r : Req) : Bool × State :=
  let q := quadOf r.core
  let line := lineOf r.gran
  match h with
  | .quadUnit _ => (false, s)
  | _ => ((s.home h).lastQuad.get line (2 ^ 32) == q, s.modHome h fun k => { k with lastQuad := k.lastQuad.set line q })

/-- Whether a unit's write meets a watched granule, which refuses it (R21). -/
def State.refuses (s : State) (h : HomeId) (r : Req) : Bool :=
  match r.owner with
  | .unit _ _ watch => watch && (s.home h).watch.any fun w => w.gran == r.gran
  | .strand | .device _ _ _ | .post _ | .head _ _ _ => false

/-- A counter operation performed at its home; on an uncorrectable granule it is treated as a RED (entry 80, DESIGN CHOICE). -/
def State.serveCounter (s : State) (h : HomeId) (r : Req) (f : Nat → Nat) : State :=
  match s.counterAt h r.gran f with
  | some s => s.reply h r (respFull 0)
  | none => s.unperformed h r 8

/-- A pair at its home (R338): one that finds no place in the table is enqueued to the overflow ring, in the mode of the KBIND; a pair that meets
uncorrectable data, or whose ring cannot take it, is lost with an error record (entry 31, DEDUCED). -/
def State.serveKeyed (s : State) (c : Nat) (key v : Word) : State :=
  match (s.core c).keyed with
  | [] => s
  | x :: _ =>
    match s.pairStep c x.batch.n x.pos x.batch.fp key v with
    | .kept s => s.pairOver c 0 0
    | .lost bad => (match bad with | some g => s.homeError c cMEMERR g 0 | none => s).pairOver c 1 0
    | .full =>
      let ovr := wordAt ((s.core c).binding.getD []) 2
      if ovr = 0 then s.pairOver c 1 0
      else match s.postPut c (s.core c).bindUser ovr 2 [key, v] (.pair c (s.ctxOf (dieOf c))) with
        | .ok s => s
        | .error e => (s.ringError c e).pairOver c 1 0

/-- A request performed at a home that is no host bridge; none where it must wait (R184, R224). A wait on an uncorrectable granule is answered as a load
is (entry 80, DESIGN CHOICE). -/
def State.serve (s : State) (h : HomeId) (r : Req) : Option State :=
  if s.refuses h r then some (s.reply h r (respRefuse cCTRSTORE)) else
  match r.op with
  | .read =>
    match s.readAt r.gran with
    | some v => some (s.reply h r (respFull v))
    | none => some ((s.countBad r.gran).reply h r respBad)
  | .write mask bits =>
    match s.storeAt r.gran mask bits with
    | some s => some (s.reply h r (respFull 0))
    | none => some (s.unperformed h r 2)
  | .amo op lo w v c fp =>
    match s.mem.readGran r.gran with
    | none => some (s.unperformed h r 8)
    | some old =>
      let (x, fl) := amoNew op w fp (nfld old.toNat lo w) (v.toNat % 2 ^ w) (c.toNat % 2 ^ w)
      let (same, s) := s.lineUsed h r
      let s := s.putGran r.gran (mergeBits old (ofN (onesAt lo w)) (ofN (x * 2 ^ lo)))
      some (s.reply h r ⟨old, false, fl, .full, same⟩)
  | .cadd n => some (s.serveCounter h r (· + n.toNat))
  | .cmax n => some (s.serveCounter h r (max · n.toNat))
  | .wait target =>
    match s.mem.readGran r.gran with
    | none => some ((s.countBad r.gran).reply h r respBad)
    | some c =>
      if target.toNat ≤ c.toNat then some (s.reply h r (respFull c))
      else if s.watchFull h then none
      else
        let w : Watch := ⟨r.gran, target, match r.owner with
          | .head quad queue stamp => .head quad queue stamp
          | .strand | .unit _ _ _ | .device _ _ _ | .post _ => .waiter (s.gcore r.core) r.act r.seq r.part⟩
        some ((s.modHome h fun k => { k with watch := k.watch ++ [w] }).reply h r ⟨0, false, 0, .accepted, false⟩)
  | .cancel =>
    let mine := fun (w : Watch) => w.kind == .waiter (s.gcore r.core) r.act r.seq r.part
    if (s.home h).watch.any mine then
      let s := s.modHome h fun k => { k with watch := k.watch.filter fun w => !mine w }
      some (s.reply h r (respFull ((s.mem.readGran r.gran).getD 0)))
    else some s
  | .arm target core rank fixed m =>
    let ctx := s.ctxOf (dieOf r.core)
    match s.mem.readGran r.gran with
    | none => some (s.unperformed h r 8)
    | some c =>
      if target.toNat ≤ c.toNat then some ((s.postArmed ctx h core rank fixed m).reply h r (respFull 0))
      else if s.watchFull h then none
      else
        let s := s.modHome h fun k => { k with watch := k.watch ++ [⟨r.gran, target, .arm core ctx rank fixed m⟩] }
        let s := if m.prio ≥ 1 then s.inheritNotice h r.gran (armedClass (s.home h).watch r.gran) else s
        some (s.reply h r (respFull 0))
  | .enq block src first user => some (s.takeRing h r (s.startEnq r.core user block.toNat src.toNat first))
  | .deq block dst first user => some (s.takeRing h r (s.startDeq r.core user block.toNat dst.toNat first))
  | .put block user size _ => some (s.takeRing h r (s.startPut r.core user block.toNat (fun b => b.size == size) fun _ => .ok []))
  | .keyed key v => some (s.serveKeyed r.core key v)
  | .ringstat block =>
    let (v, e) := s.ringStat r.core false block.toNat
    some ((s.ringError r.core e).reply h r (respFull v))
  | .dqpush m => let (st, s) := s.dequePush r.core m; some (s.reply h r (respFull st))
  | .dqpop dst first user => some (s.startPop h r dst first user)
  | .topkRd token dst user => some (s.startRead h r token dst user)
  | .dqcount => some (s.reply h r (respFull (ofN (s.core r.core).deque.length)))
  | .scat op t fp row e0 lo n cs mask bits =>
    match s.mem.readGran r.gran with
    | none => some (s.unperformed h r 8)
    | some old =>
      let (x, fl) := scatBits op t fp row e0 (n / t.bits) (nfld old.toNat lo n) (cs.map fun c => (c.1, nfld c.2.toNat lo n))
      let s := s.putGran r.gran (mergeBits (mergeBits old (ofN (onesAt lo n)) (ofN (x * 2 ^ lo))) mask bits)
      some (s.reply h r ⟨0, false, fl, .full, false⟩)
  | .message _ _ _ | .spawn _ _ | .barArrive _ _ _ => some (s.reply h r (respFull 0))

/-- A request performed at its home. -/
def State.serveAt (s : State) (h : HomeId) (r : Req) : Option State :=
  match h with
  | .bridge g => s.serveHost (g % 8) h r
  | _ => s.serve h r

/-- The life-log key of an HBM stack's corrected errors, or of those of a bank, of a core's local memory or of a weight store, in a month (R185, R324,
R395; entry 42, DESIGN CHOICE). -/
def State.lifeCorrected (s : State) (g : Nat) : Nat :=
  let month := 10000 + s.life.get 20 0 * 2 ^ 17
  if spaceOf g = 1 then 100 + g % 2 ^ 60 / 2 ^ 39 % 8
  else if isWs g then month + 2 ^ 16 + g % 2 ^ 60 / 2 ^ 35 % 8 * 32 + wsBankOf (g % 2 ^ 35)
  else month + g / 2 ^ 25 % 2048 * 32 + s.bankAt (g / 2 ^ 25 % 2048) g

/-- A single-bit error in the granule of a request, where its data is no worse: corrected, written back and counted (R189, R313, R395); the count of a
bank saturates at 16 bits. -/
def State.correct (s : State) (g : Nat) : State :=
  if !isHost g && (s.mem.readGran g).isSome then
    (if spaceOf g ≠ 1 ∧ s.life.get (s.lifeCorrected g) 0 ≥ 2 ^ 16 - 1 then s else s.lifeAdd (s.lifeCorrected g) 1)
  else s

/-- What the check bits of a request's granule find (R189): 0 nothing, 1 a single-bit error, and above a two-bit error. -/
def State.tested (s : State) (g found : Nat) : State :=
  match found with
  | 0 => s
  | 1 => s.correct g
  | _ => { s with mem := s.mem.spoil g }

/-! ## The order of a home's queue (R187) -/

/-- The quad that leases a line, if any (R192). -/
def State.lessee (s : State) (line : Nat) : Option Nat :=
  (s.quads.find? fun q => q.2.leases.any fun l => l.line == line).map (·.1)

/-- Whether a request must wait behind an earlier one: a granule in common, or, where it came on the ordered class, the same source
(R187). -/
def Req.behind (r e : Req) : Bool := meet r.cover e.cover || (r.ord && r.src == e.src)

/-- Whether a request's place in its home's order is a choice of R381 kind 4 (R197, R201, R222). -/
def ReqOp.ordered4 : ReqOp → Bool
  | .amo .fadd _ _ _ _ _ => true
  | .amo .fmax _ _ _ _ _ => true
  | .cadd _ | .cmax _ | .enq _ _ _ _ | .deq _ _ _ _ | .ringstat _ | .put _ _ _ _ => true
  | .scat _ t _ _ _ _ _ _ _ _ => t.isFp
  | _ => false

/-- Whether a request is a record on its way to the crumb log, which is no choice of its own. -/
def Req.isCrumb (r : Req) : Bool := match r.owner with | .post (.crumb _) => true | _ => false

/-- The choice a home makes when it performs a request (R381 kind 4, R397): logged by the home's own core, or for a slice by
the issuing core's setting. An add or enqueue the device makes counts as strand 0's (entry 60, DESIGN CHOICE). -/
def State.homeChoice (s : State) (h : HomeId) (r : Req) : Option Choice :=
  if !r.op.ordered4 || r.isCrumb then none else
  let vals := [(s.core r.core).rank, r.strand, r.gran]
  match h with
  | .core g => if g / 2048 = s.pkg then some (mkChoice (dieOf (g % 2048)) (g % 2048) 0 (s.core (g % 2048)).rank 0 4 vals) else none
  | .slice d k => if d / 8 = s.pkg then some (mkChoice (d % 8) r.core 2 k 0 4 vals) else none
  | _ => none

/-- Whether an operation in progress at a home holds a request (R203): one to a granule of its block that is not its own. -/
def Home.held (x : Home) (r : Req) : Bool :=
  x.holds.any fun y => meet y.block r.cover && (match r.owner with | .unit key _ _ => key != y.key | .strand | .device _ _ _ | .post _ | .head _ _ _ => true)

/-- Whether nothing keeps a home from performing a request whose turn has come: no operation in progress and no bridge holds its granules, its
place in the log has come, and its lines are not leased away, or at a quad unit are leased there. -/
def State.admits (s : State) (h : HomeId) (r : Req) : Bool :=
  !(s.home h).held r && !s.locked r.cover && s.optOpen (s.homeChoice h r) &&
  (match r.op with | .topkRd token _ _ => s.mailOpen r.core token | _ => true) &&
  (match h with
   | .quadUnit q => s.lessee (lineOf r.gran) == some (q % 512)
   | _ => r.cover.all fun g => (s.lessee (lineOf g)).isNone)

/-- Whether a request that the next record of its home's log names goes ahead of an earlier one, which is another candidate for the same choice and not
from the same source on the ordered class (R187, R382). -/
def State.namedBefore (s : State) (h : HomeId) (r e : Req) : Bool :=
  match s.homeChoice h r, s.homeChoice h e with
  | some x, some y =>
    s.forcing x.core x.kind && x.key == y.key && !(r.ord && r.src == e.src) &&
    (match s.nextCrumb x.die x.key with | some n => x.named n && !y.named n | none => false)
  | _, _ => false

/-- Whether an earlier request at a home holds a request back (R187, R382). -/
def State.heldBy (s : State) (h : HomeId) (r e : Req) : Bool := r.behind e && !s.namedBefore h r e

/-- Whether the k-th arrival of a home may be performed now: nothing earlier holds it back, and the home admits it. -/
def State.mayServe (s : State) (h : HomeId) (k : Nat) (r : Req) : Bool :=
  let x := s.home h
  !((x.arrivals.take k).any fun e => s.heldBy h r e) && !(x.replay.any fun e => s.heldBy h r e.1) && s.admits h r

/-- The first arrival that may be performed, from index k on. -/
def State.pickArrival (s : State) (h : HomeId) (k : Nat) : List Req → Option (Nat × Req)
  | [] => none
  | r :: rest => if s.mayServe h k r then some (k, r) else State.pickArrival s h (k + 1) rest

/-- A request that waits for its turn in the log is held (R382, R384). None for any other. -/
def State.holdReq (s : State) (h : HomeId) (r : Req) : Option State :=
  match s.homeChoice h r, r.op with
  | some x, _ => if s.choiceOpen x then none else some (s.holdChoice x)
  | none, .topkRd token _ _ => if s.mailOpen r.core token then none else some (s.holdChoice (s.mailChoice r.core token))
  | none, _ => none

/-- A lease is used by an atomic performed under it (R192). -/
def State.touchLease (s : State) (h : HomeId) (line : Nat) : State :=
  match h with
  | .quadUnit q =>
    s.modQuad (q % 512) fun k => { k with leases := k.leases.map fun l => if l.line = line then { l with last := s.clock } else l }
  | _ => s

/-- Perform a request whose turn has come: its place is logged, it takes its bank, and the home does what it asks. -/
def State.performReq (s : State) (h : HomeId) (r : Req) : Option State :=
  let s := s.noteOpt (s.homeChoice h r)
  match s.homeCore h with
  | some c => (s.takeBank c r).serveAt h r
  | none => (s.serveAt h r).map fun s => s.touchLease h (lineOf r.gran)

/-- Perform (R47): the oldest request of the home that may be performed; a busy bank sends it to the replay queue (R186). None
where nothing can be performed. `found`: the error of its granule (R189). -/
def State.performAt (s : State) (h : HomeId) (found : Nat) : Option State :=
  if s.homeIdle h then none else
  match s.pickArrival h 0 (s.home h).arrivals with
  | none => (s.home h).arrivals.findSome? (s.holdReq h)
  | some (k, r) =>
    let drop := fun (s : State) => s.modHome h fun x => { x with arrivals := listDel x.arrivals k }
    let busy := match s.homeCore h with | some c => s.bankIsBusy c r | none => false
    if busy then
      (if (s.home h).replay.length < 16 then some ((drop s).modHome h fun x => { x with replay := x.replay ++ [(r, s.clock + 2)] })
       else none)
    else ((s.tested r.gran found).performReq h r).map drop

/-- A step that a home makes of its own: the k-th ring operation in progress, or at a bridge the k-th locked read-modify-write (R193,
R203). -/
def State.homeStep (s : State) (h : HomeId) (k : Nat) : Option State :=
  match h with
  | .bridge g => s.unlock (g % 8) k
  | _ => s.holdStep h k

/-- The retry of a replayed request (R186): each retry counts a conflict; a bank still busy is retried 2 cycles later. `found`: the error of its
granule (R189). -/
def State.replayAt (s : State) (c k found : Nat) : Option State :=
  let h : HomeId := .core (s.gcore c)
  match (s.home h).replay[k]? with
  | none => none
  | some (r, t) =>
    if t > s.clock ∨ s.homeIdle h = true then none else
    let b := s.bankAt c r.gran
    let s := s.modCore c fun x => { x with bankCtr := x.bankCtr.set b (min (x.bankCtr.get b 0 + 1) (2 ^ 32 - 1)) }
    if s.bankIsBusy c r then some (s.modHome h fun x => { x with replay := listSet x.replay k (r, s.clock + 2) })
    else if !s.admits h r then s.holdReq h r
    else ((s.tested r.gran found).performReq h r).map fun s => s.modHome h fun x => { x with replay := listDel x.replay k }

/-! ## Deliver and Answer (R47, R57) -/

/-- Deliver (R47): a request moves into the arrival queue of its home; one for a core of a context that is switched out is held
(R126). None where it may not. -/
def State.deliverAt (s : State) (k : Nat) : Option State :=
  match s.flight[k]? with
  | none => none
  | some p =>
    match p.body with
    | .req r =>
      if !s.mayMove k p then none
      else match s.homeCore p.dst with
        | some c =>
          if s.switchedOut c p.ctx then s.holdCtx k p c
          else if (s.home p.dst).arrivals.length < arrivalCap p.dst then
            some ((s.dropFlight k).modHome p.dst fun x => { x with arrivals := x.arrivals ++ [r] })
          else none
        | none =>
          if (s.home p.dst).arrivals.length < arrivalCap p.dst then
            some ((s.dropFlight k).modHome p.dst fun x => { x with arrivals := x.arrivals ++ [r] })
          else none
    | _ => none

/-- A response reaches an activation that is on its core now, and the predictor learns (R191). -/
def State.answerLive (s : State) (k c act seq part : Nat) (r : Resp) : Option State :=
  if !s.optOpen (s.answerChoice c act seq part r) then some (s.optHold (s.answerChoice c act seq part r)) else
  let line := match s.getAct c act with
    | some t => (match t.out.find? fun a => a.seq == seq with | some a => lineOf (a.grans.headD 0) | none => 0)
    | none => 0
  let s := (s.dropFlight k).answer c act seq part r
  some (if r.sameQuad then s.trainUp c line else s)

/-- Whether an answer is for a tagged load of a die that has confirmed a halt, so that it is discarded (R167). -/
def State.tooLate (s : State) (c act seq : Nat) : Bool :=
  s.switching (dieOf c) &&
  (match s.getAct c act with
   | some t => t.out.any fun a => a.seq == seq && (match a.dest with | .slot _ _ => true | _ => false)
   | none => false)

/-- Answer (R47): a response reaches its strand, or the image of a context that is switched out (R122, R126). -/
def State.answerAt (s : State) (k : Nat) : Option State :=
  match s.flight[k]? with
  | none => none
  | some p =>
    if !s.passes p then none else
    match p.body, p.dst with
    | .resp act seq part r, .core g =>
      let c := g % 2048
      let d := dieOf c
      if s.tooLate c act seq then some (s.dropFlight k)
      else if (s.getAct c act).isSome then s.answerLive k c act seq part r
      else match s.saved.find? fun e => e.1 % 8 == d && ((s.exchange e.1).getAct c act).isSome with
        | some e => ((s.exchange e.1).answerLive k c act seq part r).map fun s => s.exchange e.1
        | none => s.answerLive k c act seq part r
    | _, _ => none

/-- A posted write reaches the host coherence point (R61): the k-th entry, with none before it on its granules, and no lock on them
(R193). -/
def State.flushAt (s : State) (d k : Nat) : Option State :=
  match (s.die d).posted[k]? with
  | none => none
  | some p =>
    if (((s.die d).posted.take k).any fun x => x.meets p.cover) || s.locked p.cover then none
    else some ((s.modDie d fun x => { x with posted := listDel x.posted k }).writePosted d p)

/-! ## Leases (R192) -/

/-- Perform every atomic queued at a quad's unit for a line, oldest first. -/
def State.serveLine (s : State) (q line : Nat) : State :=
  let h : HomeId := .quadUnit (s.pkg * 512 + q)
  let mine := (s.home h).arrivals.filter fun r => lineOf r.gran == line
  let s := s.modHome h fun x => { x with arrivals := x.arrivals.filter fun r => lineOf r.gran != line }
  mine.foldl (fun s r => (s.serve h r).getD s) s

/-- Give a lease back to its home. -/
def State.returnLease (s : State) (q line : Nat) : State :=
  (s.serveLine q line).modQuad q fun k => { k with leases := k.leases.filter fun l => l.line != line }

/-- The least recently used lease of a quad. -/
def oldestLease (ls : List Lease) : Option Lease :=
  ls.foldl (fun best l => match best with | none => some l | some b => if l.last < b.last then some l else some b) none

/-- The home that owns a line of a quad's lease. -/
def State.lineHome (s : State) (q line : Nat) : HomeId := homeOf (s.gdie (dieOfQuad q)) (line * 512)

/-- Whether a request is to a line. -/
def Req.onLine (r : Req) (line : Nat) : Bool := r.cover.any fun g => lineOf g == line

/-- The atomics that wait at a quad's unit for a line that may not be leased go to its home after all (R190). -/
def State.sendFar (s : State) (q line : Nat) : State :=
  let h : HomeId := .quadUnit (s.pkg * 512 + q)
  let mine := (s.home h).arrivals.filter fun r => r.onLine line
  let s := s.modHome h fun x => { x with arrivals := x.arrivals.filter fun r => !r.onLine line }
  mine.foldl (fun s r => s.post (homeKey h) (s.lineHome q line) r.ord (.req r)) s

/-- Whether a line lies in a local memory whose core has not the context of a quad's die now (R126). -/
def State.lineAway (s : State) (q line : Nat) : Bool :=
  match s.homeCore (s.lineHome q line) with
  | some c => s.switchedOut c (s.ctxOf (dieOfQuad q))
  | none => false

/-- A home hands a line to a quad's atomic unit (R192 steps 1 and 4): an atomic waits there, nobody holds the line, and its
home has no earlier request to it. A line with an armed watch is not handed on (R190), nor one of a core whose context is switched out (R126). -/
def State.grantLease (s : State) (q line : Nat) : Option State :=
  let x := s.home (s.lineHome q line)
  let waits := (s.home (.quadUnit (s.pkg * 512 + q))).arrivals.any fun r => r.onLine line
  let earlier := (x.arrivals.any fun r => r.onLine line) || (x.replay.any fun r => r.1.onLine line) ||
    x.holds.any fun y => y.block.any fun g => lineOf g == line
  if !waits || (s.lessee line).isSome || earlier then none
  else if s.lineAway q line || x.watch.any fun w => lineOf w.gran == line then some (s.sendFar q line)
  else
    let s := if (s.quad q).leases.length ≥ 16 then
        (match oldestLease (s.quad q).leases with | some l => s.returnLease q l.line | none => s) else s
    some (s.modQuad q fun k => { k with leases := k.leases ++ [⟨line, s.clock⟩] })

/-- A lease comes back because somebody else wants the line, and the quad's predictor learns (R191, R192 step 3). -/
def State.recallNow (s : State) (q line : Nat) : State :=
  (s.returnLease q line).modQuad q fun k =>
    { k with predictor := k.predictor.set (predIndex line) (k.predictor.get (predIndex line) 0 - 2) }

/-- A recall (R192 step 3, R191): a request waits at the line's home. -/
def State.recallLease (s : State) (q line : Nat) : Option State :=
  let x := s.home (s.lineHome q line)
  let wanted := (x.arrivals.any fun r => r.onLine line) || x.replay.any fun r => r.1.onLine line
  if !wanted || s.lessee line != some q then none else some (s.recallNow q line)

/-- An idle return (R192 step 4): no atomic for 2,048 cycles. -/
def State.idleLease (s : State) (q line : Nat) : Option State :=
  match (s.quad q).leases.find? fun l => l.line == line with
  | some l => if s.clock ≥ l.last + 2048 then some (s.returnLease q line) else none
  | none => none

end Sys2Proof.Machine
end

