-- ==== Sys2Proof/Machine/LoadStore.lean ====
section
/-! DEFINITION. Synchronous and vector loads and stores, and COMMIT (R146 to R152), with acquire loads and release stores
(R194). -/

namespace Sys2Proof.Machine

/-- A synchronous load of n bits at ea issues (R146), cut as `step` says: checked as it issues, its value written by its answer (R47, R49). -/
def State.loadAt (s : State) (ea : Word) (n step : Nat) (dest : Dest) (f : Access → Access) : Out :=
  State.checked (s.resolve s.ci s.user .load ea n) fun ls s =>
    .next ((s.issue (f (mkLoad ea s.me.region (cutsOf step ea.toNat n ls) dest))).retire 32)

/-- A store of the low n bits of a value at ea (R147): checked as it issues, then held in the region buffer, an entry for each granule
(R15, R39). -/
def State.storeTo (s : State) (ea : Word) (n step v : Nat) (rel : Option Scope) : Out :=
  State.checked (s.resolve s.ci s.user .store ea n) fun ls s =>
    s.bufferStore (cutsOf step ea.toNat n ls).length (fun seq => storeEntries seq step rel ea.toNat n v ls) (·.retire 32)

/-- A scalar load. -/
def State.loadScalar (s : State) (ea : Word) (w : Nat) (dest : Dest) (f : Access → Access) : Out :=
  s.loadAt ea w (scalarStep ea.toNat w) dest f

/-- A scalar store. -/
def State.storeScalar (s : State) (ea : Word) (w v : Nat) (rel : Option Scope) : Out :=
  s.storeTo ea w (scalarStep ea.toNat w) v rel

/-- LD (R146). -/
def execLd (w : Width) (x : Bool) (d a : Reg) (off : BitVec 10) (s : State) : Out :=
  s.loadScalar (s.ea a off w.bits) w.bits (.sreg d w.bits x) id

/-- ST (R147). -/
def execSt (w : Width) (d a : Reg) (off : BitVec 10) (s : State) : Out :=
  s.storeScalar (s.ea a off w.bits) w.bits (s.rd d).toNat none

/-- LDV (R150): the 1,024 bits at ea. -/
def execLdv (w : Width) (d a : Reg) (off : BitVec 9) (s : State) : Out :=
  if s.isBound d then s.streamTrap d else s.loadAt (s.ea a off 1024) 1024 (vectorStep (s.ea a off 1024).toNat w.bits) (.vreg d w.bits) id

/-- STV (R150): 16 entries, or 17, each of which drains as its elements, or its granules, do (R38, R39; entry 55, DEDUCED). -/
def execStv (w : Width) (d a : Reg) (off : BitVec 9) (s : State) : Out :=
  if s.isBound d then s.streamTrap d else
  let ea := s.ea a off 1024
  State.checked (s.resolve s.ci s.user .store ea 1024) fun ls s =>
    s.bufferStore (cutsOf 64 ea.toNat 1024 ls).length (fun seq => (storeEntries seq 64 none ea.toNat 1024 (s.rdV d).toNat ls).map
      fun e => { e with step := vectorStep ea.toNat w.bits }) (·.retire 32)

/-- The addresses of an indexed vector access (R151). -/
def State.indexed (s : State) (w : Nat) (a i : Reg) : List Word :=
  (upFrom 0 (1024 / w)).map fun e => s.rd a + sextW w (elemOf (s.rdV i).toNat w e) * ofN w

/-- Of two stops, each with its element's address: a wait, so that every element is known, or else the one at the lower address, be it a page
fault or a trap (R151; entry 56, DESIGN CHOICE). -/
def lowerStop (x : Option (Word × Stop)) (y : Word × Stop) : Option (Word × Stop) :=
  match x with
  | none => some y
  | some z => if z.2 = .wait then some z else if y.2 = .wait ∨ y.1.toNat < z.1.toNat then some y else some z

/-- A stop of an indexed access reports the element's address (R151). -/
def elemStop (ea : Word) (x : Stop) : Stop :=
  match x with
  | .trap code tag _ => .trap code tag ea
  | .page k a => .page k a
  | .wait => .wait

/-- Resolve every element of an indexed access into its cuts; the stop of the lowest faulting address, if any (R151). -/
def State.resolveElems (s : State) (kind : AccKind) (w : Nat) : List Word → (List (Word × List Cut) × Option (Word × Stop)) × State
  | [] => (([], none), s)
  | ea :: rest =>
    match s.resolve s.ci s.user kind ea w with
    | (.ok ls, s) =>
      let ((xs, bad), s) := State.resolveElems s kind w rest
      (((ea, cutsOf (vectorStep ea.toNat w) ea.toNat w ls) :: xs, bad), s)
    | (.error e, s) =>
      let ((xs, bad), s) := State.resolveElems s kind w rest
      ((xs, lowerStop bad (ea, elemStop ea e)), s)

/-- Each element's pieces over reads of its own, from the k-th up. -/
def elemPieces (k : Nat) : List (List Cut) → List (List Piece)
  | [] => []
  | xs :: rest => cutPieces k xs :: elemPieces (k + xs.length) rest

/-- LDVX (R151): a load for each element; those in one granule are performed in ascending order. Where vd and vi are both bound, vd is reported (entry 57,
DESIGN CHOICE); the address that MEMERR reports is s[base] (entry 58, DESIGN CHOICE). -/
def execLdvx (w : Width) (d a i : Reg) (s : State) : Out :=
  if s.isBound d then s.streamTrap d else if s.isBound i then s.streamTrap i else
  match s.resolveElems .load w.bits (s.indexed w.bits a i) with
  | ((_, some (_, e)), s) => .next (s.stop e)
  | ((xs, none), s) =>
    let cs := xs.map (·.2)
    .next ((s.issue (mkAccess (s.rd a) (readParts s.me.region cs.flatten) (elemPieces 0 cs) (.vreg d w.bits))).retire 32)

/-- The region-buffer entries of an indexed store, element by element in ascending order (R151), one for each element and granule
(entry 76, DESIGN CHOICE). -/
def scatterEntries (w v : Nat) : List (Word × List Cut) → Nat → Nat → List BufEntry
  | [], _, _ => []
  | (_, cs) :: rest, e, seq => cutEntries seq seq none (elemOf v w e) cs ++ scatterEntries w v rest (e + 1) (seq + cs.length)

/-- STVX (R151). Where vd and vi are both bound, vd is reported (entry 57, DESIGN CHOICE). -/
def execStvx (w : Width) (d a i : Reg) (s : State) : Out :=
  if s.isBound d then s.streamTrap d else if s.isBound i then s.streamTrap i else
  match s.resolveElems .store w.bits (s.indexed w.bits a i) with
  | ((_, some (_, e)), s) => .next (s.stop e)
  | ((xs, none), s) =>
    s.bufferStore (xs.foldl (fun n x => n + x.2.length) 0) (fun seq => scatterEntries w.bits (s.rdV d).toNat xs 0 seq) (·.retire 32)

/-- LD.ACQ (R194): a load that is an acquire at its scope (R53). -/
def execLdAcq (w : Width) (x : Bool) (sc : Scope) (d a : Reg) (off : BitVec 6) (s : State) : Out :=
  s.loadScalar (s.ea a off w.bits) w.bits (.sreg d w.bits x) fun acc => { acc with acquire := true, sysAcq := sc == .sys }

/-- ST.REL (R194): a store that drains only after every earlier access is performed at its scope (R52). -/
def execStRel (w : Width) (sc : Scope) (d a : Reg) (off : BitVec 6) (s : State) : Out :=
  s.storeScalar (s.ea a off w.bits) w.bits (s.rd d).toNat (some sc)

/-- COMMIT (R152). -/
def execCommit (s : State) : Out := s.atCommit [] (·.retire 32)

end Sys2Proof.Machine
end

