-- ==== Sys2Proof/Machine/Streams.lean ====
section
/-! DEFINITION. Streams: descriptors, pops and pushes, the tail mask (R251 to R257), STRM.CFG, STRM.END, STRM.POS and LOOPS
(R273 to R276). -/

namespace Sys2Proof.Machine

/-! ## Types -/

/-- The type of a code, if it is not reserved (R92). -/
def tyOpt (n : Nat) : Option Ty := match tyOf n with | .ok t => some t | .error _ => none

/-- The lane type of a code, if it is not reserved (R92). -/
def ltyOpt (n : Nat) : Option LTy := match ltyOf n with | .ok t => some t | .error _ => none

/-- The width of a width code 0 to 8 (R90). -/
def widthBits (n : Nat) : Option Nat := [1, 2, 3, 4, 6, 8, 16, 32, 64][n]?

/-- The type of a lane type; a bit type reads as the unsigned integer of its width. -/
def laneTy : LTy → Ty
  | .f32 => .f32 | .bf16 => .bf16 | .f16 => .f16
  | .i8 => .i8 | .i16 => .i16 | .i32 => .i32 | .i64 => .i64
  | .n8 | .b8 => .n8 | .n16 | .b16 => .n16 | .n32 | .b32 => .n32 | .n64 | .b64 => .n64

/-- The signed integer type of a lane type's width. -/
def signedTy : LTy → Ty
  | .i8 | .n8 | .b8 => .i8
  | .f32 | .i32 | .n32 | .b32 => .i32
  | .bf16 | .f16 | .i16 | .n16 | .b16 => .i16
  | .i64 | .n64 | .b64 => .i64

/-- The integer type a lane is read and written as beside a memory type (R255): a b lane takes the memory's signedness. -/
def laneAs (l : LTy) (m : Ty) : Ty := if l.isBit && m.isSigned then signedTy l else laneTy l

/-! ## Descriptors (R251, R252) -/

/-- What a stream's memory elements are: raw bits, or a type. -/
inductive MemTy where
  | raw (w : Nat)
  | ty (t : Ty)
  deriving DecidableEq, Repr

/-- The width of a memory element. -/
def MemTy.bits : MemTy → Nat
  | .raw w => w
  | .ty t => t.bits

/-- The word k of a stream's descriptor. -/
def Stream.word (x : Stream) (k : Nat) : Word := wordAt x.desc k
/-- DIR: true for a write stream. -/
def Stream.isWrite (x : Stream) : Bool := wbit (x.word 1) 21
/-- TAIL. -/
def Stream.isTail (x : Stream) : Bool := wbit (x.word 1) 6
/-- The lane type. -/
def Stream.lane (x : Stream) : LTy := (ltyOpt (wfld (x.word 1) 17 4)).getD .b64
/-- The memory type. -/
def Stream.mem (x : Stream) : MemTy :=
  if wbit (x.word 1) 7 then .raw ((widthBits (wfld (x.word 1) 8 4)).getD 64) else .ty ((tyOpt (wfld (x.word 1) 12 5)).getD .f32)
/-- N0, N1, N2. -/
def Stream.counts (x : Stream) : Nat × Nat × Nat := (wfld (x.word 2) 0 20, wfld (x.word 2) 20 20, wfld (x.word 2) 40 20)
/-- T. -/
def Stream.total (x : Stream) : Nat := x.counts.1 * x.counts.2.1 * x.counts.2.2
/-- The group size of a quantised stream (R68). -/
def groupSize (code : Nat) : Nat := 32 * 2 ^ code
/-- The address of the element of flat index f (R251). -/
def Stream.addr (x : Stream) (f : Nat) : Word :=
  let (n0, n1, _) := x.counts
  x.word 0 + ofN (f % n0) * x.word 3 + ofN (f / n0 % n1) * x.word 4 + ofN (f / n0 / n1) * x.word 5

/-- Whether memory and lane types pair (R255). -/
def pairing (m : MemTy) (l : LTy) : Bool :=
  match m with
  | .raw w => l.isBit && decide (w ≤ l.bits)
  | .ty t => if t.isQuant then l.isFp else if t.isInt then true else !l.isBit

/-- Whether a descriptor is rejected, but for a second tail stream (R251, R252). -/
def streamRejects (ws : List Word) : Bool :=
  let w1 := wordAt ws 1
  let w2 := wordAt ws 2
  let raw := wbit w1 7
  let mcode := wfld w1 12 5
  let wcode := wfld w1 8 4
  let grp := wfld w1 22 2
  let quant := !raw && (match tyOpt mcode with | some t => t.isQuant | none => false)
  let pairs := match ltyOpt (wfld w1 17 4) with
    | none => false
    | some l =>
      if raw then (match widthBits wcode with | some w => pairing (.raw w) l | none => false)
      else (match tyOpt mcode with | some t => pairing (.ty t) l | none => false)
  wfld w1 24 40 != 0 || wfld w1 0 6 != 0 || wfld w2 60 4 != 0 ||
  (raw && mcode != 0) || (!raw && wcode != 0) ||
  (!quant && (grp != 0 || wordAt ws 6 != 0 || wordAt ws 7 != 0)) || grp == 3 ||
  wfld w2 0 20 == 0 || wfld w2 20 20 == 0 || wfld w2 40 20 == 0 || !pairs ||
  (quant && wfld w2 0 20 % groupSize grp != 0)

/-! ## The tail (R254) -/

/-- The strand's tail stream, if one is bound. -/
def Strand.tailStream (t : Strand) : Option Stream :=
  (t.streams.find? fun x => match x with | some x => x.isTail | none => false).getD none

/-- Whether the tail mask enables element e. -/
def State.enabled (s : State) (e : Nat) : Bool :=
  match s.me.tailStream with
  | some x => decide (s.me.tail.q + e < x.total)
  | none => true

/-- The LaneWord of element e of a lane operation (R74, R254). -/
def State.laneL (s : State) (fp : FpEnv) (e : Nat) : Nat :=
  envLane fp (if s.me.tailStream.isSome then s.me.tail.iter % 2 ^ 24 else 0) e

/-! ## Loads of the instruction at pc (R256) -/

/-- A load that the instruction at pc makes for a lane: its address and width, and which of its loads at that address it is, so that each
element has a load of its own. -/
structure Want where
  addr  : Word
  n     : Nat
  which : Nat
  deriving DecidableEq, Repr

/-- The key under which the strand keeps its value. -/
def Want.key (x : Want) : Nat × Nat := (x.addr.toNat + 2 ^ 64 * x.which, x.n)

/-- What loading elements comes to: a stop, a wait for answers or for leave to issue, or the values of each group. -/
inductive Loaded where
  | stop (e : Stop)
  | wait
  | ok (vals : List (List Nat))
  deriving DecidableEq, Repr

/-- The values the instruction at pc has loaded for elements, each with its address; none where one is missing. -/
def Strand.gottenAll (t : Strand) : List Want → Option (List (Word × Option Nat))
  | [] => some []
  | x :: rest =>
    match t.gotten x.key.1 x.key.2, Strand.gottenAll t rest with
    | some v, some vs => some ((x.addr, v) :: vs)
    | _, _ => none

/-- The lowest address among elements with uncorrectable data. -/
def lowestBad (vs : List (Word × Option Nat)) : Option (Word × Stop) :=
  vs.foldl (fun best v => if v.2.isNone then lowerStop best (v.1, .trap cMEMERR 0 v.1) else best) none

/-- Resolve elements into their cuts; the stop of the lowest faulting address, if any (R257). -/
def State.cutElems (s : State) (kind : AccKind) : List (Word × Nat) → (List (Word × List Cut) × Option (Word × Stop)) × State
  | [] => (([], none), s)
  | (a, n) :: rest =>
    let (r, s) := s.resolve s.ci s.user kind a n
    let ((xs, bad), s) := State.cutElems s kind rest
    match r with
    | .ok ls => (((a, cutsOf (scalarStep a.toNat n) a.toNat n ls) :: xs, bad), s)
    | .error e => ((xs, lowerStop bad (a, elemStop a e)), s)

/-- The access that loads a group of elements for the instruction at pc, which waits for it, a load for each; like a vector load it takes one
entry of the outstanding table (R256; entry 46, DEDUCED). -/
def groupAccess (region : List BufEntry) (elems : List Want) (cuts : List (Word × List Cut)) : Access :=
  let cs := cuts.map (·.2)
  mkAccess (match elems with | x :: _ => x.addr | [] => 0) (readParts region cs.flatten) (elemPieces 0 cs) (.got (elems.map Want.key))

/-- The accesses of groups of elements that are not loaded yet, with the lowest stop. -/
def State.groupAccesses (s : State) : List (List Want) → (List Access × Option (Word × Stop)) × State
  | [] => (([], none), s)
  | g :: rest =>
    let g := g.eraseDups
    let ((xs, bad), s) := s.cutElems .load (g.map fun x => (x.addr, x.n))
    let ((as, worse), s) := State.groupAccesses s rest
    ((groupAccess s.me.region g xs :: as, match bad with | some y => lowerStop worse y | none => worse), s)

/-- The modes of the instruction at pc: as it issued its loads, or as they are now (R71, R255). -/
def State.laneEnv (s : State) : FpEnv := s.me.fpAt.getD (s.fpEnv s.ci)

/-- The instruction at pc issues loads: it has issued, and keeps its modes. -/
def State.issueMany (s : State) (as : List Access) : State :=
  as.foldl (fun s a => s.issue a) (s.modMe fun t => { t with fpAt := some s.laneEnv })

/-- Load groups of elements for the instruction at pc, an access for each group: it issues them all, waits, and is taken up again with the
values (R49, R51, R53 to R56). `bad`: a stop known beside those of the elements. -/
def State.loadMany (s : State) (bad : Option (Word × Stop)) (groups : List (List Want)) : Loaded × State :=
  match groups.mapM s.me.gottenAll with
  | some vs =>
    (match lowestBad vs.flatten with
     | some (_, e) => .stop e
     | none => .ok (vs.map fun g => g.map fun v => v.2.getD 0), s)
  | none =>
    let ((as, worse), s) := s.groupAccesses (groups.filter fun g => (s.me.gottenAll g).isNone)
    match (match bad with | some y => lowerStop worse y | none => worse) with
    | some (_, .wait) => (.wait, s)
    | some (_, e) => (.stop e, s)
    | none => (.wait, if s.mayLoad as.length (as.map Access.extents).flatten then s.issueMany as else s)

/-! ## Pops (R254 to R257) -/

/-- The elements a pop takes: their flat indices. -/
def Stream.popIndices (x : Stream) : List Nat :=
  upFrom x.pos (min (1024 / x.lane.bits) (x.total - x.pos))

/-- The reads of the element of a flat index: itself, and for a quantised stream its group's scale and zero point, which the elements of a group
share. `k`: the number of the stream among those the instruction accesses. -/
def Stream.elemReads (x : Stream) (k f : Nat) : List Want :=
  let own := 1 + f + 2 ^ 60 * k
  match x.mem with
  | .ty t =>
    if t.isQuant then
      let g := f / groupSize (wfld (x.word 1) 22 2)
      [⟨x.addr f, t.bits, own⟩, ⟨x.word 6 + ofN (16 * g), 16, 2 ^ 60 * k⟩, ⟨x.word 7 + ofN (t.bits * g), t.bits, 2 ^ 60 * k⟩]
    else [⟨x.addr f, t.bits, own⟩]
  | .raw w => [⟨x.addr f, w, own⟩]

/-- Convert a popped element to its lane (R255): an integer that fits an integer lane's width is extended by the memory type's signedness. -/
def popConvert (m : MemTy) (l : LTy) (fp : FpEnv) (lane : Nat) (vals : List Nat) : Nat × Nat :=
  match m with
  | .raw _ => (vals.headD 0, 0)
  | .ty t =>
    if t.isQuant then dequantize (laneTy l) fp lane (vals.headD 0) (fdecode .f16 fp.nanm (vals.getD 1 0)) (vals.getD 2 0)
    else if t.isInt && !l.isFp && decide (t.bits ≤ l.bits) then
      (if t.isSigned then ofSigned l.bits (toSigned t.bits (vals.headD 0)) else vals.headD 0, 0)
    else fconvert (laneAs l t) t fp lane (vals.headD 0)

/-- Group the values read into runs of k. -/
def runsOf (k : Nat) : Nat → List Nat → List (List Nat)
  | 0, _ => []
  | fuel + 1, xs => if xs.isEmpty then [] else xs.take k :: runsOf k fuel (xs.drop k)

/-- A popped vector: its register, its value and the flags of each element. -/
structure Popped where
  reg   : Reg
  value : Nat
  flags : List Nat
  deriving DecidableEq, Repr

/-- Convert what a pop read. -/
def State.popped (s : State) (fp : FpEnv) (r : Reg) (x : Stream) (vals : List Nat) : Popped :=
  let k := (x.elemReads 0 0).length
  let runs := runsOf k vals.length vals
  let conv := (runs.zip (upFrom 0 runs.length)).map fun p => popConvert x.mem x.lane fp (s.laneL fp p.2) p.1
  ⟨r, joinElems x.lane.bits (conv.map (·.1)), conv.map (·.2)⟩

/-- What the pops of an instruction come to. -/
inductive Pops where
  | stop (e : Stop)
  | wait
  | ok (ps : List Popped)
  deriving DecidableEq, Repr

/-- A misaligned scale array of a quantised stream (R251, R257). -/
def Stream.badScales (x : Stream) : Option (Word × Stop) :=
  match x.mem with
  | .ty t => if t.isQuant && !aligned (x.word 6) 16 then some (x.word 6, .trap cALIGN 0 (x.word 6)) else none
  | .raw _ => none

/-- The lowest stop of misaligned scale arrays. -/
def badScalesOf (xs : List Stream) : Option (Word × Stop) :=
  xs.foldl (fun best x => match x.badScales with | some y => lowerStop best y | none => best) none

/-- Pop a list of distinct bound registers (R254, R256, R257). -/
def State.popAll (s : State) (xs : List (Reg × Stream)) : Pops × State :=
  match s.loadMany (badScalesOf (xs.map (·.2))) (xs.map fun p => (p.2.popIndices.map (p.2.elemReads p.1.val)).flatten) with
  | (.stop e, s) => (.stop e, s)
  | (.wait, s) => (.wait, s)
  | (.ok vs, s) => (.ok ((xs.zip vs).map fun p => s.popped s.laneEnv p.1.1 p.1.2 p.2), s)

/-- Advance the position of a bound register by one vector (R254). -/
def State.advance (s : State) (r : Reg) : State :=
  s.modMe fun t =>
    { t with streams := listMod t.streams (r.val - 24) fun x => x.map fun x => { x with pos := min (x.pos + 1024 / x.lane.bits) x.total } }

/-! ## Pushes (R254 to R257) -/

/-- The value stored for one element, with its flags: the scale and zero point of a quantised stream come first in `more`. -/
def pushConvert (m : MemTy) (l : LTy) (fp : FpEnv) (lane v : Nat) (more : List Nat) : Nat × Nat :=
  match m with
  | .raw w => (v % 2 ^ w, 0)
  | .ty t =>
    if t.isQuant then
      quantize fp lane t.bits (fdecode (laneTy l) fp.nanm v) (fdecode .f16 fp.nanm (more.headD 0)) (more.getD 1 0)
    else fconvert t (laneAs l t) fp lane v

/-- The elements a push stores: for each its number in the vector, its flat index and its lane's value (R254). -/
def Stream.pushed (x : Stream) (elems : List (Option Nat)) : List (Nat × Nat × Nat) :=
  (elems.zip (upFrom 0 elems.length)).filterMap fun p =>
    match p.1 with
    | some v => if x.pos + p.2 < x.total then some (p.2, x.pos + p.2, v) else none
    | none => none

/-- The stores of a push: for each element written its address, width and value; with the flags. `mores`: the scale and zero point of each
element of a quantised stream. -/
def State.planPush (s : State) (fp : FpEnv) (x : Stream) : List (Nat × Nat × Nat) → List (List Nat) → List (Word × Nat × Nat) × Nat
  | [], _ => ([], 0)
  | (e, f, v) :: rest, mores =>
    let (w, fl) := pushConvert x.mem x.lane fp (s.laneL fp e) v (mores.headD [])
    let (ps, fls) := State.planPush s fp x rest mores.tail
    ((x.addr f, x.mem.bits, w) :: ps, orFlags fl fls)

/-- The region-buffer entries of a push, element by element (R256). -/
def pushEntries : List ((Word × Nat × Nat) × Word × List Cut) → Nat → List BufEntry
  | [], _ => []
  | ((_, n, v), _, cs) :: rest, seq => cutEntries seq seq none (v % 2 ^ n) cs ++ pushEntries rest (seq + cs.length)

/-- Push a vector to a bound write stream, with the other effects of the instruction (R254, R256, R257). -/
def State.push (s : State) (r : Reg) (x : Stream) (elems : List (Option Nat)) (fin : State → State) : Out :=
  let fp := s.laneEnv
  let out := x.pushed elems
  match s.loadMany x.badScales [(out.map fun p => (x.elemReads r.val p.2.1).tail).flatten] with
  | (.stop e, s) => .next (s.stop e)
  | (.wait, s) => .next s
  | (.ok mores, s) =>
    let (stores, flags) := s.planPush fp x out (runsOf 2 out.length mores.flatten)
    match s.cutElems .store (stores.map fun p => (p.1, p.2.1)) with
    | ((_, some (_, e)), s) => .next (s.stop e)
    | ((cuts, none), s) =>
      let cs := (cuts.map (·.2)).flatten
      if s.scored s.ci (cs.map Cut.extent) then .next s
      else s.bufferStore cs.length (pushEntries (stores.zip cuts)) fun s => fin ((s.addFlags flags).advance r)

/-! ## The instructions of major 0x2E, and LOOPS -/

/-- Unbind a register (R274): it reads zero afterwards. -/
def State.unbind (s : State) (r : Reg) : State :=
  if s.isBound r then
    s.modMe fun t => { t with streams := listSet t.streams (r.val - 24) none, regs := t.regs.wrV r 0 }
  else s

/-- STRM.CFG (R252, R273). -/
def execStrmCfg (_sc : Scope) (d a : Reg) (s : State) : Out :=
  let addr := s.rd a
  if !aligned addr 512 then .next (s.trap cALIGN addr) else
  s.readLocal addr 8 fun ws s =>
    let x : Stream := ⟨ws, 0⟩
    let others := (listSet s.me.streams (d.val - 24) none).any fun y => match y with | some y => y.isTail | none => false
    if d.val < 24 || streamRejects ws || (x.isTail && others) then .next (s.trap cSTREAM addr)
    else
      let s := s.unbind d
      let s := s.modMe fun t =>
        { t with streams := listSet t.streams (d.val - 24) (some x), tail := if x.isTail then ⟨0, 0⟩ else t.tail }
      .next (s.retire 32)

/-- STRM.END (R274). -/
def execStrmEnd (_sc : Scope) (d : Reg) (s : State) : Out := .next ((s.unbind d).retire 32)

/-- STRM.POS (R275). -/
def execStrmPos (_sc : Scope) (d a : Reg) (s : State) : Out :=
  s.setReg d (match s.boundStream a with | some x => ofN x.pos | none => BitVec.allOnes 64)

/-- LOOPS (R276). -/
def execLoops (off : BitVec 14) (s : State) : Out :=
  match s.me.tailStream with
  | none => .next (s.trap cSTREAM (BitVec.allOnes 64))
  | some x =>
    if x.pos < x.total then
      let s := s.modMe fun t => { t with tail := ⟨x.pos, (t.tail.iter + 1) % 2 ^ 24⟩ }
      .next (s.jump (s.me.pc + sextI off * 16))
    else .next (s.retire 32)

end Sys2Proof.Machine
end

