-- ==== Sys2Proof/Machine/Engine.lean ====
section
/-! DEFINITION. What the engines share: the issue procedure of a command (R315, R346, R376), the range scoreboard (R55, R319), a command's
one step where it has one, completion, timelines and notices (R24, R25, R317), and faults after start (R295, R322). -/

namespace Sys2Proof.Machine

/-! ## The geometry of a copy (R314, R318) -/

/-- The first destination bit of each row of a copy descriptor (R314). -/
def dstRowsOf (ws : List Word) : List Word := (upFrom 0 (wfld (wordAt ws 2) 48 16)).map fun r => wordAt ws 1 + ofN r * wordAt ws 5

/-- ROWS. -/
def Cmd.rows (x : Cmd) : Nat := wfld (wordAt x.desc 2) 48 16
/-- LEN. -/
def Cmd.len (x : Cmd) : Nat := wfld (wordAt x.desc 2) 0 48
/-- The type a code names, for CPY.CVT; f32 where it names none. -/
def tyCode (n : Nat) : Ty := (tyOpt n).getD .f32
/-- The bits of a destination row. -/
def Cmd.dstBits (x : Cmd) : Nat := if x.op = 2 then x.len * (tyCode (wfld (wordAt x.desc 6) 5 5)).bits else x.len
/-- The bits of a source row. -/
def Cmd.srcBits (x : Cmd) : Nat := if x.op = 2 then x.len * (tyCode (wfld (wordAt x.desc 6) 0 5)).bits else x.len
/-- The first source bit of a row. -/
def Cmd.srcRow (x : Cmd) (r : Nat) : Word := wordAt x.desc 0 + ofN r * wordAt x.desc 4
/-- The first destination bit of a row. -/
def Cmd.dstRow (x : Cmd) (r : Nat) : Word := wordAt x.desc 1 + ofN r * wordAt x.desc 5
/-- Every row's first destination bit. -/
def Cmd.dstRows (x : Cmd) : List Word := dstRowsOf x.desc

/-- A chunk: its row, its first bit in the destination row and its bits. -/
structure Chunk where
  row : Nat
  lo  : Nat
  n   : Nat
  deriving DecidableEq, Repr

/-- The number of chunks of 1,024 destination bits. -/
def Cmd.chunks (x : Cmd) : Nat := x.rows * ceilDiv x.dstBits 1024

/-- The k-th chunk in chunk order; a cell between packages takes the one after it in the row too (R369). -/
def Cmd.chunk (x : Cmd) (peer : Bool) (k : Nat) : Chunk :=
  let per := ceilDiv x.dstBits 1024
  let lo := k % per * 1024
  ⟨k / per, lo, min (if peer then 2048 else 1024) (x.dstBits - lo)⟩

/-- The source bits a chunk needs: the first, how many, and for CPY.CVT the first element. -/
def Cmd.chunkSrc (x : Cmd) (h : Chunk) : Word × Nat × Nat :=
  if x.op = 2 then
    let w6 := wordAt x.desc 6
    let dw := (tyCode (wfld w6 5 5)).bits
    let sw := (tyCode (wfld w6 0 5)).bits
    let e0 := h.lo / dw
    let e1 := (h.lo + h.n - 1) / dw
    (x.srcRow h.row + ofN (e0 * sw), (e1 + 1 - e0) * sw, e0)
  else (x.srcRow h.row + ofN h.lo, h.n, 0)

/-- The chunks of a started command that are still to be performed: of their rows, what is read and what is written. -/
def Cmd.chunksLeft (x : Cmd) (peer : Bool) : List (Word × Nat) × List (Word × Nat) :=
  let hs := (upFrom x.pos (x.chunks - x.pos)).map (x.chunk peer)
  (hs.map fun h => ((x.chunkSrc h).1, (x.chunkSrc h).2.1), hs.map fun h => (x.dstRow h.row + ofN h.lo, h.n))

/-! ## Issue -/

/-- Whether the running strand has committed and waits at a release of its instruction (R52). -/
def State.gated (s : State) : Bool := s.me.gate

/-- An instruction at a commit point that is a release (R16, R17, R52): it commits once, waits at the instruction until every earlier
access is performed at its scope and fences let it go, and has its effect (entry 23, DEDUCED). `ws`: the weight stores it is to load. -/
def State.atGateFor (s : State) (ws : List Nat) (sc : Scope) (k : State → Out) : Out :=
  let go := fun (t : State) => if t.me.allBefore t.pkg sc t.me.seq && t.me.storesLet t.pkg t.me.seq then k t else .next t
  if s.gated then go s
  else match s.commit [] with
    | .error t => .next t
    | .ok t => go (t.modMe fun x => { x with gate := true, wsGate := ws })

/-- The same for an instruction that loads no weight store. -/
def State.atGate (s : State) (sc : Scope) (k : State → Out) : Out := s.atGateFor [] sc k

/-- The same for an instruction whose effect is one step; none from the effect makes it wait there. -/
def State.atReleaseFor (s : State) (ws : List Nat) (sc : Scope) (effect : State → Option State) : Out :=
  s.atGateFor ws sc fun t => match effect t with | some u => .next u.checkpoint | none => .next t

/-- The same for an instruction that loads no weight store. -/
def State.atRelease (s : State) (sc : Scope) (effect : State → Option State) : Out := s.atReleaseFor [] sc effect

/-- The checks of an instruction, made before it commits and not again (R96). -/
def State.beforeCommit (s : State) (checks : State → (State → Out) → Out) (k : State → Out) : Out := if s.gated then k s else checks s k

/-- The checks of a counter address a command names, 0 for none (R20, R34, R281). -/
def State.namedCounter (s : State) (a : Word) (kind : AccKind) (k : State → Out) : Out :=
  if a = 0 then k s else s.counterAddr State.stopAt a kind fun _ s => k s

/-- The cause a bit of a command's address range raises at issue (R34), if any. -/
def State.bitCause (s : State) (kind : AccKind) (a : Word) : Option Nat :=
  if wbit a 63 then s.winCheck s.ci s.user kind a 1 else none

/-- Whether n bits at a window address go past the end of what the window reaches (R34). -/
def pastEnd (a : Word) (n : Nat) : Bool := wbit a 63 && decide ((winSpan a).1 + n > (winSpan a).2)

/-- The checks of R34 on a range of n bits: its first bit, whether it goes past the end of what its window reaches, which comes before any PROT,
and its last bit; the cause and the bit that raises it. -/
def State.rangeCause (s : State) (kind : AccKind) (a : Word) (n : Nat) : Option (Nat × Word) :=
  let last := a + ofN (n - 1)
  match s.bitCause kind a with
  | some code => if code != cWINDOW && pastEnd a n then some (cWINDOW, last) else some (code, a)
  | none => if pastEnd a n then some (cWINDOW, last) else (s.bitCause kind last).map fun code => (code, last)

/-- Whether n bits at an address, to be written, reach host memory, as far as they translate now: page by page, `fuel` of them. -/
def State.hostFrom (s : State) : Nat → Nat → Nat → Bool
  | 0, _, _ => false
  | fuel + 1, a, n =>
    n != 0 &&
    ((match s.devGran s.ci s.user .store a with | .ok l => isHost l.phys | .error _ => false) ||
      State.hostFrom s fuel (a / 2 ^ 19 * 2 ^ 19 + 2 ^ 19) (n - min n (2 ^ 19 - a % 2 ^ 19)))

/-- Whether a run of n bits reaches host memory; windows reach none. -/
def State.inHost (s : State) (a : Word) (n : Nat) : Bool := !wbit a 63 && s.hostFrom (n / 2 ^ 19 + 2) a.toNat n

/-- Check a command's address ranges in order, each with its length in bits (R34, R315; entry 24, DEDUCED). -/
def State.checkRanges (s : State) (kind : AccKind) (k : State → Out) : List (Word × Nat) → Out
  | [] => k s
  | x :: rest =>
    match s.rangeCause kind x.1 x.2 with
    | some (code, at_) => .next (s.trap code at_)
    | none => State.checkRanges s kind k rest

/-- PROT at issue where a run of what a command is to write reaches host memory, with the run's first bit (R302, R346, R376). -/
def State.noHost (s : State) (runs : List (Word × Nat)) (k : State → Out) : Out :=
  match runs.find? fun r => s.inHost r.1 r.2 with
  | some r => .next (s.trap cPROT r.1)
  | none => k s

/-- The TL word of a command's descriptor (R317); 0 where the descriptor has none. -/
def tlWord (major op : Nat) (ws : List Word) : Word :=
  match major, op with
  | 0x34, _ => wordAt ws 7
  | 0x35, 1 | 0x35, 2 => wordAt ws 4
  | 0x36, 1 | 0x36, 3 => wordAt ws 4
  | 0x36, 2 => wordAt ws 2
  | 0x37, _ => wordAt ws 5
  | _, _ => 0

/-- The timeline mirror address of a TL word (R317). -/
def tlAddr (tl : Word) : Word := tl >>> 6 <<< 6

/-- The commands a queue holds (R313, R328, R368, R295). -/
def queueCap : Nat := 16

/-- A command of the running strand, with what it samples at issue (R71, R317). -/
def State.mkCmd (s : State) (major op n : Nat) (ws : List Word) (addr ctr : Word) : Cmd :=
  let k := s.myCore
  { major := major, op := op, n := n, desc := ws, addr := addr, ctr := ctr, user := s.user, fp := s.fpEnv s.ci,
    det := wbit k.det 0, enote := k.enote, act := s.me.act, pos := 0, amt := 0, cells := 0, flags := 0, tally := [], start := s.clock, sent := false,
    bad := none, gave := 0, took := 0 }

/-- The dies of the weight stores that rows of a WS.LOAD name. -/
def wsDies (rows : List Word) : List Nat := (rows.map fun a => wfld a 47 3).eraseDups

/-- The weight stores a command is to load (R325). -/
def loadedStores (major op : Nat) (ws : List Word) : List Nat := if major = 0x34 ∧ op = 4 then wsDies (dstRowsOf ws) else []

/-- The issue procedure of R315: ALIGN, the descriptor, its field rules, the checks of its addresses, the counter, then the commit
and the release; a full queue holds the strand. -/
def State.engIssue (s : State) (i : Instr) (major op : Nat) (sc : Scope) (d a : Reg) (ctr : Word) (eng : List Word → Nat)
    (bad : List Word → Bool) (checks : List Word → State → (State → Out) → Out) (more : Cmd → State → State) : Out :=
  let addr := s.rd a
  if !aligned addr 512 then .next (s.trap cALIGN addr) else
  s.readDesc addr 8 fun ws s =>
    let tl := tlWord major op ws
    s.beforeCommit (fun s k =>
      if bad ws || wfld tl 1 5 != 0 || (wbit tl 0 && wfld s.myCore.enote 4 60 == 0) then s.ill i
      else checks ws s fun s =>
        s.namedCounter (tlAddr tl) (.atomic false) fun s =>
          s.namedCounter ctr (.atomic false) k) fun s =>
      s.atReleaseFor (loadedStores major op ws) sc fun s =>
        let k := eng ws
        let x := s.eng s.ci k
        if x.queue.length ≥ queueCap then none
        else
          let cmd := s.mkCmd major op (x.seq + 1) ws addr ctr
          let s := s.modEng s.ci k fun x => { x with queue := x.queue ++ [cmd], seq := x.seq + 1 }
          some ((more cmd (s.wr d (ofN (x.seq + 1)))).retire 32)

/-! ## Own memory (R55, R319) -/

/-- The bits of the core's own local memory a run of n bits through a window covers, lowest and highest, if any. -/
def State.ownSpan (s : State) (c : Nat) (a : Word) (n : Nat) : Option (Nat × Nat) :=
  if !wbit a 63 || n == 0 then none else
  match s.winDecode c a with
  | none => none
  | some w =>
    if w.kind = 12 then none
    else if w.kind = 10 then
      let q := wfld a 47 3 * 64 + wfld a 41 6
      if quadOf c ≠ q then none else
      let m := rowOf c % 2 * 2 + colOf c % 2
      let o := wfld a 0 27
      let last := min (o + n) (2 ^ 27) - 1
      let g0 := o / 1024
      let g1 := last / 1024
      let gm := g0 + (m + 4 - g0 % 4) % 4
      let gl := g1 - (g1 % 4 + 4 - m) % 4
      if gm > g1 then none
      else some (gm / 4 * 1024 + (if gm = g0 then o % 1024 else 0), gl / 4 * 1024 + if gl = g1 then last % 1024 else 1023)
    else if w.pkg = s.pkg ∧ coreAt w.die w.row w.col = c then some (w.off, min (w.off + n) (2 ^ 25) - 1)
    else none

/-- The least range that covers two. -/
def joinSpan (x y : Option (Nat × Nat)) : Option (Nat × Nat) :=
  match x, y with
  | none, y => y
  | x, none => x
  | some (a, b), some (p, q) => some (min a p, max b q)

/-- The range of own memory that runs of n bits cover. -/
def State.ownSpans (s : State) (c n : Nat) (as : List Word) : Option (Nat × Nat) :=
  as.foldl (fun acc a => joinSpan acc (s.ownSpan c a n)) none

/-- The scoreboard entries of a core (R55). -/
def rangeCap : Nat := 16

/-- The number by which a command's scoreboard entry is known. -/
def cmdTag (k n : Nat) : Nat := n * 16 + k

/-- Take a scoreboard entry for writes that an activation has started; none when all are in use. A range is kept by physical address. -/
def State.takeSpan (s : State) (c tag act : Nat) (span : Option (Nat × Nat)) : Option State :=
  match span with
  | none => some s
  | some (lo, hi) =>
    if (s.core c).ranges.length ≥ rangeCap then none
    else
      let base := localAddr (s.gcore c) 0
      some (s.modCore c fun x => { x with ranges := x.ranges ++ [⟨base + lo, base + hi, tag, act⟩] })

/-- Take a scoreboard entry for a started command. -/
def State.takeRange (s : State) (c k : Nat) (cmd : Cmd) (span : Option (Nat × Nat)) : Option State := s.takeSpan c (cmdTag k cmd.n) cmd.act span

/-- Send what the activations of a core have waiting. -/
def State.pumpCore (s : State) (c : Nat) : State :=
  let s := (strandsOf c).foldl (fun s sid => s.pump c (s.strand sid).act) s
  (((s.core c).images ++ (s.core c).ended).map (·.act)).foldl (fun s act => s.pump c act) s

/-- A scoreboard entry retires. -/
def State.dropTag (s : State) (c tag : Nat) : State :=
  if (s.core c).ranges.any fun r => r.tag == tag then
    (s.modCore c fun x => { x with ranges := x.ranges.filter fun r => r.tag != tag }).pumpCore c
  else s

/-- A command's scoreboard entry retires. -/
def State.dropRange (s : State) (c k n : Nat) : State := s.dropTag c (cmdTag k n)

/-- Whether a granule lies in a core's own local memory. -/
def State.ownGran (s : State) (c g : Nat) : Bool := decide (g / 2 ^ 25 = localAddr (s.gcore c) 0 / 2 ^ 25)

/-- Whether a started command has sent every write it makes into the core's own local memory: a copy, when no chunk to come reaches it; cells of a
collective under way write none. -/
def State.ownSent (s : State) (c k : Nat) (x : Cmd) : Bool :=
  if k < 4 then (x.chunksLeft false).2.all fun r => (s.ownSpan c r.1 r.2).isNone else x.sent && (k == 6 || x.cells == 0)

/-- A started command's scoreboard entry retires once its last write into the core's own local memory is performed (R319). -/
def State.dropSpent (s : State) (c k : Nat) (x : Cmd) : State :=
  if s.ownSent c k x && !((s.io (s.unitKey c k x.n)).puts.any (s.ownGran c)) then s.dropRange c k x.n else s

/-! ## Writes of the running strand's own instruction (R304, R361) -/

/-- The unit number of the writes that the running strand's instruction makes at their homes. -/
def State.ownKey (s : State) : Nat := s.unitKey s.ci 13 (s.cur % 8)

/-- The instruction that made them is over, and so is its unit, but for writes that are not yet at `.sys`. -/
def State.ownOver (s : State) : State :=
  let left := (s.io s.ownKey).posted
  ({ s with ios := if left.isEmpty then s.ios.erase s.ownKey else s.ios.set s.ownKey { Io.init with posted := left } }.retire 32).checkpoint

/-- Send writes of the running strand's instruction, which is then at a phase; or, where one meets a fault, as `fail` says. -/
def State.ownSend (s : State) (xs : List Put) (phase : Nat) (fail : State → Nat → Nat → State) : Out :=
  let key := s.ownKey
  let put := fun (s : State) =>
    match s.engPutAll s.ci s.user false isWs xs with
    | (s, some e) => (Except.error e, s)
    | (s, none) => (.ok (), s)
  match s.asUnit s.ci key false put with
  | .ok _ s => .next (s.modIo key fun x => { x with phase := phase })
  | .bad cause addr s => .next (fail s cause addr)
  | .wait t => .next (t.getD s)

/-- Go on once the writes of the running strand's instruction are performed, or, where one met a fault, as `fail` says. -/
def State.ownDone (s : State) (fail : State → Nat → Nat → State) (k : State → Out) : Out :=
  if !s.putsDone s.ownKey then .next s
  else match (s.io s.ownKey).bad with
    | some (cause, addr) => .next (fail s cause addr)
    | none => k s

/-- Send the writes of the running strand's instruction; once they are performed it goes on. -/
def State.ownWrite (s : State) (xs : List Put) (fail : State → Nat → Nat → State) (k : State → Out) : Out :=
  if (s.io s.ownKey).phase = 0 then s.ownSend xs 1 fail else s.ownDone fail k

/-! ## Completion (R24, R25, R317) -/

/-- The engine notice of a command (R317). -/
def State.noticeOf (s : State) (c k : Nat) (cmd : Cmd) (status : Nat) : Msg :=
  ⟨cmd.enote >>> 4 <<< 4,
   header (wfld cmd.enote 0 2) (b2n cmd.fp.nanm) (b2n cmd.det) 5 (s.core c).rank (cmd.n % 2 ^ 32),
   ofN (cmd.op * 2 ^ 16 + cmd.major * 2 ^ 8 + if cmd.major = 0x34 then k else 0),
   ofN cmd.n, ofN status, cmd.addr, cmd.ctr, 0⟩

/-- Send the notices of a context whose commands' mirror and counter adds are performed (R317). -/
def State.sendNotes (s : State) (c k : Nat) : State :=
  let due := (s.eng c k).notes.filter fun y => s.putsDone (s.unitKey c k y.1.n)
  if due.isEmpty then s else
  due.foldl (fun s y => s.sendMsg c (s.gcore c) (s.noticeOf c k y.1 y.2))
    (s.modEng c k fun x => { x with notes := x.notes.filter fun y => !due.contains y })

/-- The timeline reaches a command (R24, R315, R317): its mirror, then its notice. -/
def State.reachCmd (s : State) (c k : Nat) (cmd : Cmd) (status : Nat) : State :=
  let tl := tlWord cmd.major cmd.op cmd.desc
  let s := s.modEng c k fun x =>
    { x with tl := cmd.n, fin := x.fin.filter fun y => y.1.n != cmd.n, notes := if wbit tl 0 then x.notes ++ [(cmd, status)] else x.notes }
  if tlAddr tl = 0 then s else s.deviceOp c (s.unitKey c k cmd.n) (tlAddr tl) (.cmax (ofN cmd.n)) 6

/-- Advance a timeline over the commands that are over (R24). -/
def State.advanceTl (s : State) (c k : Nat) : Nat → State
  | 0 => s
  | fuel + 1 =>
    let x := s.eng c k
    match x.fin.find? fun y => y.1.n == x.tl + 1 with
    | some (cmd, status) => State.advanceTl (s.reachCmd c k cmd status) c k fuel
    | none => s

/-- Add to the Sifter counts of a core (R335). -/
def State.countSift (s : State) (c : Nat) (add : List Nat) : State :=
  if add.isEmpty then s else s.modCore c fun k => { k with sift := (upFrom 0 6).map fun i => (k.sift.getD i 0 + add.getD i 0) % 2 ^ 64 }

/-- A command is over with a status (R315, R322, R374): its amount goes to its counter when it completed, its range retires, and the
timeline advances. -/
def State.endCmd (s : State) (c k : Nat) (cmd : Cmd) (status amount : Nat) : State :=
  let key := s.unitKey c k cmd.n
  let s := (s.dropReads key).countSift c (if status = 0 then cmd.tally else [])
  let s := if status = 0 ∧ cmd.ctr ≠ 0 ∧ amount ≠ 0 then s.deviceOp c key cmd.ctr (.cadd (ofN amount)) 6 else s
  let gone := fun (y : Cmd) => y.n != cmd.n
  let s := s.modEng c k fun x =>
    { x with queue := x.queue.filter gone, run := x.run.filter gone, fin := x.fin ++ [(cmd, status)], flags := orFlags x.flags cmd.flags }
  let s := s.dropRange c k cmd.n
  (s.advanceTl c k ((s.eng c k).fin.length + 1)).sendNotes c k

/-- The fault record of a command that stopped (R295, R322). -/
def State.cmdFault (s : State) (c : Nat) (cmd : Cmd) (cause addr : Nat) : State :=
  s.postFault c 2 cause (ofN addr) 0 0 (cmd.major * 256 + cmd.op) [cmd.addr]

/-- Change a started command of a context; context 7 stands for the matrix command queue. -/
def State.modRun (s : State) (c k n : Nat) (f : Cmd → Cmd) : State :=
  let g := fun (y : Cmd) => if y.n = n then f y else y
  if k = 7 then s.modCore c fun x => { x with mrun := x.mrun.map g }
  else s.modEng c k fun x => { x with run := x.run.map g }

/-- The started commands of a context, or of the matrix command queue. -/
def State.runs (s : State) (c k : Nat) : List Cmd := if k = 7 then (s.core c).mrun else (s.eng c k).run

/-- A started command meets a fault: nothing more is done for it until it is stopped (R322). -/
def State.stopRun (s : State) (c k n cause addr : Nat) : State :=
  s.modRun c k n fun y => if y.bad.isNone then { y with bad := some (cause, addr) } else y

/-- The head of a context's queue starts. -/
def State.startCmd (s : State) (c k : Nat) (cmd : Cmd) : State :=
  s.modEng c k fun x => { x with queue := x.queue.drop 1, run := x.run ++ [{ cmd with start := s.clock }] }

/-- An event that may not happen now changes nothing. -/
def State.orStay (s : State) (r : Option State) : Out := .next (r.getD s)

/-- Whether a die does engine work: not while a census cut holds it (R389), nor during a context switch (R293, R323, R347). -/
def State.dieRuns (s : State) (d : Nat) : Bool := (s.die d).frozen == 0 && (s.die d).switch.isNone

/-- Whether a die finishes engine work that must be over before its context is saved (R293, R295, R323). -/
def State.dieFinishes (s : State) (d : Nat) : Bool :=
  decide ((s.die d).frozen < 2) && (match (s.die d).switch with | some w => decide (w.phase < 2) | none => true)

/-- What a step of a command's work comes to: the amount for its counter, the flags of the step, whether it is the last, and the
counts of SIFT.STAT it adds (R335). -/
structure Done where
  amount : Nat
  flags  : Nat
  last   : Bool
  tally  : List Nat := []
  deriving DecidableEq, Repr

/-- What a step of a command's work comes to, or what stops it. -/
abbrev EngWork := Except EngStop Done × State

/-- A step of a started command's work; when its last write is sent and all are performed, `fin` ends it. None where it still waits. -/
def State.stepCmd (s : State) (c k : Nat) (x : Cmd) (fin : State → Cmd → State) (work : State → EngWork) : Option State :=
  let key := s.unitKey c k x.n
  if x.bad.isSome then none
  else if x.sent then (if s.putsDone key then some (fin s x) else none)
  else match s.asUnit c key true work with
    | .ok r s =>
      let y := { x with sent := r.last, pos := x.pos + 1, amt := r.amount, flags := orFlags x.flags r.flags, tally := r.tally }
      let s := s.modRun c k x.n fun _ => y
      some (if r.last && s.putsDone key then fin s y else s.dropSpent c k y)
    | .bad cause addr s => some (s.stopRun c k x.n cause addr)
    | .wait t => t

/-- A step of the oldest command of a context that runs one at a time, where it may go on: it starts, reads and writes, step by step, and, when its writes
are performed, is over (R59, R322). None where it still waits. `span` is the range of own memory it writes (R55). -/
def State.runOneIf (s : State) (go : Bool) (c k : Nat) (span : State → Cmd → Option (Nat × Nat)) (work : State → Cmd → EngWork) : Option State :=
  if !go then none else
  match (s.eng c k).run.head? with
  | none => (s.eng c k).queue.head?.bind fun x => (s.takeRange c k x (span s x)).map fun s => s.startCmd c k x
  | some x => s.stepCmd c k x (fun s y => s.endCmd c k y 0 y.amt) fun s => work s x

/-- The same while the core's die does engine work. -/
def State.runOne (s : State) (c k : Nat) (span : State → Cmd → Option (Nat × Nat)) (work : State → Cmd → EngWork) : Option State :=
  s.runOneIf (s.dieRuns (dieOf c)) c k span work

/-! ## Answers to units -/

/-- A granule leaves a die's row cache, and a GATH that has asked for it there does not place it again (R332 to R334). -/
def State.dropRow (s : State) (d gran : Nat) : State :=
  let here := fun (e : Nat × Io) => unitKind e.1 == 4 && dieOf (unitCore e.1) == d && (e.2.asked.contains gran || e.2.got.any fun y => y.1 == gran)
  let s := s.modDie d fun k => { k with rowCache := k.rowCache.erase gran }
  { s with ios := s.ios.map fun (e : Nat × Io) => if here e then (e.1, { e.2 with stale := gran :: e.2.stale }) else e }

/-- The granules a SCAT has written leave its die's row cache (R333). -/
def State.uncache (s : State) (c k n gran : Nat) : State :=
  if k = 4 ∧ ((s.runs c k).any fun x => x.n == n && x.op == 2) = true then s.dropRow (dieOf c) gran else s

/-- What a settled write means to the command of an engine of a running context: its flags count (R79; entry 72, DEDUCED), a refused one
stops it (R21, R322), its range may retire, and its notice may go. -/
def State.unitSettled (s : State) (c k n gran flags : Nat) : State :=
  let key := s.unitKey c k n
  let s := (s.modRun c k n fun x => { x with flags := orFlags x.flags flags }).uncache c k n gran
  let s := match (s.io key).bad with
    | some (cause, addr) => (s.modIo key fun x => { x with bad := none }).stopRun c k n cause addr
    | none => s
  let s := match (s.runs c k).find? fun x => x.n == n with | some x => s.dropSpent c k x | none => s
  if k < 7 then s.sendNotes c k else s

/-- An answer settles what a unit has under way; the command of an engine is found in its context, switched out or not. -/
def State.unitAnswer (s : State) (key gran addr : Nat) (write : Bool) (r : Resp) : State :=
  let s := if r.kind = .sysNow ∧ (s.ios.all fun e => e.1 != key) = true then s else s.modIo key fun x => x.settle gran addr write r
  let c := unitCore key
  if !write || decide (unitKind key > 7) then s
  else if s.ctxOf (dieOf c) = unitCtx key then s.unitSettled c (unitKind key) (unitSeq key) gran r.flags
  else
    let x := savedKey (unitCtx key) (dieOf c)
    if s.saved.any fun e => e.1 == x then ((s.exchange x).unitSettled c (unitKind key) (unitSeq key) gran r.flags).exchange x else s

/-- Answer (R47): a response reaches a unit. -/
def State.unitAnswerAt (s : State) (k : Nat) : Option State :=
  match s.flight[k]? with
  | none => none
  | some p =>
    match p.body with
    | .unitResp key gran addr write r => if !s.passes p then none else some ((s.dropFlight k).unitAnswer key gran addr write r)
    | _ => none

end Sys2Proof.Machine
end

