-- ==== Sys2Proof/Machine/Copy.lean ====
section
/-! DEFINITION. The copy engine and the weight store: major 0x34 and the steps of a copy command (R313 to R327). -/

namespace Sys2Proof.Machine

/-! ## Descriptors (R314) -/

/-- The copy context. -/
def copyCtx (ws : List Word) : Nat := wfld (wordAt ws 6) 10 2
/-- The byte count of a command (R314). -/
def Cmd.bytes (x : Cmd) : Nat := ceilDiv (x.rows * x.dstBits) 8

/-- The type codes of CPY.CVT (R314, R320). -/
def plainCode (n : Nat) : Bool := decide (n ≤ 8) || (decide (16 ≤ n) && decide (n ≤ 27))

/-- Whether a descriptor breaks the field rules of its op (R314, R320, R326). -/
def copyBad (op : Nat) (ws : List Word) : Bool :=
  let w2 := wordAt ws 2
  let w6 := wordAt ws 6
  wfld w2 48 16 == 0 || wfld w2 0 48 == 0 || wfld w6 60 4 != 0 || wfld w6 12 8 != 0 ||
  (op == 0 && (wfld w2 48 16 != 1 || wordAt ws 4 != 0 || wordAt ws 5 != 0)) ||
  (if op = 2 then !plainCode (wfld w6 5 5) || !plainCode (wfld w6 0 5) else wfld w6 20 40 != 0 || wfld w6 0 10 != 0) ||
  (op != 2 && op != 3 && wordAt ws 3 != 0)

/-! ## Issue (R315, R326, R327) -/

/-- Whether a weight store is in read phase or has been asked to be (R325, R327). -/
def State.wsClosed (s : State) (d : Nat) : Bool := (s.die d).wsPhase || (s.die d).wsWant == some true

/-- The first bit of a row of n bits in the weight-store window that the window does not reach, if any (R33, R34): the row's own where it is no
address of the window, or its last. -/
def State.wsPast (s : State) (n : Nat) (a : Word) : Option Word :=
  if (s.winDecode s.ci a).isNone || decide (wfld a 0 38 ≥ 2 ^ 35) then some a
  else if pastEnd a n then some (a + ofN (n - 1)) else none

/-- The checks of WS.LOAD's destination: every row in the weight-store window, PROT otherwise; then the phase (R327). -/
def State.wsChecks (s : State) (x : Cmd) (k : State → Out) : Out :=
  let dies := wsDies x.dstRows
  let dst := wordAt x.desc 1
  match x.dstRows.find? fun a => wfld a 60 4 != 12 with
  | some a => .next (s.trap cPROT a)
  | none =>
    match x.dstRows.findSome? (s.wsPast x.dstBits) with
    | some a => .next (s.trap cWINDOW a)
    | none =>
      if s.user && dies.any fun d => !wbit (s.ctxRegs (dieOf s.ci)).wbound (36 + d) then .next (s.trap cPROT dst)
      else if dies.any s.wsClosed then .next (s.trap cWSPHASE dst)
      else k s

/-- The address checks of a copy command (R34, R315). -/
def State.copyChecks (s : State) (op : Nat) (ws : List Word) (k : State → Out) : Out :=
  let x := s.mkCmd 0x34 op 0 ws 0 0
  let last := x.rows - 1
  s.checkRanges .load (fun s =>
    let dst := fun (k : State → Out) =>
      if op = 4 then s.wsChecks x k else s.checkRanges .store k [(x.dstRow 0, x.dstBits), (x.dstRow last, x.dstBits)]
    dst fun s => if op = 2 then s.namedCounter (wordAt ws 3) (.atomic false) k else k s)
    [(x.srcRow 0, x.srcBits), (x.srcRow last, x.srcBits)]

/-- A member of major 0x34. -/
def State.copy (s : State) (i : Instr) (op : Nat) (sc : Scope) (d a b : Reg) : Out :=
  s.engIssue i 0x34 op sc d a (s.rd b) copyCtx (copyBad op) (fun ws s k => s.copyChecks op ws k) fun _ s => s

/-- CPY (R326). -/
def execCpy (sc : Scope) (d a b : Reg) (s : State) : Out := s.copy (.cpy sc d a b) 0 sc d a b
/-- CPY2D (R326). -/
def execCpy2d (sc : Scope) (d a b : Reg) (s : State) : Out := s.copy (.cpy2d sc d a b) 1 sc d a b
/-- CPY.CVT (R320). -/
def execCpyCvt (sc : Scope) (d a b : Reg) (s : State) : Out := s.copy (.cpyCvt sc d a b) 2 sc d a b
/-- PUT.SIG (R321). -/
def execPutSig (sc : Scope) (d a b : Reg) (s : State) : Out := s.copy (.putSig sc d a b) 3 sc d a b
/-- WS.LOAD (R327). -/
def execWsLoad (sc : Scope) (d a b : Reg) (s : State) : Out := s.copy (.wsLoad sc d a b) 4 sc d a b

/-! ## Starting (R316, R319) -/

/-- The commands of a context that run at once (R316). -/
def copyRuns : Nat := 4

/-- A copy context starts its next command; a destination in own memory takes a scoreboard entry. -/
def State.copyStart (s : State) (c k : Nat) : Option State :=
  let x := s.eng c k
  match x.queue.head? with
  | none => none
  | some cmd =>
    if k > 3 || decide (x.run.length ≥ copyRuns) || !s.dieRuns (dieOf c) then none
    else (s.takeRange c k cmd (s.ownSpans c cmd.dstBits cmd.dstRows)).map fun s => s.startCmd c k cmd

/-- COPY_COMMAND_START (R316, R319): pick.a the core, pick.b the copy context. -/
def execCopyCommandStart (s : State) : Out := s.orStay (s.copyStart s.pick.a s.pick.b)

/-! ## Chunks (R318) -/

/-- Whether two addresses use one window, and for direct windows one core, die or quad (R318). -/
def State.oneWindow (s : State) (c : Nat) (a b : Word) : Bool :=
  if !wbit a 63 && !wbit b 63 then true
  else if wfld a 60 4 != wfld b 60 4 then false
  else match s.winDecode c a, s.winDecode c b with
    | some v, some w =>
      if v.kind = 10 then wfld a 27 37 == wfld b 27 37
      else v.pkg == w.pkg && v.die == w.die && v.row == w.row && v.col == w.col
    | _, _ => false

/-- The least and greatest bit that rows of n bits reach. -/
def runSpan (rows : List Word) (n : Nat) : Nat × Nat :=
  (rows.foldl (fun m a => min m a.toNat) (2 ^ 64), rows.foldl (fun m a => max m (a.toNat + n)) 0)

/-- Whether a command copies within one window with overlap (R318). -/
def State.overlaps (s : State) (c : Nat) (x : Cmd) : Bool :=
  let p := runSpan ((upFrom 0 x.rows).map x.srcRow) x.srcBits
  let q := runSpan x.dstRows x.dstBits
  s.oneWindow c (x.srcRow 0) (x.dstRow 0) && decide (p.1 < q.2) && decide (q.1 < p.2)

/-- Whether the next chunk of a command writes to another package, as far as it translates (R369). -/
def State.toPeer (s : State) (c : Nat) (x : Cmd) : Bool :=
  let h := x.chunk false x.pos
  (gransOf (x.dstRow h.row + ofN h.lo).toNat h.n).any fun g =>
    match s.devGran c x.user .store g with
    | .ok l => isPeer s.pkg l.phys
    | .error _ => false

/-- Convert n elements of a row from element e0 on (R320): the destination bits and the flags. -/
def Cmd.convert (x : Cmd) (row e0 n v : Nat) : Nat × Nat :=
  let w6 := wordAt x.desc 6
  let dt := tyCode (wfld w6 5 5)
  let st := tyCode (wfld w6 0 5)
  let rs := (upFrom 0 n).map fun e =>
    fconvert dt st x.fp (laneWord x.fp.srseed (wfld w6 40 20) (wfld w6 20 20) (row % 2 ^ 24) ((e0 + e) % 64)) (elemOf v st.bits e)
  (joinElems dt.bits (rs.map (·.1)), rs.foldl (fun fl r => orFlags fl r.2) 0)

/-- The bits a chunk writes and its flags, from its source bits. -/
def Cmd.chunkVal (x : Cmd) (h : Chunk) (v e0 : Nat) : Nat × Nat :=
  if x.op = 2 then
    let dw := (tyCode (wfld (wordAt x.desc 6) 5 5)).bits
    let r := x.convert h.row e0 ((h.lo + h.n - 1) / dw + 1 - e0) v
    (r.1 / 2 ^ (h.lo - e0 * dw) % 2 ^ h.n, r.2)
  else (v, 0)

/-- The source rows of a command, each with its bits. -/
def Cmd.srcRuns (x : Cmd) : List (Word × Nat) := (upFrom 0 x.rows).map fun r => (x.srcRow r, x.srcBits)

/-- The granules of runs of bits that an access of a kind reaches, as far as they translate. -/
def State.runGrans (s : State) (c : Nat) (user : Bool) (kind : AccKind) (runs : List (Word × Nat)) : List Nat :=
  (runs.map fun r => ((gransOf r.1.toNat r.2).map fun g =>
    let lo := max r.1.toNat g
    match s.devGran c user kind g with
    | .ok l => (cutsOf 8 lo (min (r.1.toNat + r.2) (g + 64) - lo) [l]).map (·.grain)
    | .error _ => []).flatten).flatten

/-- The granules of runs of bits that a copy command writes: those of a WS.LOAD in a weight store (R327). -/
def State.writeGrans (s : State) (c : Nat) (x : Cmd) (runs : List (Word × Nat)) : List Nat :=
  if x.op = 4 then (runs.map fun r => (gransOf (wfld r.1 0 35) r.2).map fun g => wsAddr (wfld r.1 47 3) g).flatten
  else s.runGrans c x.user .store runs

/-- The granules of cells of a command that are under way (R370). -/
def State.cellGrans (s : State) (c k n : Nat) : List Nat :=
  (s.flight.map fun p => match p.body with
    | .cell y => if y.core = c ∧ y.eng = k ∧ y.n = n then y.grans.map (·.1) else []
    | _ => []).flatten

/-- The granule that a CPY.CVT has still to OR its flags into (R320), as a run. -/
def Cmd.auxRun (x : Cmd) : List (Word × Nat) := if x.op = 2 ∧ wordAt x.desc 3 ≠ 0 ∧ x.pos ≤ x.chunks then [(wordAt x.desc 3, 64)] else []

/-- The granules a started command has still to write: chunks to come, the flags of a CPY.CVT, and writes and cells under way. -/
def State.unwritten (s : State) (c k : Nat) (e : Cmd) : List Nat :=
  s.writeGrans c e (e.chunksLeft false).2 ++ s.runGrans c e.user (.atomic false) e.auxRun ++ (s.io (s.unitKey c k e.n)).puts ++ s.cellGrans c k e.n

/-- Whether a chunk need not wait for an earlier command of its context, nor for a cell of its own (R316, R318). -/
def State.chunkFree (s : State) (c k : Nat) (earlier : List Cmd) (x : Cmd) (src dst : List (Word × Nat)) : Bool :=
  let rs := s.runGrans c x.user .load src
  let ws := s.writeGrans c x dst
  !meet rs (s.cellGrans c k x.n) &&
  earlier.all fun e =>
    let out := s.unwritten c k e
    !meet rs out && !meet ws out && !meet ws (s.runGrans c e.user .load (e.chunksLeft false).1)

/-- Whether the flags of a CPY.CVT need not wait for an earlier command of its context (R316). -/
def State.auxFree (s : State) (c k : Nat) (earlier : List Cmd) (x : Cmd) : Bool :=
  let a := s.runGrans c x.user (.atomic false) x.auxRun
  earlier.all fun e => !meet a (s.unwritten c k e) && !meet a (s.runGrans c e.user .load (e.chunksLeft false).1)

/-- A cell of a command, with its masked writes and its number in the transfer (R369). -/
def mkCell (c k : Nat) (x : Cmd) (seq : Nat) (dst : Word) (n : Nat) (es : List BufEntry) : Cell :=
  ⟨es.map fun e => (e.gran, e.mask, e.bits), dst.toNat, ceilDiv n 8, c, k, x.n, seq, false⟩

/-- Send a cell through the next port that is up (R369): none where none is. -/
def State.sendCell (s : State) (c : Nat) (dst : HomeId) (y : Cell) : Option State :=
  if s.upPorts.isEmpty then none
  else some { s with spray := s.spray + 1, flight := s.flight ++
    [⟨srcCore (s.gcore c), dst, false, false, s.clock, s.ctxOf (dieOf c), none, false, false, false, s.upPorts[s.spray % s.upPorts.length]?, .cell y⟩] }

/-- Write a chunk, or send it to another package as a cell (R369). -/
def State.writeChunk (s : State) (c k : Nat) (x : Cmd) (peer : Bool) (dst : Word) (n v : Nat) : State × Option EngStop :=
  if !peer then s.engWrite c x.user (x.op == 4) dst n v
  else match s.resolve c x.user .store dst n with
    | (.error e, s) => (s, some (engStopOf e))
    | (.ok ls, s) =>
      let es := (storeEntries 0 8 none dst.toNat n v ls).foldl mergeEntry []
      match s.logAll c es with
      | none => (s, some .wait)
      | some t =>
        match t.sendCell c (t.homeFor c (ls.headD ⟨0, false, none⟩).phys) (mkCell c k x x.pos dst n es) with
        | some t => (t, none)
        | none => (s, some .wait)

/-- The work of a chunk: what is to be read first, its own source, then its writes; its flags. -/
def State.chunkWork (s : State) (c k : Nat) (x : Cmd) (peer : Bool) (first : List (Word × Nat)) (h : Chunk) : Except EngStop Nat × State :=
  let (src, n, e0) := x.chunkSrc h
  match s.engRuns c x.user (fun _ => false) first with
  | (.error e, s) => (.error e, s)
  | (.ok _, s) =>
    match s.engRead c x.user src n with
    | (.error e, s) => (.error e, s)
    | (.ok v, s) =>
      let (bits, fl) := x.chunkVal h v e0
      match s.writeChunk c k x peer (x.dstRow h.row + ofN h.lo) h.n bits with
      | (s, some e) => (.error e, s)
      | (s, none) => (.ok fl, s)

/-- What the next chunk of a started command reads and writes (R318); to begin with a command that overlaps itself reads every source row. -/
def State.nextRuns (s : State) (c : Nat) (x : Cmd) : List (Word × Nat) × List (Word × Nat) :=
  let h := x.chunk (s.toPeer c x) x.pos
  (if s.overlaps c x && x.pos == 0 then x.srcRuns else [((x.chunkSrc h).1, (x.chunkSrc h).2.1)], [(x.dstRow h.row + ofN h.lo, h.n)])

/-- Whether a command that runs to completion at a halt waits for a started command before it (R316, R323). -/
def State.heldUp (s : State) (c k i : Nat) : Bool :=
  let run := (s.eng c k).run
  ((run.zip (upFrom 0 run.length)).drop (i + 1)).any fun y =>
    s.overlaps c y.1 && y.1.bad.isNone && !y.1.sent && !s.chunkFree c k (run.take y.2) y.1 (s.nextRuns c y.1).1 (s.nextRuns c y.1).2

/-- Whether a core's die lets the i-th started command of a copy context go on: through a halt one that overlaps itself, or that one waits for
(R323). -/
def State.copyGoes (s : State) (c k i : Nat) (whole : Bool) : Bool :=
  s.dieRuns (dieOf c) || (s.dieFinishes (dieOf c) && (whole || s.heldUp c k i))

/-- One chunk of the i-th started command of a context (R318): its granules are read and written in any order, each at its home. A command that
overlaps itself within one window reads every source row first, and goes on through a halt (R323). None where it still waits. -/
def State.copyStep (s : State) (c k i : Nat) : Option State :=
  let run := (s.eng c k).run
  match run[i]? with
  | none => none
  | some x =>
    let whole := s.overlaps c x
    if k > 3 || x.bad.isSome || x.sent || !s.copyGoes c k i whole then none else
    let peer := s.toPeer c x
    let h := x.chunk peer x.pos
    let first := (s.nextRuns c x).1
    if !s.chunkFree c k (run.take i) x first (s.nextRuns c x).2 then none else
    match s.asUnit c (s.unitKey c k x.n) whole fun s => s.chunkWork c k x peer first h with
    | .ok fl s =>
      let pos := x.pos + ceilDiv h.n 1024
      let y := { x with pos := pos, flags := orFlags x.flags fl, cells := x.cells + b2n peer, sent := decide (pos ≥ x.chunks) }
      some ((s.modRun c k x.n fun _ => y).dropSpent c k y)
    | .bad cause addr s => some (s.stopRun c k x.n cause addr)
    | .wait t => t

/-- COPY_CHUNK (R318): pick.a the core, pick.b the context, pick.c the started command. -/
def execCopyChunk (s : State) : Out := s.orStay (s.copyStep s.pick.a s.pick.b s.pick.c)

/-! ## Completion (R315, R320, R321) -/

/-- Whether a command has still to OR its flags into the granule at AUX (R320). -/
def Cmd.owesFlags (x : Cmd) : Bool := x.op == 2 && wordAt x.desc 3 != 0 && x.pos == x.chunks

/-- RED.OR of the flags of a CPY.CVT into the granule at AUX (R320). -/
def State.orFlagsAt (s : State) (c : Nat) (x : Cmd) : Except EngStop Unit × State :=
  let aux := wordAt x.desc 3
  match s.resolve c x.user (.atomic false) aux 64 with
  | (.error e, s) => (.error (engStopOf e), s)
  | (.ok ls, s) =>
    match s.unitAtomic c (ls.headD ⟨0, false, none⟩) aux.toNat (.amo .or 0 64 (ofN x.flags) 0 x.fp) with
    | (s, some e) => (.error e, s)
    | (s, none) => (.ok (), s)

/-- What a completed command adds to s[b] at its end (R315, R321): a transfer between packages is counted cell by cell (R370), and the bytes of
cells that were lost are missing (R374) (entry 25, DEDUCED). -/
def Cmd.copyAmount (x : Cmd) : Nat :=
  if x.op = 3 then (if x.amt ≠ 0 then 0 else if wordAt x.desc 3 = 0 then x.bytes else (wordAt x.desc 3).toNat)
  else x.bytes - x.amt

/-- A command whose every chunk is performed ORs its flags, and then completes. -/
def State.copyDone (s : State) (c k i : Nat) : Option State :=
  match (s.eng c k).run[i]? with
  | none => none
  | some x =>
    let key := s.unitKey c k x.n
    if k > 3 || x.bad.isSome || !x.sent || x.cells != 0 || !s.putsDone key || !s.dieFinishes (dieOf c) then none
    else if x.owesFlags then
      if !s.auxFree c k ((s.eng c k).run.take i) x then none else
      match s.asUnit c key false fun s => s.orFlagsAt c x with
      | .ok () s => some (s.modRun c k x.n fun y => { y with pos := y.pos + 1 })
      | .bad cause addr s => some (s.stopRun c k x.n cause addr)
      | .wait t => t
    else some (s.endCmd c k x 0 x.copyAmount)

/-- COPY_COMMAND_COMPLETE (R315, R317): pick.a the core, pick.b the context, pick.c the started command. -/
def execCopyCommandComplete (s : State) : Out := s.orStay (s.copyDone s.pick.a s.pick.b s.pick.c)

/-! ## The weight store (R324, R325) -/

/-- WS_BANK_REFRESH (R324): a bank's refresh window opens by the cycle count, which ctl.wsref and the bank read; nothing else
changes. -/
def execWsBankRefresh (s : State) : Out := .next s

/-- Whether a WS.LOAD of a die is queued or started on a core. -/
def Core.wsLoading (k : Core) (d : Nat) : Bool :=
  (upFrom 0 4).any fun j =>
    ((k.engs.get j EngCtx.init).queue ++ (k.engs.get j EngCtx.init).run).any fun x => x.op == 4 && x.dstRows.any fun a => wfld a 47 3 == d

/-- Whether a WS.LOAD of a die has issued and waits at its release, is queued or started, in a context that runs or is switched out (R325). -/
def State.wsLoading (s : State) (d : Nat) : Bool :=
  (s.cores.any fun e => e.2.wsLoading d) || (s.strands.any fun e => e.2.wsGate.contains d) ||
  s.saved.any fun x => (x.2.cores.any fun e => e.2.wsLoading d) || x.2.strands.any fun e => e.2.wsGate.contains d

/-- Whether a write waits at a weight-store bank of a die, or is on its way there. -/
def State.wsWriting (s : State) (d : Nat) : Bool :=
  (upFrom 0 32).any fun b =>
    let h : HomeId := .bank (s.gdie d) b
    (s.home h).arrivals.any (·.op.writes) || s.flight.any fun y => y.dst == h && (match y.body with | .req r => r.op.writes | _ => false)

/-- Whether a load is queued at a weight-store bank of a die. -/
def State.wsReading (s : State) (d : Nat) : Bool :=
  (upFrom 0 32).any fun b => (s.home (.bank (s.gdie d) b)).arrivals.any fun r => !r.op.writes

/-- The phase asked for begins (R325): read phase once no WS.LOAD and no write is left, write phase once no load is queued at a bank. -/
def State.wsChange (s : State) (d : Nat) : Option State :=
  match (s.die d).wsWant with
  | some true =>
    if s.wsLoading d || s.wsWriting d then none else some (s.modDie d fun k => { k with wsPhase := true, wsWant := none })
  | some false =>
    if s.wsReading d then none else some (s.modDie d fun k => { k with wsPhase := false, wsWant := none })
  | none => none

/-- WS_PHASE_CHANGE (R325): pick.a the die. -/
def execWsPhaseChange (s : State) : Out := s.orStay (s.wsChange s.pick.a)

/-- WS_READ_PHASE_REQUEST (R325, R388): pick.a the die. -/
def execWsReadPhaseRequest (s : State) : Out :=
  .next (s.modDie s.pick.a fun k => { k with wsWant := if k.wsPhase then none else some true })

/-- WS_WRITE_PHASE_REQUEST (R325, R388): pick.a the die. -/
def execWsWritePhaseRequest (s : State) : Out :=
  .next (s.modDie s.pick.a fun k => { k with wsWant := if k.wsPhase then some false else none })

end Sys2Proof.Machine
end

