-- ==== Sys2Proof/Machine/Fabric.lean ====
section
/-! DEFINITION. Links between packages and collectives: major 0x37 and the steps of the fabric (R368 to R378). -/

namespace Sys2Proof.Machine

/-! ## Counts (R378) -/

/-- Add to a fabric count. -/
def State.fabAdd (s : State) (k n : Nat) : State := { s with fab := s.fab.set k ((s.fab.get k 0 + n) % 2 ^ 64) }

/-- FAB.STAT (R378). -/
def execFabStat (_sc : Scope) (d a : Reg) (s : State) : Out :=
  let k := (s.rd a).toNat
  s.setReg d (if k < 5 then ofN (s.fab.get k 0) else if k = 5 then ofN (s.ports % 2 ^ 32) else BitVec.allOnes 64)

/-- The life-log key of a port's retrains (R395). -/
def lifePort (port : Nat) : Nat := 400 + port

/-- PORT_DOWN (R369): pick.a the port. -/
def execPortDown (s : State) : Out :=
  let p := s.pick.a % 32
  .next { s with ports := if nfld s.ports p 1 = 1 then s.ports - 2 ^ p else s.ports }

/-- LINK_RETRAIN (R369, R378): pick.a the port. -/
def execLinkRetrain (s : State) : Out :=
  let p := s.pick.a % 32
  let s := { s with ports := if nfld s.ports p 1 = 1 then s.ports else s.ports + 2 ^ p }
  .next ((s.fabAdd 4 1).lifeAdd (lifePort p) 1)

/-! ## Error records (R374) -/

/-- The fault record of the fabric, at a core. -/
def State.fabFault (s : State) (c code : Nat) (w1 : Word) (w4 : Nat) : State := s.postFault c 5 code w1 0 0 w4 [ofN s.pkg]

/-! ## Collectives: descriptors (R372) -/

/-- The engine context of collectives (R368). -/
def collCtx : Nat := 6
/-- ITYPE. -/
def Cmd.ity (x : Cmd) : Ty := tyCode (wfld (wordAt x.desc 2) 32 5)
/-- OTYPE. -/
def Cmd.oty (x : Cmd) : Ty := tyCode (wfld (wordAt x.desc 2) 37 5)
/-- COUNT. -/
def Cmd.elems (x : Cmd) : Nat := wfld (wordAt x.desc 2) 0 32
/-- NMEM. -/
def collSize (ws : List Word) : Nat := wfld (wordAt ws 3) 24 10 + 1
/-- The rank of a member. -/
def collRank (ws : List Word) (i : Nat) : Nat := wfld (wordAt ws 3) 0 24 + i * wfld (wordAt ws 3) 34 24
/-- The ranks of the members, in order. -/
def collRanks (ws : List Word) : List Nat := (upFrom 0 (collSize ws)).map (collRank ws)
/-- GID. -/
def collGid (ws : List Word) : Nat := wfld (wordAt ws 4) 24 16
/-- ROOT. -/
def collRoot (ws : List Word) : Nat := wfld (wordAt ws 4) 0 24
/-- Whether a member receives the result. -/
def collReceives (ws : List Word) (rank : Nat) : Bool := wbit (wordAt ws 2) 44 || rank == collRoot ws

/-- Whether a descriptor breaks the field rules of R372; op 0 is COLL.RED. -/
def collBad (op : Nat) (ws : List Word) : Bool :=
  let w2 := wordAt ws 2
  let it := wfld w2 32 5
  let ot := wfld w2 37 5
  let types :=
    if op = 0 then
      (([0, 2, 3].contains it && [0, 2, 3].contains ot) || ([20, 21].contains it && ot == it)) && wfld w2 42 2 != 3
    else plainCode it && ot == it && wfld w2 42 2 == 0 && wbit w2 44
  wfld w2 45 19 != 0 || !types || wfld w2 0 32 == 0 || wfld (wordAt ws 3) 58 6 != 0 || decide (collSize ws < 2) ||
  decide (collRank ws (collSize ws - 1) ≥ 2 ^ 24) || wfld (wordAt ws 4) 40 24 != 0 || !(collRanks ws).contains (collRoot ws) ||
  wordAt ws 6 != 0 || wordAt ws 7 != 0

/-- The bits of one member's contribution. -/
def Cmd.inBits (x : Cmd) : Nat := x.elems * x.ity.bits
/-- The bits of the result. -/
def Cmd.outBits (x : Cmd) : Nat := x.elems * x.oty.bits

/-- The match count of a group at a core (R368). -/
def State.groupCount (s : State) (c g : Nat) : Nat := (s.core c).groups.get g 0

/-- The place of a collective in its group. -/
def Cmd.groupPlace (x : Cmd) : Nat := x.pos / 4
/-- Whether the match of a collective has been found to agree. -/
def Cmd.agreed (x : Cmd) : Bool := x.pos / 2 % 2 == 1
/-- Whether a member of a collective was unmapped as it was issued (R374). -/
def Cmd.unmapped (x : Cmd) : Bool := x.pos % 2 == 1

/-- The command takes its place in its group, among the member's commands of the group (R372, R374). -/
def State.joinGroup (s : State) (cmd : Cmd) : State :=
  let c := s.ci
  let g := collGid cmd.desc
  let k := s.groupCount c g
  let lost := (collRanks cmd.desc).any fun r => rankState (s.rankEntry c r) == 0
  let s := s.modCore c fun x => { x with groups := x.groups.set g ((k + 1) % 2 ^ 32) }
  s.modEng c collCtx fun x => { x with queue := x.queue.map fun y => if y.n = cmd.n then { y with pos := 4 * k + b2n lost } else y }

/-- The address checks of a collective. -/
def State.collChecks (s : State) (op : Nat) (ws : List Word) (k : State → Out) : Out :=
  let x := s.mkCmd 0x37 op 0 ws 0 0
  s.checkRanges .load (fun s => s.checkRanges .store (fun s => s.noHost [(wordAt ws 1, x.outBits)] k) [(wordAt ws 1, x.outBits)]) [(wordAt ws 0, x.inBits)]

/-- A collective. -/
def State.coll (s : State) (i : Instr) (op : Nat) (sc : Scope) (d a b : Reg) : Out :=
  s.engIssue i 0x37 op sc d a (s.rd b) (fun _ => collCtx) (collBad op) (fun ws s k => s.collChecks op ws k) fun cmd s => s.joinGroup cmd

/-- COLL.RED (R376). -/
def execCollRed (sc : Scope) (d a b : Reg) (s : State) : Out := s.coll (.collRed sc d a b) 0 sc d a b
/-- COLL.BCAST (R376). -/
def execCollBcast (sc : Scope) (d a b : Reg) (s : State) : Out := s.coll (.collBcast sc d a b) 1 sc d a b

/-! ## Matching (R372, R374) -/

/-- A core as a context has it: as it runs, or as it is saved. -/
def State.coreIn (s : State) (ctx c : Nat) : Core :=
  if s.switchedOut c ctx then (s.saved.get (savedKey ctx (dieOf c)) Saved.init).cores.get c Core.init else s.core c

/-- The command of a core of a context that is the k-th of its group. -/
def State.groupCmd (s : State) (ctx c g k : Nat) : Option Cmd :=
  let x := (s.coreIn ctx c).engs.get collCtx EngCtx.init
  (x.queue ++ x.run).find? fun y => y.op < 2 && collGid y.desc == g && y.groupPlace == k

/-- The core of this package that a rank names for a core's context, if it names one here. -/
def State.rankHere (s : State) (c r : Nat) : Option Nat :=
  let e := s.rankEntry c r
  if rankState e = 0 ∨ rankCore e / 2048 ≠ s.pkg then none else some (rankCore e % 2048)

/-- The members of a core's command that are on this package, by core, each once; those of other packages, by their place. -/
def State.localCores (s : State) (c : Nat) (x : Cmd) : List Nat := ((collRanks x.desc).filterMap (s.rankHere c)).eraseDups

/-- The places of the members of other packages. -/
def State.farPlaces (s : State) (c : Nat) (x : Cmd) : List Nat :=
  (upFrom 0 (collSize x.desc)).filter fun i => (s.rankHere c (collRank x.desc i)).isNone

/-- The places of a core of this package among the members. -/
def State.places (s : State) (c o : Nat) (x : Cmd) : List Nat :=
  (upFrom 0 (collSize x.desc)).filter fun i => s.rankHere c (collRank x.desc i) == some o

/-- Whether a core of this package receives the result. -/
def State.receives (s : State) (c o : Nat) (x : Cmd) : Bool := (s.places c o x).any fun i => collReceives x.desc (collRank x.desc i)

/-- Whether the root is on another package, whose port reduction units then reduce (R373). -/
def State.rootFar (s : State) (c : Nat) (x : Cmd) : Bool := (s.rankHere c (collRoot x.desc)).isNone

/-- The commands of the members here, each with its core: none where one has not issued its command. -/
def State.members (s : State) (c : Nat) (x : Cmd) : Option (List (Nat × Cmd)) :=
  (s.localCores c x).mapM fun o => (s.groupCmd (s.ctxOf (dieOf c)) o (collGid x.desc) x.groupPlace).map fun y => (o, y)

/-- The words in which the commands of a match agree. -/
def Cmd.matchWords (x : Cmd) : List Word := [ofN x.op, wordAt x.desc 2, wordAt x.desc 3, wordAt x.desc 4]

/-- Whether two commands of a match agree. -/
def collAgree (a b : Cmd) : Bool := a.matchWords == b.matchWords

/-- Whether a cell is one of the match of a command. -/
def RedCell.isOf (y : RedCell) (ctx : Nat) (x : Cmd) : Bool :=
  y.ctx == ctx && y.group == collGid x.desc && y.place == x.groupPlace && y.words == x.matchWords

/-- A match fails at every member of this package, running or switched out, and its cells are dropped (R374). -/
def State.failMatch (s : State) (c : Nat) (x : Cmd) (ms : List (Nat × Cmd)) : State :=
  let ctx := s.ctxOf (dieOf c)
  let s := ms.foldl (fun s m => s.asContext (dieOf m.1) ctx fun s =>
    (s.fabFault m.1 cILL (ofN (collGid x.desc)) (m.2.major * 256 + m.2.op)).endCmd m.1 collCtx m.2 2 0) (s.fabAdd 3 1)
  { s with redCells := s.redCells.filter fun y => !(ms.any fun m => y.isOf ctx m.2) }

/-- A match agrees: every member's command here knows it. -/
def State.markAgreed (s : State) (ctx : Nat) (ms : List (Nat × Cmd)) : State :=
  ms.foldl (fun s m => s.asContext (dieOf m.1) ctx fun s =>
    let mark := fun (y : Cmd) => if y.n = m.2.n then { y with pos := y.pos + 2 } else y
    s.modEng m.1 collCtx fun z => { z with queue := z.queue.map mark, run := z.run.map mark }) s

/-- Decide a match once every member here has issued its command (entry 38, DEDUCED): it fails where two disagree or a member was unmapped, and agrees
where the members of other packages are known to. -/
def State.settleMatch (s : State) (c : Nat) (x : Cmd) (far : Bool) : Option State :=
  (s.members c x).bind fun ms =>
    if ms.any fun m => !collAgree x m.2 || m.2.unmapped then some (s.failMatch c x ms)
    else if far then some (s.markAgreed (s.ctxOf (dieOf c)) ms)
    else none

/-! ## One cell (R373) -/

/-- The elements of a cell: 2,048 bits of ITYPE. -/
def Cmd.perCell (x : Cmd) : Nat := 2048 / x.ity.bits
/-- The cells of a collective. -/
def Cmd.cellCount (x : Cmd) : Nat := ceilDiv x.elems x.perCell
/-- The elements of cell k. -/
def Cmd.inCell (x : Cmd) (k : Nat) : Nat := min x.perCell (x.elems - k * x.perCell)

/-- Combine two elements of a cell: FP in FP32 (R139), integers modulo their width or signed. -/
def collPair (op : Nat) (t : Ty) (fp : FpEnv) (lane a b : Nat) : Nat :=
  if t.isFp then
    (match op with
     | 0 => (fadd .f32 fp lane a b).1
     | k => fminmax .f32 fp.nanm (k == 1) a b)
  else match op with
    | 0 => (a + b) % 2 ^ t.bits
    | 1 => if intOf t a < intOf t b then b else a
    | _ => if intOf t b < intOf t a then b else a

/-- One result element from the members' elements in ascending order. -/
def Cmd.collElem (x : Cmd) (fp : FpEnv) (cell e : Nat) (vs : List Nat) : Nat :=
  let op := wfld (wordAt x.desc 2) 42 2
  let lane := laneWord fp.srseed cell 0 0 (e % 64)
  let wide := fun (v : Nat) => if x.ity.isFp then (fconvert .f32 x.ity fp lane v).1 else v
  match vs with
  | [] => 0
  | v :: rest =>
    let r := rest.foldl (fun acc y => collPair op x.ity fp lane acc (wide y)) (wide v)
    if x.ity.isFp then (fconvert x.oty .f32 fp lane r).1 else r

/-- A result cell from the members' cells. -/
def Cmd.collCell (x : Cmd) (fp : FpEnv) (cell : Nat) (vs : List Nat) : Nat :=
  joinElems x.oty.bits ((upFrom 0 (x.inCell cell)).map fun e => x.collElem fp cell e (vs.map fun v => elemOf v x.ity.bits e))

/-- A part of a list of bytes, as a number. -/
def bytesAt (bs : List Byte) (k n : Nat) : Nat := joinBytes ((bs.drop (k * n)).take n)

/-- The bits of a member's contribution to a cell, and of a result cell. -/
def Cmd.giveBits (x : Cmd) (cell : Nat) : Nat := x.inCell cell * x.ity.bits
/-- The bits of a result cell. -/
def Cmd.takeBits (x : Cmd) (cell : Nat) : Nat := x.inCell cell * x.oty.bits

/-! ## Port reduction units (R368, R373) -/

/-- The cells a port reduction unit holds. -/
def redCap : Nat := 4096

/-- A cell of a command's match at its unit. -/
def State.redCell? (s : State) (ctx : Nat) (x : Cmd) (cell : Nat) : Option RedCell := s.redCells.find? fun y => y.isOf ctx x && y.cell == cell

/-- Whether the unit of a cell holds it, or has room for it: the cells of contexts that run nowhere are saved with their contexts (R375). -/
def State.redRoom (s : State) (ctx : Nat) (x : Cmd) (cell : Nat) : Bool :=
  let u := s.upPorts.length
  (s.redCell? ctx x cell).isSome || (u != 0 &&
    decide ((s.redCells.filter fun y => y.cell % u == cell % u && (upFrom 0 8).any fun d => s.ctxOf d == y.ctx).length < redCap))

/-- A unit takes contributions to a cell, each with its member's place, and the modes where member 0 is among them (R71, R373). -/
def State.redPut (s : State) (ctx : Nat) (x : Cmd) (cell : Nat) (env : FpEnv) (got : List (Nat × Nat)) : State :=
  let env := if got.any fun y => y.1 == 0 then some env else none
  if (s.redCell? ctx x cell).isSome then
    { s with redCells := s.redCells.map fun z =>
        if z.isOf ctx x && z.cell == cell then { z with env := env.or z.env, got := z.got ++ got.filter fun y => !(z.got.any fun w => w.1 == y.1) } else z }
  else { s with redCells := s.redCells ++ [⟨ctx, collGid x.desc, x.groupPlace, x.matchWords, cell, env, got⟩] }

/-- Whether a unit has what a cell's result needs: every member's contribution; of a broadcast, for its first cell that every member has joined, and for
each later one the root's. -/
def RedCell.full (y : RedCell) (x : Cmd) : Bool :=
  (upFrom 0 (collSize x.desc)).all fun i =>
    (x.op == 1 && y.cell != 0 && collRank x.desc i != collRoot x.desc) || y.got.any fun w => w.1 == i

/-- The result of a full cell. -/
def RedCell.result (y : RedCell) (x : Cmd) : Nat :=
  let of_ := fun (i : Nat) => ((y.got.find? fun w => w.1 == i).map (·.2)).getD 0
  let is := upFrom 0 (collSize x.desc)
  if x.op = 0 then x.collCell (y.env.getD ⟨0, false, 0, 0⟩) y.cell (is.map of_)
  else of_ ((is.find? fun i => collRank x.desc i == collRoot x.desc).getD 0)

/-- A unit gives up the full cells of a match that agrees which no receiving member here has still to take. -/
def State.sweepCells (s : State) (c : Nat) (x : Cmd) : State :=
  let ctx := s.ctxOf (dieOf c)
  let due := fun (cell : Nat) => (s.localCores c x).any fun o =>
    match s.groupCmd ctx o (collGid x.desc) x.groupPlace with
    | some y => y.bad.isNone && s.receives c o x && decide (y.took ≤ cell)
    | none => false
  { s with redCells := s.redCells.filter fun y => !(y.isOf ctx x && y.full x && !due y.cell) }

/-! ## Steps of a collective (R373, R375) -/

/-- A member's command starts, with a scoreboard entry for its destination (R55). None where it must wait. -/
def State.collStart (s : State) (c : Nat) (x : Cmd) : Option State :=
  if (s.eng c collCtx).run.any fun z => z.n == x.n then some s
  else (s.takeRange c collCtx x (if s.receives c c x then s.ownSpan c (wordAt x.desc 1) x.outBits else none)).map fun s =>
    s.modEng c collCtx fun z => { z with queue := z.queue.filter (fun w => w.n != x.n), run := z.run ++ [{ x with start := s.clock }] }

/-- A member's command has sent its next contribution, or those up to a cell. -/
def State.gaveCell (s : State) (c : Nat) (x : Cmd) (upTo : Nat) : State :=
  s.modRun c collCtx x.n fun y => { y with gave := upTo, sent := decide (upTo ≥ x.cellCount) && !s.receives c c x }

/-- A started command reads its next cell at SRC and gives it to the unit here, or sends it to the root's package; a member of a broadcast that is
not its root gives no data, and joins. None where it waits, or has given every cell. -/
def State.collGive (s : State) (c : Nat) (x : Cmd) : Option State :=
  let ctx := s.ctxOf (dieOf c)
  let cell := x.gave
  let far := s.rootFar c x
  let is := s.places c c x
  let key := s.unitKey c collCtx x.n
  if cell ≥ x.cellCount then none
  else if far = false ∧ s.redRoom ctx x cell = false ∨ far = true ∧ s.upPorts.isEmpty then none
  else if x.op = 1 ∧ (is.any fun i => collRank x.desc i == collRoot x.desc) = false then
    some ((if far then s else s.redPut ctx x 0 x.fp (is.map fun i => (i, 0))).gaveCell c x x.cellCount)
  else match s.asUnit c key false fun s => s.engRead c x.user (wordAt x.desc 0 + ofN (cell * x.perCell * x.ity.bits)) (x.giveBits cell) with
    | .ok v s =>
      if far then
        (s.sendCell c (.bridge (rankCore (s.rankEntry c (collRoot x.desc)) / 2048 * 8)) ⟨[], 0, ceilDiv (x.giveBits cell) 8, c, collCtx, x.n, cell, false⟩).map fun s =>
          (s.gaveCell c x (cell + 1)).modRun c collCtx x.n fun y => { y with cells := y.cells + 1 }
      else some ((s.redPut ctx x cell x.fp (is.map fun i => (i, v))).gaveCell c x (cell + 1))
    | .bad cause addr s => some (s.stopRun c collCtx x.n cause addr)
    | .wait t => t

/-- A receiving member's command is past a result cell. -/
def State.tookCell (s : State) (c : Nat) (x : Cmd) (lost : Nat) : State :=
  s.modRun c collCtx x.n fun y => { y with took := y.took + 1, amt := y.amt + lost, sent := decide (y.took + 1 ≥ x.cellCount) }

/-- A started command writes its next result cell at DST; a fault stops it. -/
def State.writeCell (s : State) (c : Nat) (x : Cmd) (v : Nat) : Option State :=
  let p : Put := ⟨wordAt x.desc 1 + ofN (x.took * x.perCell * x.oty.bits), x.takeBits x.took, v⟩
  match s.asUnit c (s.unitKey c collCtx x.n) true fun s =>
      match s.engPutAll c x.user false notDevice [p] with | (s, some e) => (.error e, s) | (s, none) => (.ok (), s) with
  | .ok _ s => some (s.tookCell c x 0)
  | .bad cause addr s => some (s.stopRun c collCtx x.n cause addr)
  | .wait t => t

/-- A receiving member's command takes its next result cell from the unit here, once its match agrees. -/
def State.collTake (s : State) (c : Nat) (x : Cmd) : Option State :=
  if !x.agreed || !s.receives c c x || decide (x.took ≥ x.cellCount) then none else
  (s.redCell? (s.ctxOf (dieOf c)) x x.took).bind fun y => if y.full x then s.writeCell c x (y.result x) else none

/-- The bytes credited to a member (R373): those of cells that were lost are missing (R374). -/
def collCredit (x : Cmd) (receives : Bool) : Nat := (if receives then ceilDiv x.outBits 8 else ceilDiv x.inBits 8) - x.amt

/-- A command whose match agrees is over once its contributions are accepted and its result is written and performed. -/
def State.collOver (s : State) (c : Nat) (x : Cmd) : Option State :=
  if !x.agreed || !x.sent || decide (x.gave < x.cellCount) || x.cells != 0 || !s.putsDone (s.unitKey c collCtx x.n) then none
  else some (s.endCmd c collCtx x 0 (collCredit x (s.receives c c x)))

/-- Whether the members of other packages have joined the match, as far as the unit here knows. -/
def State.farJoined (s : State) (c : Nat) (x : Cmd) : Bool :=
  let far := s.farPlaces c x
  far.isEmpty || (!s.rootFar c x && match s.redCell? (s.ctxOf (dieOf c)) x 0 with
    | some y => far.all fun i => y.got.any fun w => w.1 == i
    | none => false)

/-- The i-th collective of a core's context, queued or started. -/
def State.collCmd (s : State) (c i : Nat) : Option Cmd :=
  let q := s.eng c collCtx
  (q.queue ++ q.run)[i]?.filter fun x => decide (x.op < 2) && x.bad.isNone

/-- A step of a collective of a member here: it is over, its match is decided, it takes a result cell or gives its next cell (entry 38, DEDUCED). -/
def State.collStep (s : State) (c i : Nat) : Option State :=
  (s.collCmd c i).bind fun x =>
    let live := (if s.dieFinishes (dieOf c) then s.collOver c x else none).or
      (if !s.dieRuns (dieOf c) then none
       else (if x.agreed then none else s.settleMatch c x (s.farJoined c x)).or
         ((s.collStart c x).bind fun t => (t.collTake c x).or (t.collGive c x)))
    live.map fun s => if x.agreed then s.sweepCells c x else s

/-- What comes from other packages for a collective of a member here (entry 38, DEDUCED): that a member there disagrees (cell 0); the contributions to
the cell before `cell`, in the order of their places, with the modes of member 0, for a match whose root is here; otherwise the result cell before `cell` of a match
that agrees. -/
def State.collNews (s : State) (c i cell : Nat) (env : FpEnv) (bs : List Byte) : Option State :=
  (s.collCmd c i).bind fun x =>
    let k := cell - 1
    let ctx := s.ctxOf (dieOf c)
    let far := s.farPlaces c x
    if far.isEmpty || !s.dieRuns (dieOf c) then none
    else if cell = 0 then (if x.agreed then none else (s.members c x).map fun ms => s.failMatch c x ms)
    else if !s.rootFar c x then
      let n := ceilDiv (x.giveBits k) 8
      if !s.receives c c x || decide (k < x.took) || decide (k ≥ x.cellCount) || !s.redRoom ctx x k || (x.op == 1 && k != 0) then none
      else some (s.redPut ctx x k env ((far.zip (upFrom 0 far.length)).map fun y => (y.1, if x.op = 1 then 0 else bytesAt bs y.2 n % 2 ^ x.giveBits k)))
    else if !x.agreed then s.settleMatch c x true
    else if !s.receives c c x || k != x.took || decide (k ≥ x.gave) then none
    else (s.collStart c x).bind fun t => t.writeCell c x (joinBytes bs % 2 ^ x.takeBits k)

/-- REDUCTION_CELL_COMBINE (R373): pick.a the core and pick.b the command of a member here, for a step of it; with pick.flag what comes from other
packages for its match: pick.c 0 that a member disagrees, or a cell's number plus one, with pick.bytes the contributions or the result, pick.w
(rounding mode, NaN mode) and pick.v (seed) what member 0 sampled. -/
def execReductionCellCombine (s : State) : Out :=
  let p := s.pick
  s.orStay (if p.flag then s.collNews p.a p.b p.c ⟨wfld p.w 0 3, wbit p.w 3, p.v, 0⟩ p.bytes else s.collStep p.a p.b)

/-! ## Token rows (R371, R377) -/

/-- One bit of the CRC of R371. -/
def crcStep (crc bit : Nat) : Nat :=
  let top := crc / 128 % 2
  let x := crc * 2 % 256
  if (top + bit) % 2 = 1 then Nat.xor x 7 else x

/-- The CRC over bits n + 7 down to 8 of a header. -/
def crcFrom (h : Word) (crc : Nat) : Nat → Nat
  | 0 => crc
  | n + 1 => crcFrom h (crcStep crc (b2n (wbit h (8 + n)))) n

/-- CRC-8 of bits [63:8] of a header (R371). -/
def crc8 (h : Word) : Nat := crcFrom h 0 56

/-- SDIE of a die of the own package (R371). -/
def State.sdie (s : State) (d : Nat) : Nat := s.pkg % 512 * 8 + d

/-- A header with SDIE and CRC filled in (R371). -/
def sealed (sdie : Nat) (h : Word) : Word :=
  let h := ofN (sdie * 2 ^ 52 + wfld h 8 44 * 2 ^ 8)
  h ||| ofN (crc8 h)

/-- A header of a core with SDIE and CRC filled in (R377 step 2). -/
def State.sealHeader (s : State) (c : Nat) (h : Word) : Word := sealed (s.sdie (dieOf c)) h

/-- SDIE of a core of the pod (R371). -/
def sdieOf (g : Nat) : Nat := g / 2048 % 512 * 8 + g % 2048 / 256

/-- Whether a header passes the check at the receiving port (R371). -/
def headerOk (h : Word) : Bool := crc8 h == wfld h 0 8

/-- ROWBITS of a TOK.SEND. -/
def Cmd.rowBits (x : Cmd) : Nat := wfld (wordAt x.desc 3) 24 16

/-- Whether a TOK.SEND descriptor breaks the field rules of R377. -/
def tokBad (ws : List Word) : Bool :=
  let n := wfld (wordAt ws 3) 24 16
  let land := wordAt ws 1
  wfld land 25 39 != 0 || land.toNat % 64 != 0 || decide (land.toNat ≥ systemRegion) || wfld (wordAt ws 2) 52 12 != 0 ||
  wfld (wordAt ws 2) 0 8 != 0 || wfld (wordAt ws 3) 40 24 != 0 || decide (n < 64) || decide (n > 32768) || n % 64 != 0 ||
  wfld (wordAt ws 4) 25 39 != 0 || (wordAt ws 4).toNat % 64 != 0 || wordAt ws 6 != 0 || wordAt ws 7 != 0

/-- A started TOK.SEND has read its row (R377 steps 2 to 4): it stays started until the row is accepted (entry 39, DEDUCED). -/
def State.sendRow (s : State) (c : Nat) (x : Cmd) (v : Nat) : State :=
  let rank := wfld (wordAt x.desc 3) 0 24
  let e := s.rankEntry c rank
  if rankState e = 0 then (s.fabFault c cILL 0 (0x37 * 256 + 2)).endCmd c collCtx x 1 0
  else
    let r : Row := ⟨s.sealHeader c (wordAt x.desc 2), (wordAt x.desc 1).toNat, (wordAt x.desc 4).toNat, splitWords v (x.rowBits / 64), c, x.n, false⟩
    (s.modRun c collCtx x.n fun y => { y with sent := true }).postRank (srcCore (s.gcore c)) (rankCore e) rank false (.tokenRow r)

/-- The range of the own core's local memory that a TOK.SEND to a rank of its core writes: header and row (R13, R377). -/
def State.tokSpan (s : State) (c : Nat) (x : Cmd) : Option (Nat × Nat) :=
  let e := s.rankEntry c (wfld (wordAt x.desc 3) 0 24)
  let land := (wordAt x.desc 1).toNat
  if rankState e != 0 && rankCore e == s.gcore c then some (land, land + 64 + x.rowBits - 1) else none

/-- The number by which the scoreboard entry of a row that a core sends to itself is known once its command is over. -/
def rowTag (n : Nat) : Nat := cmdTag 9 n

/-- A step of the TOK.SEND of a core numbered n: it starts, or reads its row and sends it. Rows of a core go in order. -/
def State.tokStep (s : State) (c n : Nat) : Option State :=
  let q := s.eng c collCtx
  match (q.run ++ q.queue).find? fun y => y.op == 2 && !y.sent && y.bad.isNone with
  | none => none
  | some x =>
    if x.n ≠ n ∨ s.dieRuns (dieOf c) = false then none
    else if q.queue.any fun y => y.n == n then
      (s.takeRange c collCtx x (s.tokSpan c x)).map fun s =>
        s.modEng c collCtx fun z => { z with queue := z.queue.filter (fun w => w.n != n), run := z.run ++ [{ x with start := s.clock }] }
    else match s.asUnit c (s.unitKey c collCtx n) false fun s => s.engRead c x.user (wordAt x.desc 0) x.rowBits with
      | .ok v s => some (s.sendRow c x v)
      | .bad cause addr s => some (s.stopRun c collCtx n cause addr)
      | .wait t => t

/-- TOK.SEND (R376, R377). -/
def execTokSend (sc : Scope) (d a b : Reg) (s : State) : Out :=
  s.engIssue (.tokSend sc d a b) 0x37 2 sc d a (s.rd b) (fun _ => collCtx) tokBad
    (fun ws s k => s.checkRanges .load k [(wordAt ws 0, wfld (wordAt ws 3) 24 16)]) fun _ s => s

/-- The sender's command is over once its row is accepted (R377 step 5), in its context, running or switched out (R126); the scoreboard entry of a
row that stays on its core stands until its writes are performed. -/
def State.rowAccepted (s : State) (ctx g : Nat) (r : Row) : State :=
  s.asContext (dieOf r.core) ctx fun s =>
    match (s.eng r.core collCtx).run.find? fun y => y.op == 2 && y.n == r.n with
    | some y =>
      let keep := fun (x : Range) => if x.tag = cmdTag collCtx r.n then { x with tag := rowTag r.n } else x
      let s := if g = s.gcore r.core then s.modCore r.core fun k => { k with ranges := k.ranges.map keep } else s
      s.endCmd r.core collCtx y 0 (y.rowBits / 8)
    | none => s

/-- The unit number of a row's writes. -/
def State.rowKey (s : State) (r : Row) : Nat := s.unitKey r.core 12 ((r.n * 2048 + r.core) * 2 ^ 25 + r.land)

/-- Send the writes of a row that has reached a core of the pod: the header at LAND, the row after it. It stands at its place, with `sent`,
until they are performed. -/
def State.landRow (s : State) (p : Packet) (k g : Nat) (r : Row) : State :=
  let es := ((r.header :: r.words).zip (upFrom 0 (r.words.length + 1))).map fun y => wholeEntry (localAddr g (r.land + 64 * y.2)) y.1
  let q : Packet := { p with ordered := false, rank := none, dst := .core g, body := .tokenRow { r with sent := true } }
  es.foldl (fun s e => s.sendPut r.core (s.rowKey r) true e) { s with flight := s.flight.take k ++ q :: s.flight.drop k }

/-- The writes of a row are performed: DONE counts it. Where one was refused, because its granule is watched, a fault record is posted at the
destination in place of the add (entry 67, DESIGN CHOICE). -/
def State.rowLanded (s : State) (k ctx g : Nat) (r : Row) : Option State :=
  let key := s.rowKey r
  if !s.putsDone key then none else
  let bad := (s.io key).bad
  let s := { s.dropFlight k with ios := s.ios.erase key }
  let s := s.asContext (dieOf r.core) ctx fun s => s.dropTag r.core (rowTag r.n)
  some (match bad with
    | some (cause, addr) => s.fabFault (if g / 2048 = s.pkg then g % 2048 else r.core) cause (ofN addr) (0x37 * 256 + 2)
    | none => if r.dn = 0 then s else s.sendAdd r.core 0 ⟨localAddr g r.dn, false, none⟩ (.cadd 1) (ofN r.dn) 6)

/-- Whether an earlier row from the same core is still landing at the same core (R377). -/
def State.rowBefore (s : State) (k : Nat) (p : Packet) : Bool :=
  (s.flight.take k).any fun y => y.src == p.src && y.dst == p.dst && (match y.body with | .tokenRow r => r.sent | _ => false)

/-- A row reaches its destination: on this package as it is; at another package's port, where its header is checked as it arrives
(entry 15, DESIGN CHOICE) and a row whose check fails is dropped, so that no counter advances (R371); or its writes there are performed. -/
def State.rowArrives (s : State) (k : Nat) (hdr : Word) : Option State :=
  match s.flight[k]? with
  | none => none
  | some p =>
    match p.body, p.dst with
    | .tokenRow r, .core g =>
      if r.sent then s.rowLanded k p.ctx g r
      else if s.rowBefore k p then none
      else if g / 2048 ≠ s.pkg then
        (if !s.mayMove k p then none else
         some (if headerOk hdr then ((s.dropFlight k).rowAccepted p.ctx g r).landRow p k g { r with header := hdr } else s.dropFlight k))
      else s.onArrival k (fun _ => true) fun _ _ s => some ((s.landRow p k g r).rowAccepted p.ctx g r)
    | _, _ => none

/-- A row from another package enters at its port (R371, R377): the core and the sender's number in the pod, the rank it was sent to plus one, LAND,
DONE, its header and bits. A row whose header fails the check is dropped and counted. -/
def State.rowEnters (s : State) (c src rk land dn : Nat) (hdr : Word) (bs : List Byte) : Option State :=
  if headerOk hdr then s.portIn c src rk (.tokenRow ⟨hdr, land, dn, splitWords (joinBytes bs) (bs.length / 8), c, 2 ^ 64 + src, false⟩)
  else some (s.fabAdd 0 1)

/-- TOKEN_ROW_ARRIVAL (R371, R377): pick.a the packet, and for one that leaves the package pick.w its header as the other port receives it;
with pick.flag a row from another package, for core pick.a with LAND pick.b and DONE pick.c, header pick.w and bits pick.bytes, pick.v the sending core
in bits [23:0] and above them the rank it was sent to plus one; without it and with pick.v not 0 a step of the TOK.SEND numbered pick.v of core pick.a. -/
def execTokenRowArrival (s : State) : Out :=
  let p := s.pick
  s.orStay (if p.flag then s.rowEnters (p.a % 2048) (p.v.toNat % 2 ^ 24) (p.v.toNat / 2 ^ 24) p.b p.c p.w p.bytes
    else if p.v ≠ 0 then s.tokStep p.a p.v.toNat else s.rowArrives p.a p.w)

/-! ## Cells of transfers between packages (R369, R370, R374) -/

/-- One cell fewer under way for a command, with bytes of it counted or lost. -/
def State.cellGone (s : State) (x : Cell) (n : Nat) : State :=
  s.modRun x.core x.eng x.n fun y => { y with cells := y.cells - 1, amt := y.amt + n }

/-- The unit number of a cell's writes. -/
def State.cellKey (s : State) (x : Cell) : Nat := s.unitKey x.core 12 ((x.n * 8 + x.eng) * 2 ^ 64 + x.dst)

/-- Whether an earlier cell of the same transfer has a granule in common with a cell (R370). -/
def State.cellBefore (s : State) (k : Nat) (x : Cell) : Bool :=
  (s.flight.take k).any fun p => match p.body with
    | .cell y => y.core == x.core && y.eng == x.eng && y.n == x.n && meet (y.grans.map (·.1)) (x.grans.map (·.1))
    | _ => false

/-- Send masked writes of whole granules' parts for a unit of a core. -/
def State.sendGrans (s : State) (c key : Nat) (gs : List (Nat × Word × Word)) : State :=
  gs.foldl (fun s e => s.sendPut c key true ⟨0, 0, e.1, ofN e.1, e.2.1, e.2.2, none, none, false, 64⟩) s

/-- Every write of a cell is performed (R370): its bytes count, but for a PUT.SIG, and for a contribution to a collective, which is accepted; where one was
refused they are missing and the command stops. -/
def State.cellLanded (s : State) (k : Nat) (x : Cell) : Option State :=
  let key := s.cellKey x
  if !s.putsDone key then none else
  let bad := (s.io key).bad
  let s := { s.dropFlight k with ios := s.ios.erase key }
  some (match bad with
    | some (cause, _) => (s.cellGone x x.bytes).stopRun x.core x.eng x.n cause x.dst
    | none =>
      match (s.runs x.core x.eng).find? fun y => y.n == x.n with
      | none => s
      | some y =>
        if y.op = 3 ∨ x.eng = collCtx then s.cellGone x 0
        else
          let s := s.cellGone x x.bytes
          if y.ctr = 0 then s else s.deviceOp x.core (s.unitKey x.core x.eng x.n) y.ctr (.cadd (ofN x.bytes)) 6)

/-- A cell reaches its destination and sends its writes to their homes, or these are performed. -/
def State.cellArrives (s : State) (k : Nat) : Option State :=
  match s.flight[k]? with
  | none => none
  | some p =>
    match p.body with
    | .cell x =>
      if x.sent then s.cellLanded k x
      else if s.cellBefore k x then none
      else some (State.sendGrans { s with flight := listSet s.flight k { p with body := .cell { x with sent := true } } } x.core (s.cellKey x) x.grans)
    | _ => none

/-- The cells of a port's reassembly buffer of 1 MiB (R368, R369). -/
def reasmCap : Nat := 4096

/-- The unit number of an incoming cell's writes. -/
def State.inKey (s : State) (x : InCell) : Nat := s.unitKey (dieCore 0) 10 (x.xfer * 2 ^ 32 + x.seq)

/-- A cell from another package reaches its port (R370): its transfer and number there, n bits at a physical bit address of this package's memory. The
cells of a transfer arrive in any order, but for those on one granule: what a higher number has written there is not to be overwritten. -/
def State.cellEnters (s : State) (port xfer seq a n : Nat) (bs : List Byte) : Option State :=
  let gs := gransOf a n
  let es := storeEntries 0 8 none a n (joinBytes bs % 2 ^ n) (gs.map fun g => ⟨g, false, none⟩)
  if n = 0 ∨ (gs.any fun g => isPeer s.pkg g || decide (spaceOf g > 1)) = true ∨ (s.reasm.filter fun y => y.port == port).length ≥ reasmCap then none
  else if (s.landed.get xfer []).any fun y => gs.contains y.1 && decide (y.2 ≥ seq) then none
  else some { s with reasm := s.reasm ++ [⟨port, xfer, seq, es.map fun e => (e.gran, e.mask, e.bits), false⟩] }

/-- A cell in a reassembly buffer sends its writes to their homes, once no lower one of its transfer is there on a granule of its own; or, once they are
performed, leaves the buffer (R370). -/
def State.cellMoves (s : State) (k : Nat) : Option State :=
  (s.reasm[k]?).bind fun x =>
    let gs := x.grans.map (·.1)
    if x.sent then
      (if !s.putsDone (s.inKey x) then none else some { s with reasm := listDel s.reasm k, ios := s.ios.erase (s.inKey x) })
    else if s.reasm.any fun y => y.xfer == x.xfer && decide (y.seq < x.seq) && meet (y.grans.map (·.1)) gs then none
    else some (State.sendGrans
      { s with reasm := listSet s.reasm k { x with sent := true },
               landed := s.landed.set x.xfer ((s.landed.get x.xfer []) ++ gs.map fun g => (g, x.seq)) }
      (dieCore 0) (s.inKey x) x.grans)

/-- An add from another package to a counter of this one, sent to its home. -/
def State.addEnters (s : State) (g : Nat) (n : Word) : Option State :=
  if g % 64 ≠ 0 ∨ isPeer s.pkg g = true ∨ spaceOf g > 1 then none
  else some (s.sendAdd (dieCore 0) 0 ⟨g, false, none⟩ (.cadd n) (ofN g) 6)

/-- CELL_ARRIVAL (R370): pick.a the packet. With pick.flag what comes from another package: with pick.v 0 a cell, at port pick.a, pick.c its transfer,
the low 32 bits of pick.w its number there and those above the bits it writes, pick.bytes, at pick.b; with pick.v 1 a step of the cell pick.a of the reassembly
buffers; with pick.v 2 an add of pick.w to the counter pick.b. -/
def execCellArrival (s : State) : Out :=
  let p := s.pick
  s.orStay (if !p.flag then s.cellArrives p.a
    else if p.v = 0 then s.cellEnters p.a p.c (wfld p.w 0 32) p.b (wfld p.w 32 32) p.bytes
    else if p.v = 1 then s.cellMoves p.a
    else s.addEnters p.b p.w)

/-- A packet that left for another package is lost (R374): a cell's bytes are missing from its transfer; an item of the ordered class, once it is sent, is
not delivered, and a token row is then never accepted. -/
def State.lose (s : State) (k : Nat) : Option State :=
  match s.flight[k]? with
  | none => none
  | some p =>
    match p.body with
    | .cell x => if x.sent then none else some (((s.dropFlight k).cellGone x x.bytes).fabAdd 2 1)
    | .tokenRow r => if r.sent ∨ homeDie p.dst / 8 = s.pkg then none else some (s.dropFlight k)
    | _ => if homeDie p.dst / 8 ≠ s.pkg ∧ p.ordered = true ∧ (p.port.isSome || s.headOfQueue k p) = true then some (s.dropFlight k) else none

/-- A result cell from another package for a collective here is lost (R374): the member's command goes on past it, and its bytes are missing. -/
def State.loseResult (s : State) (c n : Nat) : State :=
  match (s.eng c collCtx).run.find? fun x => x.n == n with
  | some x =>
    if decide (x.op < 2) && x.agreed && s.rootFar c x && s.receives c c x && decide (x.took < x.gave) then s.tookCell c x (ceilDiv (x.takeBits x.took) 8) else s
  | none => s

/-- CELL_LOST (R374): pick.a the packet; or with pick.flag data for this package, whose destination core pick.a posts the record: pick.w the
destination bit address, pick.b the command's major and op, 0 for an item of the ordered class, pick.c the source package, and pick.v, where it is not 0, the number
of the collective of that core whose next result cell it was. -/
def execCellLost (s : State) : Out :=
  let p := s.pick
  if p.flag then
    let c := p.a % 2048
    let s := s.postFault c 5 cMEMERR p.w 0 0 p.b [ofN p.c]
    .next ((if p.v = 0 then s else s.loseResult c p.v.toNat).fabAdd 2 (b2n (p.b != 0)))
  else s.orStay (s.lose p.a)

end Sys2Proof.Machine
end

