-- ==== Sys2Proof/Machine/Capsule.lean ====
section
/-! DEFINITION. The capsule engine (R348 to R363). -/

namespace Sys2Proof.Machine

/-! ## Images (R349, R350) -/

/-- POS. -/
def capPos (ws : List Word) : Nat := wfld (wordAt ws 1) 38 5
/-- LEN. -/
def capLen (ws : List Word) : Nat := wfld (wordAt ws 1) 33 5
/-- NVIS. -/
def capNvis (ws : List Word) : Nat := wfld (wordAt ws 1) 43 4
/-- SKIP. -/
def capSkip (ws : List Word) : Nat := wfld (wordAt ws 1) 56 8
/-- ORIGIN. -/
def capOrigin (ws : List Word) : Nat := wfld (wordAt ws 1) 0 24
/-- Stop j. -/
def capStop (ws : List Word) (j : Nat) : Word := wordAt ws (8 + j)
/-- EXPERT of a stop. -/
def stopExpert (w : Word) : Nat := wfld w 4 16
/-- The visited list, oldest first. -/
def capVisited (ws : List Word) : List Nat :=
  (upFrom 0 (capNvis ws)).map fun i => wfld (wordAt ws (4 + i / 4)) (16 * (i % 4)) 16
/-- Write the visited list. -/
def putVisited (ws : List Word) (es : List Nat) : List Word :=
  let word := fun (k : Nat) => ofN (joinElems 16 ((upFrom (4 * k) 4).map fun i => es.getD i 0))
  putIn (listSet (listSet ws 4 (word 0)) 5 (word 1)) 1 43 4 es.length

/-- The blocks a capsule takes. -/
def capBlocks (tbits : Nat) : Nat := ceilDiv (1536 + tbits) 1024

/-! ## The route (R352) -/

/-- Where a capsule goes on to. -/
inductive Route where
  | retire
  | dead
  | send (rank : Nat)
  deriving DecidableEq, Repr

/-- The search of R352 from stop j, on the working image. -/
def routeFrom (mapped : Nat → Bool) (ws : List Word) (j : Nat) : Nat → List Word × Route
  | 0 => (ws, .retire)
  | fuel + 1 =>
    if j ≥ capLen ws then (ws, .retire)
    else
      let stop := capStop ws j
      let e := stopExpert stop
      if e ≠ 0xFFFF ∧ wbit stop 0 = false ∧ (capVisited ws).contains e = true then
        routeFrom mapped (putIn ws 1 56 8 (min (capSkip ws + 1) 255)) (j + 1) fuel
      else
        let ws := putIn ws 1 38 5 j
        let ws := if e = 0xFFFF then ws else
          putVisited ws (if capNvis ws ≥ 8 then (capVisited ws).drop 1 ++ [e] else capVisited ws ++ [e])
        let rank := if wbit stop 2 then capOrigin ws else wfld stop 44 20
        (ws, if mapped rank then .send rank else .dead)

/-- The choice of the next stop from stop i, or from before the first (R352). -/
def State.capRoute (s : State) (c : Nat) (ws : List Word) (i : Option Nat) : List Word × Route :=
  let mapped := fun (rank : Nat) => rankState (s.rankEntry c rank) != 0
  match i with
  | none => routeFrom mapped ws 0 17
  | some i => if wbit (capStop ws i) 1 then (ws, .retire) else routeFrom mapped ws (i + 1) 17

/-! ## The landing area (R348, R349, R353) -/

/-- The local bit offset of a block. -/
def blockOff (b : Nat) : Nat := 0x1CC0000 + 1024 * b

/-- The lowest run of n free blocks. -/
def freeRun (used : List (Nat × Nat)) (n : Nat) : Option Nat :=
  (upFrom 0 512).find? fun b => decide (b + n ≤ 512) && used.all fun r => decide (b + n ≤ r.1) || decide (r.1 + r.2 ≤ b)

/-- The granules of words at a local offset. -/
def State.localGrans (s : State) (c off : Nat) (ws : List Word) : List (Nat × Word) :=
  (ws.zip (upFrom 0 ws.length)).map fun x => (localAddr (s.gcore c) (off + 64 * x.2), x.1)

/-- Read n words of a core's local memory at an offset. -/
def State.localWords (s : State) (c off n : Nat) : List Word :=
  (upFrom 0 n).map fun k => (s.mem.readGran (localAddr (s.gcore c) (off + 64 * k))).getD 0

/-- Free the blocks of a landed capsule. -/
def State.freeBlocks (s : State) (c b : Nat) : State := s.modCore c fun k => { k with blocks := k.blocks.filter fun r => r.1 != b }

/-- The words of a capsule: header, itinerary and tile. -/
def capWords (image tile : List Word) : List Word := image.take 24 ++ tile

/-! ## Retiring and dead letters (R355) -/

/-- The dead-letter of a capsule at a core, with a cause: its record goes to the ring DLR names, of S = 16. -/
def State.deadLetter (s : State) (c : Nat) (ws : List Word) (cause : Nat) : State :=
  let rec_ := ws.take 8 ++ [capStop ws (capPos ws), ofN cause, 0, 0, 0, 0, 0, 0]
  if wordAt ws 6 = 0 then s.letterOver c rec_ false
  else match s.postPut c false (wordAt ws 6) 16 rec_ (.dead c (s.ctxOf (dieOf c))) with
    | .ok s => s
    | .error _ => s.letterOver c rec_ false

/-! ## Landing (R353, R354) -/

/-- The cause that dead-letters a stop at its destination (R354). -/
def State.stopRefused (s : State) (c : Nat) (ws : List Word) : Option Nat :=
  let stop := capStop ws (capPos ws)
  let e := stopExpert stop
  if e < 4096 ∧ nfld (s.die (dieOf c)).dead e 1 = 1 then some 2
  else if wbit stop 3 ∧ wbit (s.core c).det 0 = false then some 3
  else none

/-- The notice of a landed capsule (R353). -/
def capNotice (ws : List Word) (b srank : Nat) : Msg :=
  let stop := capStop ws (capPos ws)
  ⟨wordAt ws 7 + ofN (wfld stop 20 24 * 16),
   header (wfld (wordAt ws 2) 16 2) (wfld (wordAt ws 1) 47 1) (wfld (wordAt ws 1) 48 1) 4 srank (wfld (wordAt ws 2) 32 32),
   ofN (blockOff b), ofN (stopExpert stop), ofN (capPos ws), wordAt ws 0, 0, 0⟩

/-- Take a run of blocks for a capsule, write it there, check its stop and enqueue its notice, as `put` does it (R353). None where the notice must
wait. -/
def State.landIn (s : State) (c b : Nat) (ws : List Word) (srank : Nat) (put : State → Msg → Option State) : Option State :=
  let s := s.modCore c fun k => { k with blocks := k.blocks ++ [(b, capBlocks (capTbits ws))] }
  let s := s.putGrans (s.localGrans c (blockOff b) ws)
  match s.stopRefused c ws with
  | some cause => some ((s.freeBlocks c b).deadLetter c ws cause)
  | none => put s (capNotice ws b srank)

/-- A notice as a packet from its own core. -/
def State.noticePacket (s : State) (c : Nat) (m : Msg) : Packet :=
  ⟨srcCore (s.gcore c), .core (s.gcore c), true, false, s.clock, s.ctxOf (dieOf c), none, false, false, false, none, .message m⟩

/-- The notice of a capsule that has arrived enters an inbox, the spill area, or, where neither has room, waits in the interface (R208). -/
def State.noticeIn (s : State) (c : Nat) (m : Msg) : Option State :=
  some ((s.inboxPut c m s.clock).getD (s.shutDoor c (s.noticePacket c m) s.clock))

/-- The notice of a capsule that a core has sent to itself: behind what the core has sent to itself before and is still under way (R57, R358). -/
def State.noticeOwn (s : State) (c : Nat) (m : Msg) : Option State :=
  let g := s.gcore c
  let p := s.noticePacket c m
  if (s.core c).door.isSome || s.flight.any fun q => q.ordered && q.src == srcCore g && q.dst == .core g then some { s with flight := s.flight ++ [p] }
  else s.noticeIn c m

/-- The notice of a spilled capsule, whose turn it is, enters its inbox ring. -/
def State.noticeRing (s : State) (c : Nat) (m : Msg) : Option State :=
  if (s.core c).ringRoom m.prio then some (s.modCore c fun k => { k with inbox := k.inbox ++ [⟨m, s.clock⟩] }) else none

/-- Whether capsules for a core wait in its spill area. -/
def Core.capsSpilled (k : Core) : Bool := k.spill.any fun x => match x with | .capsule _ _ => true | _ => false

/-- A capsule arrives at a core: it lands, or goes to the spill area (R353), as it does while its die is halted (R219). None where it
must wait. -/
def State.landCapsule (s : State) (c : Nat) (ws : List Word) (srank : Nat) : Option State :=
  let run := freeRun (s.core c).blocks (capBlocks (capTbits ws))
  match (if (s.core c).capsSpilled || (s.die (dieOf c)).switch.isSome then none else run) with
  | some b => s.landIn c b ws srank fun s m => s.noticeIn c m
  | none =>
    let ws := capSpilled ws
    if s.spillRoom c (SpillItem.capsule ws srank).entries then some (s.spillPut c (.capsule ws srank)) else none

/-- Bits [51:8] of the header a capsule carries between packages, in place (R371): IDSEQ, POS and REDELIV. -/
def capFields (ws : List Word) : Word :=
  ofN (wfld (wordAt ws 0) 0 20 * 2 ^ 32 + wfld (wordAt ws 1) 38 4 * 2 ^ 28 + wfld (wordAt ws 1) 50 4 * 2 ^ 24)

/-- A capsule of another package at a port, where its header is checked (R371): dropped and counted, or in the network of this package. A header that
passes is the capsule's, with the sender's die. -/
def State.capsuleEnters (s : State) : Option State :=
  let p := s.pick
  let ws := splitWords (joinBytes p.bytes) (p.bytes.length / 8)
  if !headerOk p.w then some (s.fabAdd 1 1)
  else if capTbits ws = 0 ∨ ws.length ≠ 24 + ceilDiv (capTbits ws) 64 ∨ p.w ≠ sealed (sdieOf p.c) (capFields ws) then none
  else s.portIn (p.b % 2048) p.c (wfld p.v 24 25) (.capsule p.w ws (wfld p.v 0 24))

/-- CAPSULE_ARRIVAL (R353, R371): pick.a the packet; one that finds no room waits in the core's network interface (R209). With pick.flag, where
pick.a names no packet, a capsule of another package enters at a port: pick.w its header, pick.b its core, pick.c the sender's, pick.v the
sender's rank and from bit 24 one more than the rank it was sent to, 0 for none, and pick.bytes its words. -/
def execCapsuleArrival (s : State) : Out :=
  s.orStay (if s.pick.flag && decide (s.flight.length ≤ s.pick.a) then s.capsuleEnters else s.onArrival s.pick.a (fun b => match b with | .capsule _ _ _ => true | _ => false) fun c p s =>
    match p.body with
    | .capsule _ ws srank => some ((s.landCapsule c ws srank).getD (s.shutDoor c p s.clock))
    | _ => none)

/-- A spilled capsule lands in its turn among what a core has spilled, once a run of blocks is free (R209). -/
def State.landSpilled (s : State) (c : Nat) : Option State :=
  match (s.core c).spill with
  | .capsule ws srank :: rest =>
    (freeRun (s.core c).blocks (capBlocks (capTbits ws))).bind fun b => (s.modCore c fun x => { x with spill := rest }).landIn c b ws srank fun s m => s.noticeRing c m
  | _ => none

/-- CAPSULE_SPILL_LANDING (R353): pick.a the core. -/
def execCapsuleSpillLanding (s : State) : Out :=
  s.orStay (if (s.die (dieOf s.pick.a)).switch.isSome then none else s.landSpilled s.pick.a)

/-! ## Sending (R352) -/

/-- Whether capsules that a core has sent to itself have still to arrive. -/
def State.capsBefore (s : State) (c : Nat) : Bool :=
  let own := fun (p : Packet) => p.src == srcCore (s.gcore c) && p.dst == .core (s.gcore c) && (match p.body with | .capsule _ _ _ => true | _ => false)
  s.flight.any own || (match (s.core c).door with | some (p, _) => own p | none => false)

/-- Send a routed capsule of a core; `held` is the block run it leaves, if it had landed there. One whose next core is its own
arrives at once, in the same blocks when it needs as many (R352), but not before those the core has sent to itself earlier (R57, R358). -/
def State.sendCapsule (s : State) (c : Nat) (held : Option Nat) (ws tile : List Word) (rank : Nat) : State :=
  let e := s.rankEntry c rank
  let whole := capWords ws tile
  let srank := (s.core c).rank
  let freed := match held with | some b => s.freeBlocks c b | none => s
  let out := freed.postRank (srcCore (s.gcore c)) (rankCore e) rank false (.capsule (s.sealHeader c (capFields whole)) whole srank)
  if rankState e = 1 ∧ rankCore e = s.gcore c then
    let same := held.filter fun b => (s.core c).blocks.contains (b, capBlocks (capTbits ws))
    match same with
    | some b => (freed.landIn c b whole srank fun s m => s.noticeOwn c m).getD out
    | none => if s.capsBefore c then out else (freed.landCapsule c whole srank).getD out
  else out

/-- Route a capsule and carry out the outcome: the status code (R359, R361). -/
def State.goOn (s : State) (c : Nat) (held : Option Nat) (ws tile : List Word) (i : Option Nat) : Nat × State :=
  let freed := fun (s : State) => match held with | some b => s.freeBlocks c b | none => s
  match s.capRoute c ws i with
  | (ws, .retire) => (3, (freed s).capDone c ws)
  | (ws, .dead) => (4, (freed s).deadLetter c ws 1)
  | (ws, .send rank) => (0, s.sendCapsule c held ws tile rank)

/-! ## CAPNEW (R360) -/

/-- A value as words, n bits. -/
def bitsWords (v n : Nat) : List Word := (upFrom 0 (ceilDiv n 64)).map fun k => ofN (elemOf v 64 k)

/-- Whether a creation descriptor and class descriptor break the rules of R351 and R360. -/
def capnewBad (ws cls : List Word) : Bool :=
  let w2 := wordAt ws 2
  let c1 := wordAt cls 1
  let nstop := wfld w2 0 5
  let tbits := wfld w2 5 16
  wfld w2 23 41 != 0 || wfld (wordAt ws 5) 32 32 != 0 || wordAt ws 6 != 0 || wordAt ws 7 != 0 || nstop == 0 || decide (nstop > wfld c1 16 5) ||
  decide (nstop > 16) || tbits == 0 || decide (tbits > 32768) || decide (tbits > wfld c1 0 16) || !aligned (wordAt cls 0) 16 ||
  wfld c1 21 43 != 0 || wordAt cls 2 != 0 || wordAt cls 3 != 0

/-- The image CAPNEW makes (R360). -/
def State.newImage (s : State) (count : Nat) (ws cls stops : List Word) : List Word :=
  let k := s.myCore
  let w2 := wordAt ws 2
  let rank := k.rank % 2 ^ 24
  [ofN (rank * 2 ^ 40 + count % 2 ^ 40),
   ofN (wfld k.det 0 1 * 2 ^ 48 + wfld k.nanmode 0 1 * 2 ^ 47 + wfld w2 0 5 * 2 ^ 33 + rank),
   ofN (wfld (wordAt ws 5) 0 32 * 2 ^ 32 + wfld w2 21 2 * 2 ^ 16 + wfld w2 5 16),
   wordAt ws 3, 0, 0, wordAt ws 4, wordAt cls 0] ++
    (upFrom 0 16).map fun j => if j < wfld w2 0 5 then stops.getD j 0 else 0

/-- Whether a capsule that CAPNEW makes would end at once here, so that its DONE is added to, with release semantics (R355). -/
def State.newEnds (s : State) (image : List Word) : Bool :=
  wordAt image 3 != 0 &&
  match s.capRoute s.ci image none with
  | (_, .retire) | (_, .dead) => true
  | (ws, .send rank) =>
    let e := s.rankEntry s.ci rank
    rankState e == 1 && rankCore e == s.gcore s.ci && (s.stopRefused s.ci ws).isSome

/-- CAPNEW (R360): no release, but where its capsule ends at once, whose add to DONE is one (R355). -/
def execCapnew (_sc : Scope) (d a b : Reg) (s : State) : Out :=
  let desc := s.rd a
  let cls := s.rd b
  if !aligned desc 512 then .next (s.trap cALIGN desc) else
  if !aligned cls 256 then .next (s.trap cALIGN cls) else
  s.readDesc desc 8 fun ws s =>
    s.readDesc cls 4 fun cs s =>
      if capnewBad ws cs then .next (s.trap cCAPSULE desc) else
      let isrc := wordAt ws 1
      let tbits := wfld (wordAt ws 2) 5 16
      if !aligned isrc 64 then .next (s.trap cALIGN isrc) else
      s.readDesc isrc (wfld (wordAt ws 2) 0 5) fun stops s =>
        State.loadBits State.stopAt s (wordAt ws 0) tbits fun tile s =>
          let image := fun (s : State) => s.newImage ((s.myCore.capSeq + 1) % 2 ^ 40) ws cs stops
          let make := fun (s : State) =>
            let im := image s
            let s := s.modMyCore fun k => { k with capSeq := (k.capSeq + 1) % 2 ^ 40 }
            let (_, s) := s.goOn s.ci none im (bitsWords tile tbits) none
            (s.wr d (wordAt im 0)).retire 32
          if s.gated || s.newEnds (image s) then s.atRelease .pkg fun s => some (make s) else s.atCommit [] make

/-! ## CAPFWD and CAPEND (R361) -/

/-- CAPSULE with a tval. -/
def State.capTrap (s : State) (tval : Word) : Out := .next (s.trap cCAPSULE tval)

/-- With the capsule the strand holds; none raises CAPSULE (R359). -/
def State.withCapsule (s : State) (k : HeldCapsule → Out) : Out :=
  match s.me.capsule with
  | some h => k h
  | none => s.capTrap 0

/-- TBITS of a landed capsule. -/
def State.landedTbits (s : State) (c : Nat) (h : HeldCapsule) : Nat := capTbits (s.localWords c (blockOff h.block) 3)

/-- The words of a landed tile. -/
def State.landedTile (s : State) (c : Nat) (h : HeldCapsule) : List Word :=
  s.localWords c (blockOff h.block + 1536) (ceilDiv (s.landedTbits c h) 64)

/-- The strand no longer holds its capsule. -/
def State.letGo (s : State) : State := s.modMe fun t => { t with capsule := none }

/-- A held capsule goes on, with a tile: its status (R361). -/
def State.forward (s : State) (h : HeldCapsule) (tile : List Word) : Nat × State :=
  s.letGo.goOn s.ci (some h.block) h.words tile (some (capPos h.words))

/-- The check of a landed tile that a capsule goes on with (R361): its bits are those of the working image. -/
def State.landedCheck (s : State) (h : HeldCapsule) (k : State → Out) : Out :=
  if capTbits h.words ≠ s.landedTbits s.ci h then s.capTrap 0 else k s

/-- CAPFWD (R361): the address of the new tile is checked before the commit (R96), the tile is read after the release. -/
def execCapfwd (sc : Scope) (d a : Reg) (s : State) : Out :=
  s.withCapsule fun h =>
    let go := fun (tile : List Word) (s : State) => let (st, s) := s.forward h tile; Host.Outcome.next ((s.wr d (ofN st)).retire 32).checkpoint
    s.beforeCommit (fun s k =>
      if s.rd a = 0 then s.landedCheck h k
      else State.checkedAt (s.resolve s.ci s.user .load (s.rd a) (capTbits h.words)) fun _ s => k s) fun s =>
      s.atGate sc fun s =>
        if s.rd a = 0 then go (s.landedTile s.ci h) s
        else State.loadBits State.stopAt s (s.rd a) (capTbits h.words) fun v s => go (bitsWords v (capTbits h.words)) s

/-- CAPEND (R361). A write that meets a fault, a watched granule among them, stops the command as an engine fault (R21): the capsule stays
held (entry 32, DEDUCED). -/
def execCapend (sc : Scope) (a : Reg) (s : State) : Out :=
  let dst := s.rd a
  s.withCapsule fun h =>
    let n := s.landedTbits s.ci h
    let done := fun (s : State) => (((s.letGo.freeBlocks s.ci h.block).capDone s.ci h.words).ownOver)
    s.beforeCommit (fun s k =>
      if dst = 0 then k s
      else if !aligned dst 64 then .next (s.trap cALIGN dst)
      else State.checkedAt (s.resolve s.ci s.user .store dst n) fun _ s => k s) fun s =>
      s.atGate sc fun s =>
        if dst = 0 then .next (done s)
        else s.ownWrite [⟨dst, n, joinWords (s.landedTile s.ci h) % 2 ^ n⟩]
          (fun s cause at_ => (s.postFault s.ci 2 cause (ofN at_) 0 0 (0x24 * 256 + 2) []).ownOver) fun s => .next (done s)

/-! ## CAPRD and the edits (R362, R363) -/

/-- Store words at an address as the strand's own stores, and give d the bits written. -/
def State.capStore (s : State) (sel dst : Word) (d : Reg) (ws : List Word) : Out :=
  if !aligned dst 64 then s.capTrap sel else
  let n := 64 * ws.length
  State.checked (s.resolve s.ci s.user .store dst n) fun ls s =>
    s.bufferStore (cutsOf 8 dst.toNat n ls).length (fun seq => storeEntries seq 8 none dst.toNat n (joinWords ws) ls) fun s => (s.wr d (ofN n)).retire 32

/-- The bits that a CAPRD with a selector stores (R362), 0 where it stores none. -/
def State.caprdBits (s : State) (sel : Nat) : Nat :=
  match s.me.capsule with
  | none => 0
  | some h => if sel = 0 then 512 else if sel = 1 then 1024 else if sel = 2 then 64 * ceilDiv (s.landedTbits s.ci h) 64 else 0

/-- CAPRD (R362). -/
def execCaprd (_sc : Scope) (d a b : Reg) (s : State) : Out :=
  let sel := s.rd a
  let dst := s.rd b
  s.withCapsule fun h =>
    let n := sel.toNat
    if n = 0 then s.capStore sel dst d (h.words.take 8)
    else if n = 1 then s.capStore sel dst d ((h.words.drop 8).take 16)
    else if n = 2 then s.capStore sel dst d (bitsWords (joinWords (s.landedTile s.ci h) % 2 ^ s.landedTbits s.ci h) (s.landedTbits s.ci h))
    else if (8 ≤ n ∧ n ≤ 15 ∨ 16 ≤ n ∧ n ≤ 31) ∧ dst = 0 then
      s.setReg d (if n ≤ 15 then wordAt h.words (n - 8) else capStop h.words (n - 16))
    else s.capTrap sel

/-- An edit: the working image becomes ws, with status OK. -/
def State.capEdit (s : State) (d : Reg) (h : HeldCapsule) (ws : List Word) : Out :=
  (s.modMe fun t => { t with capsule := some { h with words := ws } }).setReg d 0

/-- CAPINS (R363). -/
def execCapins (_sc : Scope) (d a b : Reg) (s : State) : Out :=
  s.withCapsule fun h =>
    let j := (s.rd a).toNat
    let len := capLen h.words
    if len = 16 then s.setReg d 1
    else if capPos h.words < j ∧ j ≤ len then
      let stop := fun (k : Nat) => if k = j then s.rd b else if j < k ∧ k ≤ len then capStop h.words (k - 1) else capStop h.words k
      s.capEdit d h (putIn (h.words.take 8 ++ (upFrom 0 16).map stop) 1 33 5 (len + 1))
    else s.setReg d 2

/-- CAPDEL (R363). -/
def execCapdel (_sc : Scope) (d a : Reg) (s : State) : Out :=
  s.withCapsule fun h =>
    let j := (s.rd a).toNat
    let len := capLen h.words
    if capPos h.words < j ∧ j < len then
      let stop := fun (k : Nat) =>
        if k + 1 = len then 0 else if j ≤ k ∧ k + 1 < len then capStop h.words (k + 1) else capStop h.words k
      s.capEdit d h (putIn (h.words.take 8 ++ (upFrom 0 16).map stop) 1 33 5 (len - 1))
    else s.setReg d 2

/-- CAPSET (R363). -/
def execCapset (_sc : Scope) (d a b : Reg) (s : State) : Out :=
  s.withCapsule fun h =>
    let v := s.rd b
    let ws := h.words
    let bad := fun (s : State) => s.setReg d 5
    match (s.rd a).toNat with
    | 0 => if v = 0 ∨ v.toNat > 32768 then bad s else s.capEdit d h (putIn ws 2 0 16 v.toNat)
    | 1 => if v.toNat > 3 then bad s else s.capEdit d h (putIn ws 2 16 2 v.toNat)
    | 2 => if !aligned v 64 then bad s else if v = 0 then s.capEdit d h (listSet ws 3 v)
      else s.counterAddr State.stop v (.atomic false) fun _ s => s.capEdit d h (listSet ws 3 v)
    | 3 => s.capEdit d h (putIn ws 2 32 32 (v.toNat % 2 ^ 32))
    | 4 => if capPos ws + 1 ≤ v.toNat ∧ v.toNat ≤ capLen ws then s.capEdit d h (putIn ws 1 33 5 v.toNat) else bad s
    | 5 => if !aligned v 256 then bad s else s.capEdit d h (listSet ws 6 v)
    | n =>
      if 16 ≤ n ∧ n ≤ 31 then
        (if capPos ws < n - 16 ∧ n - 16 < capLen ws then s.capEdit d h (listSet ws (8 + (n - 16)) v) else s.setReg d 2)
      else bad s

end Sys2Proof.Machine
end

