-- ==== Sys2Proof/Machine/Sfu.lean ====
section
/-! DEFINITION. The functions of the shared SFU (R169): each result is the exact value of the function at the exact FP32
input, rounded once. The transcendental functions are computed to 640 bits after the point and rounded with a sticky bit;
exact results are recognised and rounded exactly. -/

namespace Sys2Proof.Machine

/-- Bits after the point (entry 19, DEDUCED). -/
def fxP : Nat := 640

/-- One. -/
def fxOne : Nat := 2 ^ fxP

/-- The product of two fixed-point numbers. -/
def fxMul (a b : Nat) : Nat := a * b / fxOne

/-- The quotient of two fixed-point numbers. -/
def fxDiv (a b : Nat) : Nat := a * fxOne / b

/-- The sum of a power series whose next term is t * r / (k * step) for k from k0, n terms. -/
def fxExpSeries (r t k : Nat) : Nat → Nat
  | 0 => 0
  | n + 1 => t + fxExpSeries r (fxMul t r / k) (k + 1) n

/-- The sum of t * r^i / (2i + k) for i below n. -/
def fxOddSeries (r t k : Nat) : Nat → Nat
  | 0 => 0
  | n + 1 => t / k + fxOddSeries r (fxMul t r) (k + 2) n

/-- The natural logarithm of 2: twice the inverse hyperbolic tangent of 1/3. -/
def fxLn2 : Nat := 2 * fxOddSeries (fxOne / 9) (fxOne / 3) 1 220

/-- Inverse tangent of 1/q at a scale of 2^s, by its alternating series: `sgn` chooses the sign of the next term. -/
def atanInv (q s : Nat) (t k : Nat) (sgn : Bool) : Nat → Int
  | 0 => 0
  | n + 1 => (if sgn then ((t / k : Nat) : Int) else -((t / k : Nat) : Int)) + atanInv q s (t / (q * q)) (k + 2) (!sgn) n

/-- Pi at a scale of 2^s, by Machin's formula. -/
def piAt (s : Nat) : Nat :=
  (16 * atanInv 5 s (2 ^ s / 5) 1 true (s / 4 + 8) - 4 * atanInv 239 s (2 ^ s / 239) 1 true (s / 15 + 8)).toNat

/-- 2^f for f in [0, 1). -/
def fxPow2 (f : Nat) : Nat := fxExpSeries (fxMul f fxLn2) fxOne 1 160

/-- e^(-y) for y at most 300. -/
def fxExpNeg (y : Nat) : Nat :=
  let t := fxDiv y fxLn2
  let n := ceilDiv t fxOne
  fxPow2 (n * fxOne - t) / 2 ^ n

/-- The natural logarithm of z in [1, 2). -/
def fxLn (z : Nat) : Nat :=
  let t := fxDiv (z - fxOne) (z + fxOne)
  2 * fxOddSeries (fxMul t t) t 1 220

/-- The alternating series of sine (t = r, k = 2) and cosine (t = 1, k = 1). -/
def fxTrig (r2 t k : Nat) (sgn : Bool) : Nat → Int
  | 0 => 0
  | n + 1 => (if sgn then (t : Int) else -(t : Int)) + fxTrig r2 (fxMul t r2 / (k * (k + 1))) (k + 2) (!sgn) n

/-- The sum of 2^k x^(2k+1) / (2k+1)!! from k upward, x2 = 2 x^2. -/
def fxErfSeries (x2 t k : Nat) : Nat → Nat
  | 0 => 0
  | n + 1 => t + fxErfSeries x2 (fxMul t x2 / k) (k + 2) n

/-- The input m * 2^e as a fixed-point number; e is at least -149. -/
def fxOfInput (m : Nat) (e : Int) : Nat := m * 2 ^ ((fxP : Int) + e).toNat

/-- Round a fixed-point magnitude that is a little below the true value. -/
def fxRound (fp : FpEnv) (lane : Nat) (neg : Bool) (x : Nat) : Nat × Nat :=
  roundTo .f32 fp.nanm fp.rm lane neg x (-(fxP : Int)) true

/-- The value just below one. -/
def fxBelowOne : Nat := fxOne - 1

/-- EXP2. -/
def sfuExp2 (fp : FpEnv) (lane : Nat) (x : FVal) : Nat × Nat :=
  match x with
  | .nan => (canonNan .f32 fp.nanm, 0)
  | .inf s => if s then (0, 0) else (mkInf .f32 fp.nanm false, 0)
  | .fin s m e =>
    let big := decide ((m.log2 : Int) + e ≥ 9) && m != 0
    if big then (if s then roundTo .f32 fp.nanm fp.rm lane false 1 (-300) true else roundTo .f32 fp.nanm fp.rm lane false 1 300 true)
    else
      let v := fxOfInput m e
      let n := v / fxOne
      let f := v % fxOne
      if f = 0 then roundTo .f32 fp.nanm fp.rm lane false 1 (if s then -(n : Int) else n) false
      else if s then roundTo .f32 fp.nanm fp.rm lane false (fxPow2 (fxOne - f)) (-(n : Int) - 1 - fxP) true
      else roundTo .f32 fp.nanm fp.rm lane false (fxPow2 f) ((n : Int) - fxP) true

/-- LOG2. -/
def sfuLog2 (fp : FpEnv) (lane : Nat) (x : FVal) : Nat × Nat :=
  match x with
  | .nan => (canonNan .f32 fp.nanm, 0)
  | .inf s => if s then (canonNan .f32 fp.nanm, flagNV) else (mkInf .f32 fp.nanm false, 0)
  | .fin s m e =>
    if m = 0 then (mkInf .f32 fp.nanm true, flagDZ)
    else if s then (canonNan .f32 fp.nanm, flagNV)
    else
      let k : Int := (m.log2 : Int) + e
      let z := m * fxOne / 2 ^ m.log2
      if z = fxOne then roundTo .f32 fp.nanm fp.rm lane (decide (k < 0)) k.natAbs 0 false
      else
        let r : Int := k * (fxOne : Nat) + (fxDiv (fxLn z) fxLn2 : Nat)
        fxRound fp lane (decide (r < 0)) r.natAbs

/-- RCP. -/
def sfuRcp (fp : FpEnv) (lane : Nat) (x : FVal) : Nat × Nat :=
  match x with
  | .nan => (canonNan .f32 fp.nanm, 0)
  | .inf s => (if s then signBit .f32 else 0, 0)
  | .fin s m e => if m = 0 then (mkInf .f32 fp.nanm s, flagDZ) else roundQuot .f32 fp lane s 1 m (-e)

/-- RSQ. -/
def sfuRsq (fp : FpEnv) (lane : Nat) (x : FVal) : Nat × Nat :=
  match x with
  | .nan => (canonNan .f32 fp.nanm, 0)
  | .inf s => if s then (canonNan .f32 fp.nanm, flagNV) else (0, 0)
  | .fin s m e =>
    if m = 0 then (mkInf .f32 fp.nanm s, flagDZ)
    else if s then (canonNan .f32 fp.nanm, flagNV)
    else
      let odd := (e % 2).toNat
      let n := m * 2 ^ odd
      let q := isqrt (2 ^ 400 / n)
      roundTo .f32 fp.nanm fp.rm lane false q (-200 - (e - odd) / 2) (q * q * n != 2 ^ 400)

/-- The quadrant and remainder of a positive input modulo half pi, at 640 bits. -/
def trigReduce (m : Nat) (e : Int) : Nat × Nat :=
  let q := fxP + 200
  let half := piAt q / 2
  let x := m * 2 ^ ((q : Int) + e).toNat
  (x / half, x % half / 2 ^ 200)

/-- Sine (shift 0) and cosine (shift 1) of a positive magnitude: sign and fixed-point magnitude. -/
def trigAt (shift m : Nat) (e : Int) : Bool × Nat :=
  let (n, r) := trigReduce m e
  let n := (n + shift) % 4
  let r2 := fxMul r r
  let v : Int := if n % 2 = 0 then fxTrig r2 r 2 true 160 else fxTrig r2 fxOne 1 true 160
  let v := if n ≥ 2 then -v else v
  (decide (v < 0), v.natAbs)

/-- SIN. -/
def sfuSin (fp : FpEnv) (lane : Nat) (x : FVal) : Nat × Nat :=
  match x with
  | .nan => (canonNan .f32 fp.nanm, 0)
  | .inf _ => (canonNan .f32 fp.nanm, flagNV)
  | .fin s m e =>
    if m = 0 then (if s then signBit .f32 else 0, 0)
    else let (neg, v) := trigAt 0 m e; fxRound fp lane (s != neg) v

/-- COS. -/
def sfuCos (fp : FpEnv) (lane : Nat) (x : FVal) : Nat × Nat :=
  match x with
  | .nan => (canonNan .f32 fp.nanm, 0)
  | .inf _ => (canonNan .f32 fp.nanm, flagNV)
  | .fin _ m e =>
    if m = 0 then (0x3F800000, 0) else let (neg, v) := trigAt 1 m e; fxRound fp lane neg (min v fxBelowOne)

/-- TANH. -/
def sfuTanh (fp : FpEnv) (lane : Nat) (x : FVal) : Nat × Nat :=
  match x with
  | .nan => (canonNan .f32 fp.nanm, 0)
  | .inf s => ((if s then signBit .f32 else 0) + 0x3F800000, 0)
  | .fin s m e =>
    if m = 0 then (if s then signBit .f32 else 0, 0)
    else if (m.log2 : Int) + e ≥ 7 then fxRound fp lane s fxBelowOne
    else
      let q := fxExpNeg (2 * fxOfInput m e)
      fxRound fp lane s (fxDiv (fxOne - q) (fxOne + q))

/-- ERF. -/
def sfuErf (fp : FpEnv) (lane : Nat) (x : FVal) : Nat × Nat :=
  match x with
  | .nan => (canonNan .f32 fp.nanm, 0)
  | .inf s => ((if s then signBit .f32 else 0) + 0x3F800000, 0)
  | .fin s m e =>
    if m = 0 then (if s then signBit .f32 else 0, 0)
    else if (m.log2 : Int) + e ≥ 4 then fxRound fp lane s fxBelowOne
    else
      let v := fxOfInput m e
      let x2 := fxMul v v
      let sum := fxErfSeries (2 * x2) v 3 2400
      let rootPi := isqrt (piAt (2 * fxP))
      fxRound fp lane s (min (2 * fxDiv (fxMul (fxExpNeg x2) sum) rootPi) fxBelowOne)

/-- The function of an SFU op code (R180). -/
def sfuEval (fn : Nat) (fp : FpEnv) (x : Nat) : Nat × Nat :=
  let v := fdecode .f32 fp.nanm x
  let lane := envLane fp 0 0
  match fn with
  | 0 => sfuExp2 fp lane v
  | 1 => sfuLog2 fp lane v
  | 2 => sfuRcp fp lane v
  | 3 => sfuRsq fp lane v
  | 4 => sfuSin fp lane v
  | 5 => sfuCos fp lane v
  | 6 => sfuTanh fp lane v
  | _ => sfuErf fp lane v

end Sys2Proof.Machine
end

