-- ==== Sys2Proof/Machine/Landing.lean ====
section
/-! DEFINITION. The landing set: tagged loads, takes, queries and the shared SFU (R160 to R180), walks that a tagged load
waits for (R113, R164). -/

namespace Sys2Proof.Machine

/-! ## Tagged loads -/

/-- How a tagged load resolves at issue (R164): its granules, a fault with its address, or a TLB miss. -/
inductive Tagged where
  | ready (ls : List Loc)
  | fault (cause addr : Nat)
  | miss (va : Nat)
  deriving DecidableEq, Repr

/-- Resolve virtual granules from the TLBs alone. -/
def State.tagVirt (s : State) (c a : Nat) : List Nat → Tagged × State
  | [] => (.ready [], s)
  | g :: gs =>
    let first := max a g
    if first ≥ 2 ^ 57 then (.fault cPROT first, s) else
    match s.tlbLookup c false first with
    | none => (.miss first, s)
    | some (e, s) =>
      match leafDenies .load e.pte with
      | some code => (.fault code first, s)
      | none =>
        match State.tagVirt s c a gs with
        | (.ready ls, s) => (.ready (⟨leafPhys s.pkg e.level g e.pte, wbit e.pte 58, some e.key⟩ :: ls), s)
        | (x, s) => (x, s)

/-- Resolve a tagged load at issue: window checks at once, a virtual address through the TLBs (R164). -/
def State.tagResolve (s : State) (c : Nat) (user : Bool) (a : Word) (n : Nat) : Tagged × State :=
  if wbit a 63 then
    match s.resolve c user .load a n with
    | (.ok ls, s) => (.ready ls, s)
    | (.error (.trap code _ _), s) => (.fault code a.toNat, s)
    | (.error (.page _ _), s) => (.fault cPAGE a.toNat, s)
    | (.error .wait, s) => (.miss a.toNat, s)
  else s.tagVirt c a.toNat (gransOf a.toNat n)

/-- The bits a slot's load reads (R172, R173). -/
def Slot.loadBits (x : Slot) : Nat := if x.kind = .vector then 1024 else x.width.bits

/-- The page fault of a tagged load in the quad's fault table (R164): no continuation joins. -/
def State.enterTagFault (s : State) (c strand : Nat) (addr : Nat) : State :=
  let q := quadOf c
  let ctx := s.ctxOf (dieOf c)
  let page := addr / 2 ^ 19
  if ((s.quad q).faults.any fun f => f.ctx == ctx && f.page == page) then s
  else
    let s := if (s.quad q).faults.length < faultEntries then s.modQuad q fun x => { x with faults := x.faults ++ [⟨ctx, page, [], false⟩] } else s
    s.postFault c 1 cPAGE (ofN addr) strand 0 0 []

/-- The cuts of a slot's load over its locations (R163, R172, R173). -/
def Slot.cuts (x : Slot) (ls : List Loc) : List Cut :=
  cutsOf (if x.kind = .vector then vectorStep x.addr.toNat x.width.bits else scalarStep x.addr.toNat x.loadBits) x.addr.toNat x.loadBits ls

/-- The access of a tagged load once its granules are known (R163): its answer lands the slot. -/
def slotAccess (x : Slot) (tag : Tag) (seq : Nat) (late det : Bool) (snap : List BufEntry) (ls : List Loc) : Access :=
  { mkLoad x.addr snap (x.cuts ls) (.slot tag x.gen) with seq := seq, base := x.place, det := det, entry := false, late := late }

/-- Put an access in an activation's list, in place of one of the same number. -/
def Strand.putAccess (t : Strand) (a : Access) : Strand :=
  { t with out := (t.out.filter fun x => x.seq != a.seq) ++ [a] }

/-- Drop an access of an activation's list. -/
def Strand.dropAccess (t : Strand) (seq : Nat) : Strand := { t with out := t.out.filter fun x => x.seq != seq }

/-- A slot faults (R162, R164), noted in the log (R170); a page fault enters the fault table. -/
def State.tagFault (s : State) (c act seq : Nat) (tag : Tag) (cause addr : Nat) : State :=
  match s.getAct c act with
  | none => s
  | some t =>
    let s := s.noteChoice (s.landingChoice c act t (tag, true))
    let s := s.modAct c act fun t => ((t.dropAccess seq).faultSlot tag cause (ofN addr)).wakeLanding
    if cause = cPAGE then s.enterTagFault c ((s.strandOfAct c act).getD 0 % 8) addr else s

/-- The granules that a slot's load reads as its address stands now; none where it reaches none (entry 52, DEDUCED). -/
def State.foreseen (s : State) (c : Nat) (user : Bool) (x : Slot) : List Nat :=
  match s.devGrans c user .load ((gransOf x.addr.toNat x.loadBits).map (max x.addr.toNat)) with
  | .ok ls => ((x.cuts ls).map Cut.cover).flatten
  | .error _ => []

/-- A tagged load waits for a walk of its quad, or with a fault for its turn in replay (R113, R164, R170). -/
def State.queueWalk (s : State) (c act seq : Nat) (tag : Tag) (x : Slot) (late user : Bool) (snap : List BufEntry) (va : Nat)
    (fault : Option Nat) : State :=
  let a := { slotAccess x tag seq late false snap [] with
    parts := [mkPart 0 .read false (0, 0)], grans := s.foreseen c user x, walk := true, snap := snap }
  let s := s.modAct c act fun t => t.putAccess a
  s.modQuad (quadOf c) fun q => { q with walks := q.walks ++ [⟨c, va, .tagged act seq tag x.gen user, fault⟩] }

/-- The load of a pending slot of an activation is to be sent, or its slot faults, or it is queued for a walk (R164). -/
def State.tagPut (s : State) (c act seq : Nat) (tag : Tag) (late user : Bool) (snap : List BufEntry) : State :=
  match s.getAct c act with
  | none => s
  | some t =>
    let x := t.slots[tag.val]
    match s.tagResolve c user x.addr x.loadBits with
    | (.ready ls, s) =>
      s.modAct c act fun t => t.putAccess (slotAccess x tag seq late (wbit (s.core c).det 0) snap ls)
    | (.fault code addr, s) =>
      if s.choiceOpen (s.landingChoice c act t (tag, true)) then s.tagFault c act seq tag code addr
      else s.queueWalk c act seq tag x late user snap addr (some code)
    | (.miss va, s) => s.queueWalk c act seq tag x late user snap va none

/-- Send what that makes ready. -/
def State.tagSend (s : State) (c act seq : Nat) (tag : Tag) (late user : Bool) (snap : List BufEntry) : State :=
  (s.tagPut c act seq tag late user snap).pump c act

/-- The load of a pending slot of the running strand is to be sent, over the buffered stores older than its first issue (R163, R164, R167). The mode
in which a load that is sent again is checked is the strand's at that moment (entry 75, DESIGN CHOICE). -/
def State.putOver (s : State) (tag : Tag) (late : Bool) : State :=
  let t := s.me
  let x := t.slots[tag.val]
  (s.modMe fun t => { t with seq := t.seq + 1 }).tagPut s.ci t.act t.seq tag late s.user (t.region.filter fun e => decide (e.seq < x.seq))

/-- Send it. -/
def State.startOver (s : State) (tag : Tag) (late : Bool) : State := (s.putOver tag late).pump s.ci s.me.act

/-- Send it at the next place in program order (R172, R177). -/
def State.startTagged (s : State) (tag : Tag) (late : Bool) : State :=
  (s.modMe fun t => { t with slots := t.slots.set tag.val { t.slots[tag.val] with place := t.seq } }).startOver tag late

/-- Send again the loads of the running strand's slots in Reissue, in ascending tag order (R167), each at its own place in program order, so that
one granule's are performed in that order (R51, R171). -/
def State.reissue (s : State) : State :=
  ((List.finRange 64).foldl (fun s tag =>
    let x := s.me.slots[tag.val]
    if x.state ≠ .reissue then s
    else (s.modMe fun t => { t with slots := t.slots.set tag.val { x with state := .pending } }).putOver tag true) s).pump s.ci s.me.act

/-- A walk that a tagged load waited for ends with a leaf or a fault (R164). None where the fault's turn has not come in replay. -/
def State.tagWalked (s : State) (w : Walk) (act seq : Nat) (tag : Tag) (gen user : Bool) : Option State :=
  match s.getAct w.core act with
  | none => some s
  | some t =>
    match t.out.find? fun a => a.seq == seq with
    | none => some s
    | some a =>
      if !t.slotWaits tag gen then some ((s.modAct w.core act fun t => t.dropAccess seq).pump w.core act) else
      match w.fault with
      | some code =>
        if s.choiceOpen (s.landingChoice w.core act t (tag, true)) then some ((s.tagFault w.core act seq tag code w.va).pump w.core act)
        else none
      | none =>
        match s.endWalk w.core false w.va with
        | (.leaf _ _ _, s) => some (s.tagSend w.core act seq tag a.late user a.snap)
        | (x, s) =>
          if s.choiceOpen (s.landingChoice w.core act t (tag, true)) then some ((s.tagFault w.core act seq tag x.cause w.va).pump w.core act)
          else some (s.queueWalk w.core act seq tag t.slots[tag.val] a.late user a.snap w.va (some x.cause))

/-- A fault or a landing of a slot is held for its turn in replay (R382, R384). -/
def State.holdLanding (s : State) (c act : Nat) (x : Tag × Bool) : State :=
  match s.getAct c act with
  | some t => s.holdChoice (s.landingChoice c act t x)
  | none => s

/-- Whether the k-th of a quad's walks is on one of the four walkers, or is off them with its fault (R113). -/
def Quad.onWalker (q : Quad) (k : Nat) : Bool :=
  match q.walks[k]? with
  | some w => w.fault.isSome || decide (((q.walks.take k).filter fun w => w.fault.isNone).length < 4)
  | none => false

/-- The end of the k-th walk of a quad (R113): whoever waits for it learns of it, but for a tagged load after a halt, which is sent again
(R167); a fault whose turn has not come in replay is held. None where it is not on a walker. -/
def State.walkDone (s : State) (q k : Nat) : Option State :=
  match (s.quad q).walks[k]?, (s.quad q).onWalker k with
  | some w, true =>
    let t := s.modQuad q fun x => { x with walks := listDel x.walks k }
    let page := w.va / 2 ^ 19
    match w.who with
    | .tagged act seq tag gen user =>
      if t.switching (dieOf w.core) then some t else t.tagWalked w act seq tag gen user <|> some (s.holdLanding w.core act (tag, true))
    | .strand act fetch =>
      let (x, s) := t.endWalk w.core fetch w.va
      some (s.modAct w.core act fun t => { t with walked := t.walked ++ [⟨fetch, page, x⟩] })
    | .unit key =>
      let (x, s) := t.endWalk w.core false w.va
      some (s.modIo key fun io => { io with walked := io.walked ++ [⟨false, page, x⟩] })
  | _, _ => none

/-- TAG_BUSY (R172). -/
def State.tagBusy (s : State) (tag : Tag) : Out := .next (s.trapAt s.cur cTAGBUSY tag.val (ofN tag.val))

/-- Write a slot of the running strand. -/
def State.setSlot (s : State) (tag : Tag) (x : Slot) : State := s.modMe fun t => { t with slots := t.slots.set tag.val x }

/-- A slot that has just been given a request (R172, R173, R180). -/
def pendingSlot (old : Slot) (kind : SlotKind) (w : Width) (sx : Bool) (addr : Word) (seq : Nat) : Slot :=
  { Slot.init with state := .pending, kind := kind, width := w, sx := sx, addr := addr, gen := old.gen, seq := seq }

/-- LDT and LDTV. -/
def State.tagged (s : State) (kind : SlotKind) (w : Width) (sx : Bool) (tag : Tag) (ea : Word) : Out :=
  let x := s.me.slots[tag.val]
  if x.state ≠ .free then s.tagBusy tag
  else .next (((s.setSlot tag (pendingSlot x kind w sx ea s.me.seq)).startTagged tag false).retire 32)

/-- LDT (R172): ea is not scaled. -/
def execLdt (w : Width) (x : Bool) (t : Tag) (a i : Reg) (s : State) : Out := s.tagged .scalar w x t (s.rd a + s.rd i)

/-- LDTV (R173). -/
def execLdtv (w : Width) (t : Tag) (a i : Reg) (s : State) : Out := s.tagged .vector w false t (s.rd a + s.rd i)

/-! ## Takes (R174, R175) -/

/-- The status word of a take (R175). -/
def takeStatus (cause : Nat) (vec : Bool) (status tag : Nat) : Word :=
  ofN (cause % 256 * 2 ^ 16 + b2n vec * 2 ^ 10 + status % 4 * 2 ^ 8 + tag % 256)

/-- The slot of a mask with the smallest stamp among those landed or faulted (R162). -/
def Strand.firstArrived (t : Strand) (mask : Word) : Option Tag :=
  (List.finRange 64).foldl (fun best i =>
    if wbit mask i.val && t.slots[i.val].arrived then
      match best with
      | none => some i
      | some j => if t.slots[i.val].stamp < t.slots[j.val].stamp then some i else best
    else best) none

/-- The value a take puts in a scalar register. -/
def Slot.scalar (x : Slot) : Word :=
  let v := x.value.toNat
  if x.kind = .sfu then ofN (v % 2 ^ 32) else if x.sx then sextW x.width.bits v else zextW x.width.bits v

/-- A slot returned or cleared inside a region (R19, R166). -/
def Slot.take (x : Slot) : Slot := { x with state := .taken, was := x.state }

/-- The effect of a take over a set of tags (R174). -/
def State.takeFrom (s : State) (mask : Word) (d a : Reg) (i : Instr) : Out :=
  if d = a ∧ d ≠ 0 then s.ill i else
  match s.me.firstArrived mask with
  | some t =>
    let x := s.me.slots[t.val]
    if x.state = .faulted ∧ wbit s.myCore.lfmode 0 then .next (s.trapAt s.cur cLANDING t.val x.faultAddr)
    else if x.kind = .vector ∧ s.isBound d = true then s.streamTrap d
    else
      let done := fun (s : State) (st : Word) => Host.Outcome.next (((s.setSlot t x.take).wr a st).retire 32)
      if x.state = .faulted then done (s.wr d x.faultAddr) (takeStatus x.cause false 2 t.val)
      else match x.kind with
        | .vector => done (s.wrV d x.value) (takeStatus 0 true 0 t.val)
        | .sfu => done ((s.addFlags x.flags).wr d x.scalar) (takeStatus 0 false 0 t.val)
        | .scalar => done (s.wr d x.scalar) (takeStatus 0 false 0 t.val)
  | none =>
    if s.me.anySlot mask (fun x => x.coming && !x.drop) then .next (s.blockOn (.take mask))
    else .next ((s.wr a 0x1FF).retire 32)

/-- TAKE (R174). -/
def execTake (d a : Reg) (s : State) : Out := s.takeFrom (BitVec.allOnes 64) d a (.take d a)

/-- TAKEM (R174). -/
def execTakem (d a b : Reg) (s : State) : Out := s.takeFrom (s.rd b) d a (.takem d a b)

/-- TAKET (R174). -/
def execTaket (d a b : Reg) (s : State) : Out := s.takeFrom (1 <<< ((s.rd b).toNat % 64)) d a (.taket d a b)

/-! ## Queries and the other slot instructions -/

/-- The code of a slot state (R160). -/
def SlotState.code : SlotState → Nat
  | .free => 0 | .pending => 1 | .landed => 2 | .faulted => 3 | .reissue => 4 | .taken => 5

/-- The code of a slot kind (R161). -/
def SlotKind.code : SlotKind → Nat
  | .scalar => 0 | .vector => 1 | .sfu => 2

/-- Whether a slot is in the state an LSQ selects (R176). -/
def Slot.selected (x : Slot) (code : Nat) : Bool :=
  match code with
  | 6 => x.arrived
  | 7 => x.state != .free
  | n => x.state.code == n

/-- The mask of an LSQ (R176). -/
def Strand.lsqMask (t : Strand) (code : Nat) : Word :=
  ofN ((List.finRange 64).foldl (fun m i => if t.slots[i.val].selected code then m + 2 ^ i.val else m) 0)

/-- The info word of a slot (R176). -/
def Slot.info (x : Slot) (tag : Nat) : Word :=
  ofN (tag + x.state.code * 2 ^ 8 + b2n x.drop * 2 ^ 11 + x.kind.code * 2 ^ 12 + x.cause % 256 * 2 ^ 16 +
    x.width.code * 2 ^ 24 + b2n x.sx * 2 ^ 28)

/-- Whether every tag of a logged mask that the query selects by arrival has become visible (R170). -/
def Strand.shows (t : Strand) (code : Nat) (mask : Word) : Bool :=
  if code = 2 ∨ code = 3 ∨ code = 6 then (List.finRange 64).all fun i => !wbit mask i.val || t.slots[i.val].arrived else true

/-- LSQ (R176): in replay it returns the logged mask once the slots it shows have become visible (R170). -/
def execLsq (d a : Reg) (s : State) : Out :=
  let v := (s.rd a).toNat
  if v / 2 ^ 7 % 2 = 1 then s.setReg d ((s.me.slots[v % 64]'(Nat.mod_lt _ (by decide))).info (v % 64))
  else
    let code := v % 8
    let sid := s.cur % 8
    let give := fun (m : Word) =>
      let x := s.lsqChoice s.ci sid m
      if s.recording s.ci && s.crumbFull (dieOf s.ci) then Host.Outcome.next s else (s.noteChoice x).setReg d m
    let mask := s.me.lsqMask code
    let x := s.lsqChoice s.ci sid mask
    if s.forcing s.ci 2 then
      match s.nextCrumb (dieOf s.ci) x.key with
      | some (m, _) => if s.me.shows code m then give m else .next ((s.holdChoice x).blockOn .lsq)
      | none => if s.replayEmpty (dieOf s.ci) then give mask else .next (s.blockOn .lsq)
    else give mask

/-- The tags of a mask, rising. -/
def tagsOf (mask : Word) : List Tag := (List.finRange 64).filter fun i => wbit mask i.val

/-- LSREISSUE (R177). -/
def execLsreissue (a : Reg) (s : State) : Out :=
  let tags := tagsOf (s.rd a)
  match tags.find? fun t => s.me.slots[t.val].state != .faulted with
  | some t => .next (s.trap cSLOT (ofN t.val))
  | none =>
    .next ((tags.foldl (fun s t =>
      (s.setSlot t { s.me.slots[t.val] with state := .pending, cause := 0, faultAddr := 0 }).startTagged t true) s).retire 32)

/-- A slot named by LSCLR (R178). -/
def Slot.clear (x : Slot) : Slot :=
  match x.state with
  | .landed | .faulted => x.take
  | .pending | .reissue => { x with drop := true }
  | .free | .taken => x

/-- LSCLR (R178). -/
def execLsclr (a : Reg) (s : State) : Out :=
  .next (((tagsOf (s.rd a)).foldl (fun s t => s.setSlot t s.me.slots[t.val].clear) s).retire 32)

/-- LSWAIT (R179). -/
def execLswait (a : Reg) (s : State) : Out :=
  if s.me.anySlot (s.rd a) Slot.coming then .next (s.blockOn (.lswait (s.rd a))) else .next (s.retire 32)

/-! ## The shared SFU (R168, R169, R180) -/

/-- Die cycles from a function's start to its result (R168). -/
def sfuLatency : Nat → Nat
  | 1 => 14 | 4 => 18 | 5 => 18 | 6 => 20 | 7 => 20 | _ => 12

/-- An SFU request of the running strand (R180): requests start one a cycle, in order of arrival, and after a context switch once those of the
other context are complete (R168). -/
def State.sfu (s : State) (fn : Nat) (tag : Tag) (a : Reg) : Out :=
  let x := s.me.slots[tag.val]
  let v := (s.rd a).toNat % 2 ^ 32
  if x.state ≠ .free then s.tagBusy tag
  else
    let q := quadOf s.ci
    let ctx := s.ctxOf (dieOf s.ci)
    let others := (s.quad q).sfu.foldl (fun m r => if r.ctx = ctx then m else max m r.ready) 0
    let start := max others (max s.clock (s.quad q).sfuNext)
    let r : SfuReq := ⟨ctx, s.ci, s.me.act, tag, x.gen, fn, v, s.fpEnv s.ci, start + sfuLatency fn⟩
    let s := s.setSlot tag (pendingSlot x .sfu .w32 false (ofN v) s.me.seq)
    let s := s.modMe fun t => { t with seq := t.seq + 1 }
    .next ((s.modQuad q fun k => { k with sfu := k.sfu ++ [r], sfuNext := start + 1 }).retire 32)

/-- A result of the SFU reaches its slot if the generation still matches, and is dropped otherwise (R168). None where its turn has not come in
replay. -/
def State.sfuLand (s : State) (r : SfuReq) : Option State :=
  match s.getAct r.core r.act with
  | none => some s
  | some t =>
    if !t.slotWaits r.tag r.gen then some s else
    let x := s.landingChoice r.core r.act t (r.tag, false)
    if !s.choiceOpen x then none else
    let (v, fl) := sfuEval r.fn r.fp r.x
    some ((s.noteChoice x).modAct r.core r.act fun t => (t.land r.tag (BitVec.ofNat 1024 v) fl).wakeLanding)

/-- The k-th result of a quad's SFU comes back (R168): to its slot, or, where its context has been saved, to the slot in the saved image
(R167); one whose turn has not come in replay is held. None where it is not ready. -/
def State.sfuDone (s : State) (q k : Nat) : Option State :=
  match (s.quad q).sfu[k]? with
  | none => none
  | some r =>
    if r.ready > s.clock then none else
    let t := s.modQuad q fun x => { x with sfu := listDel x.sfu k }
    let key := savedKey r.ctx (dieOf r.core)
    if !s.switchedOut r.core r.ctx then t.sfuLand r <|> some (s.holdLanding r.core r.act (r.tag, false))
    else if s.saved.any fun e => e.1 == key then ((t.exchange key).sfuLand r).map fun s => s.exchange key
    else some t

/-- SFU.EXP2 (R180). -/
def execSfuExp2 (t : Tag) (a : Reg) (s : State) : Out := s.sfu 0 t a
/-- SFU.LOG2 (R180). -/
def execSfuLog2 (t : Tag) (a : Reg) (s : State) : Out := s.sfu 1 t a
/-- SFU.RCP (R180). -/
def execSfuRcp (t : Tag) (a : Reg) (s : State) : Out := s.sfu 2 t a
/-- SFU.RSQ (R180). -/
def execSfuRsq (t : Tag) (a : Reg) (s : State) : Out := s.sfu 3 t a
/-- SFU.SIN (R180). -/
def execSfuSin (t : Tag) (a : Reg) (s : State) : Out := s.sfu 4 t a
/-- SFU.COS (R180). -/
def execSfuCos (t : Tag) (a : Reg) (s : State) : Out := s.sfu 5 t a
/-- SFU.TANH (R180). -/
def execSfuTanh (t : Tag) (a : Reg) (s : State) : Out := s.sfu 6 t a
/-- SFU.ERF (R180). -/
def execSfuErf (t : Tag) (a : Reg) (s : State) : Out := s.sfu 7 t a

end Sys2Proof.Machine
end

