-- ==== Sys2Proof/Machine/Sifter.lean ====
section
/-! DEFINITION. The Sifter: tables, gathers and scatters by index list (R328 to R335, R339, R346, R347). -/

namespace Sys2Proof.Machine

/-! ## Tables (R329, R330) -/

/-- ROWBITS. -/
def tabRowBits (d : List Word) : Nat := wfld (wordAt d 2) 0 15
/-- MODE. -/
def tabMode (d : List Word) : Nat := wfld (wordAt d 2) 15 2
/-- COMB. -/
def tabComb (d : List Word) : Nat := wfld (wordAt d 2) 17 2
/-- ETYPE. -/
def tabTy (d : List Word) : Ty := (tyOpt (wfld (wordAt d 2) 19 5)).getD .f32
/-- IFMT. -/
def tabIndexTy (d : List Word) : Ty := (tyOpt (wfld (wordAt d 2) 24 5)).getD .f32
/-- TABLE of a SIFT.CFG. -/
def tabReg (d : List Word) : Nat := wfld (wordAt d 2) 29 4
/-- ROWS. -/
def tabRows (d : List Word) : Nat := wfld (wordAt d 1) 0 40
/-- N1. -/
def tabN1 (d : List Word) : Nat := wfld (wordAt d 7) 0 40

/-- Whether a descriptor breaks the field rules of R329. -/
def tabBad (d : List Word) : Bool :=
  let w2 := wordAt d 2
  let ifmt := wfld w2 24 5
  let et := wfld w2 19 5
  wfld (wordAt d 1) 40 24 != 0 || tabRows d == 0 || wfld w2 34 30 != 0 ||
  !((decide (18 ≤ ifmt) && decide (ifmt ≤ 21)) || (decide (24 ≤ ifmt) && decide (ifmt ≤ 27))) ||
  !(et == 0 || et == 2 || et == 3 || et == 20 || et == 21) || tabMode d == 3 || tabRowBits d == 0 || decide (tabRowBits d > 16384) ||
  tabRowBits d % (tabTy d).bits != 0 || wfld (wordAt d 7) 40 24 != 0 ||
  (if tabMode d = 2 then tabComb d == 3 || (tabComb d == 2 && tabRowBits d % 2 == 1) || tabN1 d == 0
   else tabComb d != 0 || wordAt d 6 != 0 || wordAt d 7 != 0)

/-- What an index resolves to: the default row, a row of T1, or rows of T1 and T2. -/
inductive RowRef where
  | dflt
  | one (r : Int)
  | two (a b : Nat)
  deriving DecidableEq, Repr

/-- Resolve an index (R330). -/
def resolveIndex (d : List Word) (i : Int) : RowRef :=
  if i < toSigned 64 (wordAt d 4).toNat ∨ i ≥ toSigned 64 (wordAt d 5).toNat then .dflt
  else if tabMode d = 0 then (if i < tabRows d then .one i else .dflt)
  else if tabMode d = 1 then .one ((mix64 (BitVec.ofInt 64 i)).toNat % tabRows d)
  else if i < 0 ∨ i.toNat / tabN1 d ≥ tabRows d then .dflt
  else .two (i.toNat % tabN1 d) (i.toNat / tabN1 d)

/-- The bits of a row of T1 or T2. -/
def tabPartBits (d : List Word) : Nat := if tabMode d = 2 ∧ tabComb d = 2 then tabRowBits d / 2 else tabRowBits d

/-- The addresses of the table rows a reference names. -/
def rowAddrs (d : List Word) (r : RowRef) : List Word :=
  let n := tabPartBits d
  match r with
  | .dflt => []
  | .one r => [wordAt d 0 + BitVec.ofInt 64 (r * n)]
  | .two a b => [wordAt d 0 + ofN (a * n), wordAt d 6 + ofN (b * n)]

/-- Combine two elements of a row (R330), with the flags. -/
def tabElem (d : List Word) (fp : FpEnv) (lane a b : Nat) : Nat × Nat :=
  let t := tabTy d
  if t.isFp then (if tabComb d = 0 then fadd t fp lane a b else fmul t fp lane a b)
  else ((if tabComb d = 0 then a + b else a * b) % 2 ^ t.bits, 0)

/-- The row for position p from the table rows it names (R330, R339), with the flags. -/
def composeRow (d : List Word) (fp : FpEnv) (p : Nat) (vals : List Nat) : Nat × Nat :=
  match vals with
  | [a, b] =>
    if tabComb d = 2 then (a + 2 ^ tabPartBits d * b, 0)
    else
      let w := (tabTy d).bits
      let rs := (upFrom 0 (tabRowBits d / w)).map fun x =>
        tabElem d fp (laneWord fp.srseed p 0 0 (x % 64)) (elemOf a w x) (elemOf b w x)
      (joinElems w (rs.map (·.1)), rs.foldl (fun fl r => orFlags fl r.2) 0)
  | a :: _ => (a, 0)
  | [] => (0, 0)

/-! ## Issue (R331, R346) -/

/-- The ranges of a table: T1, the default row, and T2 of a COMPOSED one, each with its bits. -/
def tabRanges (d : List Word) : List (Word × Nat) :=
  let n := tabPartBits d
  let t1 := if tabMode d = 2 then tabN1 d else tabRows d
  [(wordAt d 0, t1 * n), (wordAt d 3, tabRowBits d)] ++ if tabMode d = 2 then [(wordAt d 6, tabRows d * n)] else []

/-- SIFT.CFG (R329). -/
def execSiftCfg (sc : Scope) (d a b : Reg) (s : State) : Out :=
  s.engIssue (.siftCfg sc d a b) 0x35 0 sc d a (s.rd b) (fun _ => 4) tabBad
    (fun ws s k => s.checkRanges .load k (tabRanges ws)) fun _ s => s

/-- COUNT of a GATH or SCAT. -/
def Cmd.count (x : Cmd) : Nat := wfld (wordAt x.desc 3) 0 13

/-- Whether a command descriptor breaks the field rules of R331. -/
def siftBad (scat : Bool) (ws : List Word) : Bool :=
  let w3 := wordAt ws 3
  wfld w3 19 45 != 0 || (if scat then wfld w3 17 2 == 3 else wfld w3 17 2 != 0) || wfld w3 0 13 == 0 || decide (wfld w3 0 13 > 4096) ||
  wordAt ws 5 != 0 || wordAt ws 6 != 0 || wordAt ws 7 != 0

/-- The table descriptor a core's table register holds; zeros while it is unconfigured. -/
def State.table (s : State) (c k : Nat) : List Word := (s.core c).tables.get k []

/-- The bits of a row of the table registered now, and of an index list of it, at least 1 (entry 24, DEDUCED). -/
def State.rowSizes (s : State) (ws : List Word) : Nat × Nat :=
  let d := s.table s.ci (wfld (wordAt ws 3) 13 4)
  (max 1 (tabRowBits d), wfld (wordAt ws 3) 0 13 * (tabIndexTy d).bits)

/-- The runs a GATH writes, its output rows of n bits. -/
def gathRuns (ws : List Word) (n : Nat) : List (Word × Nat) :=
  (upFrom 0 (wfld (wordAt ws 3) 0 13)).map fun p => (wordAt ws 1 + ofN p * wordAt ws 2, n)

/-- The run of the table that a SCAT writes, as its table register stands now, at least 1 bit. -/
def State.scatRun (s : State) (ws : List Word) : Word × Nat :=
  let d := s.table s.ci (wfld (wordAt ws 3) 13 4)
  (wordAt d 0, max 1 (tabRows d * tabRowBits d))

/-- GATH (R332): output in the weight store or host memory is PROT at issue. -/
def execGath (sc : Scope) (d a b : Reg) (s : State) : Out :=
  s.engIssue (.gath sc d a b) 0x35 1 sc d a (s.rd b) (fun _ => 4) (siftBad false)
    (fun ws s k =>
      let (n, list) := s.rowSizes ws
      let last := wordAt ws 1 + ofN (wfld (wordAt ws 3) 0 13 - 1) * wordAt ws 2
      s.checkRanges .load (fun s => s.checkRanges .store (fun s => s.noHost (gathRuns ws n) k) [(wordAt ws 1, n), (last, n)]) [(wordAt ws 0, list)])
    fun _ s => s

/-- SCAT (R333): a table in the weight store or host memory is PROT at issue, for the table registered then. -/
def execScat (sc : Scope) (d a b : Reg) (s : State) : Out :=
  s.engIssue (.scat sc d a b) 0x35 2 sc d a (s.rd b) (fun _ => 4) (siftBad true)
    (fun ws s k =>
      let (n, list) := s.rowSizes ws
      let last := wordAt ws 1 + ofN (wfld (wordAt ws 3) 0 13 - 1) * wordAt ws 2
      s.checkRanges .load (fun s => s.checkRanges .store (fun s => s.noHost [s.scatRun ws] k) [s.scatRun ws]) [(wordAt ws 0, list), (wordAt ws 1, n), (last, n)])
    fun _ s => s

/-- SIFT.STAT (R335). -/
def execSiftStat (_sc : Scope) (d a : Reg) (s : State) : Out :=
  let k := (s.rd a).toNat
  s.setReg d (if k < 6 then ofN (s.myCore.sift.getD k 0) else BitVec.allOnes 64)

/-! ## Fetching rows (R332, R334) -/

/-- The words of granules that the row cache of a die holds, if it holds all. -/
def State.cachedRow (s : State) (d : Nat) (gs : List Nat) : Option (List Word) :=
  gs.mapM fun g => ((s.die d).rowCache.find? fun e => e.1 == g).map (·.2)

/-- Whether the row cache serves a row, as the unit whose step this is begins to fetch it, or began; what it serves counts as read (R332). -/
def State.beginRow (s : State) (d : Nat) (a : Word) (gs : List Nat) : Bool × State :=
  let x := s.io s.unit
  match x.rows.find? fun y => y.1 == a.toNat with
  | some y => (y.2, s)
  | none =>
    let ws := s.cachedRow d gs
    let new := ((gs.zip (ws.getD [])).filter fun y => !(x.got.any fun z => z.1 == y.1)).map fun y => (y.1, some y.2)
    (ws.isSome, s.modIo s.unit fun x => { x with rows := x.rows ++ [(a.toNat, ws.isSome)], got := x.got ++ new })

/-- What fetching one table row gives: its bits, whether the cache served it, its first granule with uncorrectable data, and what the cache takes
of it. -/
structure Fetched where
  bits : Nat
  hit  : Bool
  bad  : Option Nat
  fill : List (Nat × Word)
  deriving DecidableEq, Repr

/-- Fetch a table row of n bits: as the command has read it already, from the row cache, or at its homes (R332). -/
def State.fetchRow (s : State) (c : Nat) (user : Bool) (a : Word) (n : Nat) : Except EngStop Fetched × State :=
  if n = 0 then (.ok ⟨0, false, none, []⟩, s) else
  match s.resolve c user .load a n with
  | (.error e, s) => (.error (engStopOf e), s)
  | (.ok ls, s) =>
    let cuts := cutsOf 8 a.toNat n ls
    let gs := cuts.map (·.grain)
    let (hit, s) := s.beginRow (dieOf c) a gs
    match s.unitTries gs with
    | (.error e, s) => (.error e, s)
    | (.ok vs, s) =>
      let ws := vs.map (·.getD 0)
      (.ok (match (gs.zip vs).find? fun y => y.2.isNone with
        | some y => ⟨0, hit, some (grainUnit y.1), []⟩
        | none => ⟨joinCuts (cuts.zip ws), hit, none, if hit then [] else gs.zip ws⟩), s)

/-- Fetch rows, all asked for at once, each with its address. -/
def State.fetchRows (s : State) (c : Nat) (user : Bool) (n : Nat) : List Word → Except EngStop (List (Word × Fetched)) × State
  | [] => (.ok [], s)
  | a :: rest =>
    let (f, s) := s.fetchRow c user a n
    let (fs, s) := State.fetchRows s c user n rest
    (bothRead (fun f fs => (a, f) :: fs) f fs, s)

/-- The granules the row cache of a die holds (R328): 256 MiB. -/
def rowCap : Nat := 2 ^ 25

/-- Place rows that the unit whose step this is has fetched in a die's row cache, but for granules that have left it since they were asked for
(R334); where it is full, the granules of the highest addresses leave it (entry 64, DESIGN CHOICE). -/
def State.fillRows (s : State) (d : Nat) (fs : List (Nat × Word)) : State :=
  let fs := fs.filter fun e => !(s.io s.unit).stale.contains e.1
  s.modDie d fun k => { k with rowCache := (fs.foldl (fun m e => m.set e.1 e.2) k.rowCache).take rowCap }

/-- The different members of a list, in order of first place. -/
def distinct {α : Type} [BEq α] (xs : List α) : List α := xs.foldl (fun acc x => if acc.contains x then acc else acc ++ [x]) []

/-- The address of position p's row. -/
def Cmd.rowAt (x : Cmd) (p : Nat) : Word := wordAt x.desc 1 + ofN p * wordAt x.desc 2

/-- The rows the positions of a command name, from their index values. -/
def State.siftRefs (s : State) (c : Nat) (x : Cmd) (d : List Word) : Except EngStop (List RowRef) × State :=
  let w := (tabIndexTy d).bits
  match s.engReads c x.user (fun _ => false) w ((upFrom 0 x.count).map fun p => wordAt x.desc 0 + ofN (p * w)) with
  | (.error e, s) => (.error e, s)
  | (.ok vs, s) => (.ok (vs.map fun v => resolveIndex d (intOf (tabIndexTy d) v)), s)

/-- The bits of the table rows a reference names, none for Default and where a table row's data is uncorrectable (R330). -/
def rowsOf (d : List Word) (rows : List (Word × Fetched)) (r : RowRef) : Option (List Nat) :=
  if r = .dflt then none
  else (rowAddrs d r).mapM fun a => (rows.find? fun y => y.1 == a).bind fun y => if y.2.bad.isSome then none else some y.2.bits

/-- The row a GATH delivers at position p, with flags (R330). -/
def deliveredRow (d : List Word) (fp : FpEnv) (rows : List (Word × Fetched)) (def_ p : Nat) (r : RowRef) : Nat × Nat :=
  match rowsOf d rows r with
  | some vs => composeRow d fp p vs
  | none => (def_, 0)

/-- GATH (R332): every position is read, then every row, then the output is written, each granule's highest position last. -/
def State.doGather (s : State) (c : Nat) (x : Cmd) : EngWork :=
  let d := s.table c (wfld (wordAt x.desc 3) 13 4)
  match s.siftRefs c x d with
  | (.error e, s) => (.error e, s)
  | (.ok refs, s) =>
    let named := (distinct refs).filter fun r => r != .dflt
    match s.fetchRows c x.user (tabPartBits d) (distinct (named.map (rowAddrs d)).flatten) with
    | (.error e, s) => (.error e, s)
    | (.ok rows, s) =>
      let isDefault := fun (r : RowRef) => (rowsOf d rows r).isNone
      match (if refs.any isDefault then s.engRead c x.user (wordAt d 3) (tabRowBits d) else (.ok 0, s)) with
      | (.error e, s) => (.error e, s)
      | (.ok def_, s) =>
        let outs := (refs.zip (upFrom 0 refs.length)).map fun y => (y.2, deliveredRow d x.fp rows def_ y.2 y.1)
        match s.engPutAll c x.user false notDevice (outs.map fun y => ⟨x.rowAt y.1, tabRowBits d, y.2.1⟩) with
        | (s, some e) => (.error e, s)
        | (s, none) =>
          let all := rows.map (·.2)
          let bad := all.filterMap (·.bad)
          let s := bad.foldl (fun s g => s.homeError c cMEMERR g 0) (s.fillRows (dieOf c) (all.map (·.fill)).flatten)
          (.ok { amount := x.count, flags := outs.foldl (fun fl y => orFlags fl y.2.2) 0, last := true,
                 tally := [named.length, (all.filter (·.hit)).length, (refs.filter isDefault).length, refs.length - (distinct refs).length, 0,
                           bad.length] }, s)

/-- The elements of w bits of a row that lie whole in its n bits from bit off: the first, and how many. -/
def wholeElems (w off n : Nat) : Nat × Nat := (ceilDiv off w, (off + n) / w - ceilDiv off w)

/-- The read-modify-writes of a row (R333): of each cut its whole elements with the contributions to them, and its bits of elements that lie
across granules from the row's bits `new`. -/
def scatOps (op : Nat) (t : Ty) (fp : FpEnv) (row : Nat) (cs : List (Nat × Nat)) (new off : Nat) : List Cut → List (Loc × Nat × ReqOp)
  | [] => []
  | y :: rest =>
    let e := wholeElems t.bits off y.n
    let lo := y.lo + (e.1 * t.bits - off)
    let n := e.2 * t.bits
    let mask := onesAt y.lo y.n - onesAt lo n
    (y.loc, y.addr, .scat op t fp row e.1 lo n (cs.map fun c => (c.1, ofN (nfld c.2 (e.1 * t.bits) n * 2 ^ lo))) (ofN mask)
      (ofN (nfld new off y.n * 2 ^ y.lo))) :: scatOps op t fp row cs new (off + y.n) rest

/-- The elements of w bits of a row of n bits at a that lie across granules, by number. -/
def splitElems (a n w : Nat) : List Nat := (upFrom 0 (n / w)).filter fun e => (a + e * w) / 64 != (a + e * w + w - 1) / 64

/-- The row's bits with its split elements combined, from their old values; the other bits zero. -/
def splitBits (op : Nat) (t : Ty) (fp : FpEnv) (row : Nat) (cs : List (Nat × Nat)) : List (Nat × Nat) → Nat × Nat
  | [] => (0, 0)
  | (e, old) :: rest =>
    let x := scatBits op t fp row e 1 old (cs.map fun c => (c.1, elemOf c.2 t.bits e))
    let y := splitBits op t fp row cs rest
    (x.1 * 2 ^ (e * t.bits) + y.1, orFlags x.2 y.2)

/-- Combine the contributions of the positions naming one row, in ascending order: a read-modify-write of each granule at its home. An element
that lies across granules is read first, and the read-modify-writes of its granules write its new bits (entry 65, DEDUCED). -/
def State.scatRow (s : State) (c : Nat) (x : Cmd) (d : List Word) (r : Int) (ps : List Nat) : Except EngStop Nat × State :=
  let n := tabRowBits d
  let a := wordAt d 0 + BitVec.ofInt 64 (r * n)
  let t := tabTy d
  let op := wfld (wordAt x.desc 3) 17 2
  let row := (r % 2 ^ 24).toNat
  match s.engReads c x.user (fun _ => false) n (ps.map x.rowAt) with
  | (.error e, s) => (.error e, s)
  | (.ok vs, s) =>
    let cs := ps.zip vs
    let split := splitElems a.toNat n t.bits
    match s.engReads c x.user notDevice t.bits (split.map fun e => a + ofN (e * t.bits)) with
    | (.error e, s) => (.error e, s)
    | (.ok olds, s) =>
      let (new, fl) := splitBits op t x.fp row cs (split.zip olds)
      match s.resolve c x.user (.atomic false) a n with
      | (.error e, s) => (.error (engStopOf e), s)
      | (.ok ls, s) =>
        if ls.any fun l => notDevice l.phys then (.error (.bad cPROT a.toNat), s)
        else match s.unitRmws c (scatOps op t x.fp row cs new 0 (cutsOf 64 a.toNat n ls)) with
          | (s, some e) => (.error e, s)
          | (s, none) => (.ok fl, s.modIo s.unit fun y => { y with got := y.got.filter fun g => !y.puts.contains g.1 })

/-- SCAT (R333), one distinct row a step: Default positions, and all of a COMPOSED table, are skipped and counted. -/
def State.doScatter (s : State) (c : Nat) (x : Cmd) : EngWork :=
  let d := s.table c (wfld (wordAt x.desc 3) 13 4)
  match s.siftRefs c x d with
  | (.error e, s) => (.error e, s)
  | (.ok refs, s) =>
    let one := fun (r : RowRef) => match r with | .one _ => true | _ => false
    match (distinct (refs.filter one))[x.pos]? with
    | some (.one r) =>
      (match s.scatRow c x d r ((refs.zip (upFrom 0 refs.length)).filterMap fun y => if y.1 = .one r then some y.2 else none) with
       | (.error e, s) => (.error e, s)
       | (.ok fl, s) => (.ok { amount := x.count, flags := fl, last := false }, s))
    | _ => (.ok { amount := x.count, flags := 0, last := true, tally := [0, 0, 0, 0, (refs.filter fun r => !one r).length, 0] }, s)

/-- Whether a granule lies in one of some ranges, as they resolve for a core now. -/
def State.inRanges (s : State) (c g : Nat) (rs : List (Word × Nat)) : Bool :=
  rs.any fun r => s.storageMeets c [g] (r.2 / 1024 + 2) r.1.toNat r.2

/-- The granules a die's row cache holds, or that a GATH there is to place in it. -/
def State.rowGrans (s : State) (d : Nat) : List Nat :=
  (s.die d).rowCache.map (·.1) ++
    ((s.ios.filter fun (e : Nat × Io) => unitKind e.1 == 4 && dieOf (unitCore e.1) == d).map fun (e : Nat × Io) =>
      e.2.asked ++ e.2.got.map (·.1)).flatten

/-- SIFT.CFG: the register is replaced; INV takes the rows of the ranges the descriptor names out of the row cache (R329, R334), as they resolve
then (entry 30, DEDUCED). -/
def State.doTable (s : State) (c : Nat) (x : Cmd) : EngWork :=
  let s := s.modCore c fun k => { k with tables := k.tables.set (tabReg x.desc) x.desc }
  let gone := if wbit (wordAt x.desc 2) 33 then (s.rowGrans (dieOf c)).eraseDups.filter fun g => s.inRanges c g (tabRanges x.desc) else []
  (.ok { amount := 1, flags := 0, last := true }, gone.foldl (fun s g => s.dropRow (dieOf c) g) s)

/-! ## Steps -/

/-- The range of own memory a Sifter command writes (R55): the output rows of a GATH, the table of a SCAT. -/
def State.siftSpan (s : State) (c : Nat) (x : Cmd) : Option (Nat × Nat) :=
  let d := s.table c (wfld (wordAt x.desc 3) 13 4)
  match x.op with
  | 1 => s.ownSpans c (tabRowBits d) ((upFrom 0 x.count).map x.rowAt)
  | 2 => s.ownSpan c (wordAt d 0) (tabRows d * tabRowBits d)
  | _ => none

/-- SIFTER_COMMAND_COMPLETE (R329, R332, R333): a step of the oldest Sifter command of core pick.a, the last of which completes it. -/
def execSifterCommandComplete (s : State) : Out :=
  let c := s.pick.a
  s.orStay (s.runOne c 4 (fun s x => s.siftSpan c x) fun s x =>
    match x.op with | 0 => s.doTable c x | 1 => s.doGather c x | _ => s.doScatter c x)

end Sys2Proof.Machine
end

