-- ==== Sys2Proof/Machine/Router.lean ====
section
/-! DEFINITION. Keyed accumulation (R336 to R340) and the top-k mailbox (R341 to R346). -/

namespace Sys2Proof.Machine

/-! ## Bindings (R336) -/

/-- Whether a KBIND descriptor breaks its field rules. -/
def kbindBad (ws : List Word) : Bool :=
  let w0 := wordAt ws 0
  let w1 := wordAt ws 1
  let l := wfld w1 25 5
  wfld w0 48 16 != 0 || wfld w0 24 24 == 0 || decide (wfld w0 0 24 + wfld w0 24 24 > 2 ^ 24) || wfld w1 34 30 != 0 || wfld w1 30 2 == 3 ||
  decide (l < 4) || decide (l > 16) || wfld w1 0 25 % 128 != 0 || decide (wfld w1 0 25 + 2 ^ l * 128 > 0x1C00000) || wordAt ws 3 != 0 ||
  wordAt ws 4 != 0 || wordAt ws 5 != 0 || wordAt ws 6 != 0 || wordAt ws 7 != 0

/-- KBIND (R336). -/
def execKbind (sc : Scope) (d a b : Reg) (s : State) : Out :=
  s.engIssue (.kbind sc d a b) 0x36 0 sc d a (s.rd b) (fun _ => 5) kbindBad
    (fun ws s k => if wordAt ws 2 = 0 then k s else s.checkRanges .store k [(wordAt ws 2, 256)]) fun _ s => s

/-- KBIND takes effect; CLR empties every key. -/
def State.doBind (s : State) (c : Nat) (x : Cmd) : EngWork :=
  let b := x.desc.take 3
  let s := s.modCore c fun k => { k with binding := some b, bindUser := x.user }
  let clear := if wbit (wordAt b 1) 33 then (upFrom 0 (bindSize b)).map fun e => wholeEntry (s.entryGran c b e) emptyKey else []
  match s.unitPuts c true clear with
  | (s, some e) => (.error e, s)
  | (s, none) => (.ok { amount := 1, flags := 0, last := true }, s)

/-! ## Sending (R337) -/

/-- Whether a KSEND descriptor breaks its field rules. -/
def ksendBad (ws : List Word) : Bool :=
  !aligned (wordAt ws 0) 64 || wordAt ws 1 == 0 || decide ((wordAt ws 1).toNat > 256) || wordAt ws 5 != 0 || wordAt ws 6 != 0 ||
  wordAt ws 7 != 0

/-- NPAIR. -/
def ksendPairs (ws : List Word) : Nat := (wordAt ws 1).toNat

/-- KSEND (R337): the pairs, DONE and STAT are checked at issue. -/
def execKsend (sc : Scope) (d a : Reg) (s : State) : Out :=
  s.engIssue (.ksend sc d a) 0x36 1 sc d a 0 (fun _ => 5) ksendBad
    (fun ws s k =>
      s.checkRanges .load (fun s => s.namedCounter (wordAt ws 2) (.atomic false) fun s => s.namedCounter (wordAt ws 3) (.atomic false) k)
        [(wordAt ws 0, 128 * ksendPairs ws)])
    fun _ s => s

/-- The add to STAT of the unit whose step this is, with RED.ADD semantics (R338). -/
def State.statAdd (s : State) (c : Nat) (user : Bool) (stat : Word) (lost diverted : Nat) : Except EngStop Unit × State :=
  match s.resolve c user (.atomic false) stat 64 with
  | (.error e, s) => (.error (engStopOf e), s)
  | (.ok ls, s) =>
    let l := ls.headD ⟨0, false, none⟩
    if notDevice l.phys then (.error (.bad cPROT stat.toNat), s)
    else match s.unitAtomic c l stat.toNat (.amo .add 0 64 (ofN (lost * 2 ^ 32 + diverted)) 0 ⟨0, false, 0, 0⟩) with
      | (s, some e) => (.error e, s)
      | (s, none) => (.ok (), s)

/-- Send the pairs of each destination as one batch, destinations in order of first place. -/
def State.sendBatches (s : State) (c : Nat) (x : Cmd) (pairs : List (Nat × Word × Word)) : List Nat → State
  | [] => s
  | rank :: rest =>
    let n := (s.core c).kseq + 1
    let s := s.modCore c fun k => { k with kseq := n }
    let b : Batch := ⟨c, (s.core c).rank, n, wordAt x.desc 2, wordAt x.desc 3, x.fp, x.user, (pairs.filter fun p => p.1 == rank).map (·.2)⟩
    let s := s.postRank (srcCore (s.gcore c)) (rankCore (s.rankEntry c rank)) rank false (.keyed b)
    State.sendBatches s c x pairs rest

/-- Send the pairs of a KSEND, and how many are lost at the sender: those for an unmapped rank, and all of them where it has no binding
(entry 31, DEDUCED). -/
def State.sendPairs (s : State) (c : Nat) (x : Cmd) (pairs : List (Word × Word)) : Nat × State :=
  match (s.core c).binding with
  | none => (pairs.length, s)
  | some b =>
    let w0 := wordAt b 0
    let ranked := pairs.map fun p => (wfld w0 0 24 + wfld (mix64 p.1) 32 32 % wfld w0 24 24, p)
    let mapped := ranked.filter fun p => rankState (s.rankEntry c p.1) != 0
    (pairs.length - mapped.length, s.sendBatches c x mapped (distinct (mapped.map (·.1))))

/-- KSEND runs: it sends its batches; for the pairs it lost it then adds to STAT, and to DONE once that is performed. -/
def State.doSend (s : State) (c : Nat) (x : Cmd) : EngWork :=
  let dn := wordAt x.desc 2
  let stat := wordAt x.desc 3
  if x.pos = 0 then
    let n := ksendPairs x.desc
    match s.engRead c x.user (wordAt x.desc 0) (128 * n) with
    | (.error e, s) => (.error e, s)
    | (.ok v, s) =>
      let (lost, s) := s.sendPairs c x ((upFrom 0 n).map fun p => (ofN (elemOf v 64 (2 * p)), ofN (elemOf v 64 (2 * p + 1))))
      (.ok { amount := lost, flags := 0, last := lost == 0 }, s)
  else if x.pos = 1 then
    if stat = 0 then (.ok { amount := x.amt, flags := 0, last := false }, s)
    else match s.statAdd c x.user stat x.amt 0 with
      | (.error e, s) => (.error e, s)
      | (.ok _, s) => (.ok { amount := x.amt, flags := 0, last := false }, s)
  else if !s.putsDone s.unit then (.error .wait, s)
  else (.ok { amount := x.amt, flags := 0, last := true }, if dn = 0 then s else s.deviceOp c s.unit dn (.cadd (ofN x.amt)) 6)

/-! ## Receiving (R338) -/

/-- The choice of a batch (R381 kind 5). -/
def State.batchChoice (s : State) (c : Nat) (x : Batch) : Choice :=
  mkChoice (dieOf c) c 0 (s.core c).rank 0 5 [x.srank, x.n]

/-- A batch reaches its core's unit and takes its place there, or is held for its turn in replay. None where it may not. -/
def State.keyedBatch (s : State) (k : Nat) : Option State :=
  s.onArrival k (fun b => match b with | .keyed _ => true | _ => false) fun c p t =>
    match p.body with
    | .keyed x =>
      if !s.choiceOpen (s.batchChoice c x) then some (s.holdChoice (s.batchChoice c x))
      else some ((t.noteChoice (s.batchChoice c x)).modCore c fun k => { k with keyed := k.keyed ++ [⟨x, 0, 0, 0, false, false⟩] })
    | _ => none

/-- Whether a core's unit holds an unprocessed pair (R336). -/
def Core.pairsLeft (k : Core) : Bool := k.keyed.any fun r => decide (r.pos < r.batch.pairs.length)

/-- Whether a command that keeps pairs waiting is under way at a core's unit: KBIND, KDRAIN (R336, R340). -/
def State.tableTaken (s : State) (c : Nat) : Bool := (s.eng c 5).run.any fun x => x.op == 0 || x.op == 2

/-- The unit number of a batch's adds. -/
def State.batchKey (s : State) (c : Nat) (x : Batch) : Nat := s.unitKey c 14 (x.n * 2048 + x.core)

/-- Send a pair to the home of its core's table, for one step there on its entry (R338); the request covers the granules of every probe. -/
def State.sendPair (s : State) (c : Nat) (key v : Word) : State :=
  let gs := match (s.core c).binding with | some b => s.pairGrans c b key | none => [localAddr (s.gcore c) 0]
  s.route ⟨0, 0, 0, c, gs.headD 0, gs, .keyed key v, false, false, srcCore (s.gcore c), false, false, false, .post (.pair c (s.ctxOf (dieOf c))), 0⟩

/-- A step of a core's keyed unit (R338): the next pair of the oldest batch is sent; then the batch's add to STAT, and, once that is performed, its add
to DONE. A STAT that takes no add posts a fault record. None where it must wait. -/
def State.keyedStep (s : State) (c : Nat) : Option State :=
  match (s.core c).keyed with
  | [] => none
  | r :: rest =>
    let x := r.batch
    let turn := fun (y : KeyRun) (s : State) => s.modCore c fun k => { k with keyed := y :: rest }
    match x.pairs[r.pos]? with
    | some (key, v) =>
      if s.tableTaken c || r.sent then none else some ((turn { r with sent := true } s).sendPair c key v)
    | none =>
      let key := s.batchKey c x
      if !r.stat && x.stat != 0 then
        (match s.asUnit x.core key false fun s => s.statAdd x.core x.user x.stat r.lost r.diverted with
         | .ok _ s => some (turn { r with stat := true } s)
         | .bad cause a s => some (turn { r with stat := true } (s.postFault c 2 cause (ofN a) 0 0 (0x36 * 256 + 1) []))
         | .wait t => t)
      else if !s.putsDone key then none
      else
        let s := { s.modCore c fun k => { k with keyed := rest } with ios := s.ios.erase key }
        some (if x.dn = 0 then s else s.deviceAdd x.core x.dn x.pairs.length 6)

/-- KEYED_BATCH (R338): packet pick.a arrives, or, with pick.flag, a step of the unit of core pick.a. -/
def execKeyedBatch (s : State) : Out := s.orStay (if s.pick.flag then s.keyedStep s.pick.a else s.keyedBatch s.pick.a)

/-! ## Draining (R340) -/

/-- Whether a KDRAIN descriptor breaks its field rules. -/
def kdrainBad (ws : List Word) : Bool :=
  !aligned (wordAt ws 0) 64 || wfld (wordAt ws 1) 1 63 != 0 || wordAt ws 3 != 0 || wordAt ws 4 != 0 || wordAt ws 5 != 0 ||
  wordAt ws 6 != 0 || wordAt ws 7 != 0

/-- The bits of the output of a KDRAIN of a core whose table is full. -/
def State.drainBits (s : State) (c : Nat) : Nat := match (s.core c).binding with | some b => 128 * bindSize b | none => 128

/-- KDRAIN (R340): a destination in the weight store or host memory is PROT at issue, taken as the output of a full table (entry 24, DEDUCED). -/
def execKdrain (sc : Scope) (d a b : Reg) (s : State) : Out :=
  s.engIssue (.kdrain sc d a b) 0x36 2 sc d a (s.rd b) (fun _ => 5) kdrainBad
    (fun ws s k => s.checkRanges .store (fun s => s.noHost [(wordAt ws 0, s.drainBits s.ci)] k) [(wordAt ws 0, 128)]) fun _ s => s

/-- The entries of a table that are not empty, in order, each with its key and value. -/
def fullEntries (ks vs : List Word) : List (Nat × Word × Word) :=
  ((upFrom 0 ks.length).zip (ks.zip vs)).filter fun y => y.2.1 != emptyKey

/-- KDRAIN runs: the output, then with CLEAR the keys; without a binding there is no entry. -/
def State.doDrainKeys (s : State) (c : Nat) (x : Cmd) : EngWork :=
  match (s.core c).binding with
  | none => (.ok { amount := 0, flags := 0, last := true }, s)
  | some b =>
    let gs := (upFrom 0 (bindSize b)).map (s.entryGran c b)
    let all := gs ++ gs.map (· + 64)
    match s.unitWords (all.zip all) with
    | (.error e, s) => (.error e, s)
    | (.ok ws, s) =>
      let full := fullEntries (ws.take gs.length) (ws.drop gs.length)
      let clear := wbit (wordAt x.desc 1) 0
      if x.pos = 0 then
        let outs := (full.zip (upFrom 0 full.length)).map fun y =>
          Put.mk (wordAt x.desc 0 + ofN (128 * y.2)) 128 (y.1.2.1.toNat + 2 ^ 64 * y.1.2.2.toNat)
        match s.engPutAll c x.user false notDevice outs with
        | (s, some e) => (.error e, s)
        | (s, none) => (.ok { amount := full.length, flags := 0, last := !clear }, s)
      else match s.unitPuts c true (full.map fun y => wholeEntry (s.entryGran c b y.1) emptyKey) with
        | (s, some e) => (.error e, s)
        | (s, none) => (.ok { amount := full.length, flags := 0, last := true }, s)

/-! ## The top-k unit: configuration (R341) -/

/-- Whether a TOPK.CFG descriptor breaks its field rules. -/
def topkBad (ws : List Word) : Bool :=
  let w0 := wordAt ws 0
  wfld w0 38 26 != 0 || wfld w0 32 5 == 0 || decide (wfld w0 32 5 > 16) || wfld w0 5 3 != 0 || topkDepth ws == 0 || decide (topkDepth ws > 16) ||
  (!wbit w0 37 && wordAt ws 2 != 0) || wfld (wordAt ws 3) 10 54 != 0 || topkTokens ws == 0 || decide (topkTokens ws > 512) ||
  wordAt ws 5 != 0 || wordAt ws 6 != 0 || wordAt ws 7 != 0

/-- TOPK.CFG (R341): MASK in user mode is PROT. -/
def execTopkCfg (sc : Scope) (d a b : Reg) (s : State) : Out :=
  s.engIssue (.topkCfg sc d a b) 0x36 3 sc d a (s.rd b) (fun _ => 5) topkBad
    (fun ws s k =>
      let counters := fun (s : State) =>
        if wordAt ws 1 = 0 then k s
        else s.namedCounter (wordAt ws 1) (.atomic false) fun s => s.checkRanges (.atomic false) k [(wordAt ws 1, 64 * topkTokens ws)]
      if wbit (wordAt ws 0) 37 then
        if s.user then .next (s.trap cPROT 0) else s.checkRanges .load counters [(wordAt ws 2, topkExperts ws)]
      else counters s)
    fun _ s => s

/-- TOPK.CFG runs: every mailbox is cleared, the mask loaded. -/
def State.doTopk (s : State) (c : Nat) (x : Cmd) : EngWork :=
  let ws := x.desc
  match (if wbit (wordAt ws 0) 37 then s.engRead c x.user (wordAt ws 2) (topkExperts ws) else (.ok (s.die (dieOf c)).dead, s)) with
  | (.error e, s) => (.error e, s)
  | (.ok v, s) =>
    (.ok { amount := 1, flags := 0, last := true },
     (s.modDie (dieOf c) fun k => { k with dead := v }).modCore c fun k => { k with topk := some (ws.take 4), mail := [], mailCount := [] })

/-! ## Steps of the router queue -/

/-- The range of own memory a router command writes (R55): the table a KBIND clears, the output of a KDRAIN. -/
def State.routerSpan (s : State) (c : Nat) (x : Cmd) : Option (Nat × Nat) :=
  match x.op with
  | 0 => if wbit (wordAt x.desc 1) 33 then some (wfld (wordAt x.desc 1) 0 25, wfld (wordAt x.desc 1) 0 25 + 128 * bindSize x.desc - 1) else none
  | 2 => s.ownSpan c (wordAt x.desc 0) (s.drainBits c)
  | _ => none

/-- Whether batches at a core wait for a KBIND or KDRAIN that has started, so that these go on through a halt: what has been sent is processed during it
(R340, R347). -/
def State.pairsWait (s : State) (c : Nat) : Bool := s.dieFinishes (dieOf c) && !(s.core c).keyed.isEmpty && s.tableTaken c

/-- A step of the oldest command of a core's router queue. A KBIND starts only when the unit holds no unprocessed pair (R336). -/
def State.routerStep (s : State) (c : Nat) (cfg : Bool) : Option State :=
  let x := s.eng c 5
  match (x.run ++ x.queue).head? with
  | none => none
  | some y =>
    if (y.op == 3) != cfg || (x.run.isEmpty && y.op == 0 && (s.core c).pairsLeft) then none
    else s.runOneIf (s.dieRuns (dieOf c) || s.pairsWait c) c 5 (fun s x => s.routerSpan c x) fun s x =>
      match x.op with | 0 => s.doBind c x | 1 => s.doSend c x | 2 => s.doDrainKeys c x | _ => s.doTopk c x

/-- ROUTER_COMMAND_COMPLETE (R336, R337, R340): a step of the oldest command of the router queue of core pick.a, but for a TOPK.CFG; the last
completes it. -/
def execRouterCommandComplete (s : State) : Out := s.orStay (s.routerStep s.pick.a false)

/-- TOPK_CFG_COMPLETE (R345): a step of the TOPK.CFG that is the oldest command of the router queue of core pick.a. -/
def execTopkCfgComplete (s : State) : Out := s.orStay (s.routerStep s.pick.a true)

/-! ## Scores (R342, R345) -/

/-- TOPK.SEND (R345): a commit point and release. -/
def execTopkSend (sc : Scope) (d a b : Reg) (s : State) : Out :=
  let v := s.rd a
  let rank := wfld (s.rd b) 0 24
  s.atRelease sc fun s =>
    let e := s.rankEntry s.ci rank
    if rankState e = 0 then some ((s.wr d 1).retire 32)
    else
      let x : Score := ⟨wfld v 0 9, wfld v 16 12, wfld v 32 32⟩
      some (((s.postRank (srcCore (s.gcore s.ci)) (rankCore e) rank false (.score x)).wr d 0).retire 32)

/-- A score reaches its core and is processed, or is held in replay (R344). None where it may not arrive. -/
def State.topkScore (s : State) (k : Nat) : Option State :=
  s.onArrival k (fun b => match b with | .score _ => true | _ => false) fun c p t =>
    match p.body with
    | .score x => some (if s.scoreHeld c x.token then s.heldNow (s.mailChoice c x.token) else t.takeScore c x)
    | _ => none

/-- TOPK_SCORE (R342): pick.a the packet. -/
def execTopkScore (s : State) : Out := s.orStay (s.topkScore s.pick.a)

/-- Whether an address lies in the weight store or host memory, as far as it translates now (R346). -/
def State.offDevice (s : State) (a : Word) : Bool :=
  wfld a 60 4 == 12 ||
  (match s.devGran s.ci s.user .load a.toNat with | .ok l => notDevice l.phys | .error _ => false)

/-- TOPK.RD (R343, R344): a commit point and release, answered by the mailbox's home. -/
def execTopkRd (sc : Scope) (d a b : Reg) (s : State) : Out :=
  let dst := s.rd a
  let token := wfld (s.rd b) 0 9
  if !aligned dst 64 then .next (s.trap cALIGN dst)
  else s.beforeCommit (fun s k => if s.offDevice dst then .next (s.trap cPROT dst) else k s) fun s => s.atRelease sc fun s =>
    some ((s.issue { mkOpAccess dst (s.mailGran s.ci token) false (.topkRd token dst s.user) (.stat d) with ordered := true }).retire 32)

end Sys2Proof.Machine
end

