-- ==== Sys2Proof/Machine/Slots.lean ====
section
/-! DEFINITION. The matrix unit's slots, tiles and numbers (R278 to R285), and the matrix command queue with OPCLAIM, OPREL, OPLOAD,
OPSTAT and the ACC commands (R289, R295 to R300, R306 to R309). -/

namespace Sys2Proof.Machine

/-! ## Formats (R282) -/

/-- The type of a matrix format code; none for the reserved code. -/
def matTy (n : Nat) : Option Ty :=
  match n with
  | 0 => some .bf16 | 1 => some .f16 | 2 => some .e4m3 | 3 => some .e5m2 | 4 => some .e3m2 | 5 => some .e2m3 | 6 => some .e2m1
  | 7 => some .i8 | 8 => some .n8 | 9 => some .i4 | 10 => some .n4 | 11 => some .q8 | 12 => some .q4 | 13 => some .q3 | 14 => some .i3
  | _ => none

/-- The type codes OPLOAD accepts (R299). -/
def loadCode (n : Nat) : Bool :=
  n == 2 || n == 3 || (decide (4 ≤ n) && decide (n ≤ 8)) || (decide (16 ≤ n) && decide (n ≤ 18)) || n == 23 || n == 24 ||
  (decide (28 ≤ n) && decide (n ≤ 30))

/-! ## Slots and tiles -/

/-- An operand slot of a quad. -/
def State.slot (s : State) (q n : Nat) : OpSlot := (s.quad q).slots.get n OpSlot.init
/-- Change an operand slot. -/
def State.modSlot (s : State) (q n : Nat) (f : OpSlot → OpSlot) : State :=
  s.modQuad q fun x => { x with slots := x.slots.set n (f (x.slots.get n OpSlot.init)) }

/-- A slot-table entry (R280). -/
def OpSlot.word (x : OpSlot) : Word :=
  ofN (x.kbits % 2 ^ 16 * 2 ^ 24 + x.pin % 256 * 2 ^ 16 + x.ty % 32 * 2 ^ 11 + x.grp % 4 * 2 ^ 9 + b2n x.relp * 2 ^ 8 +
    x.owner % 32 * 8 + x.st % 8)

/-- Row r of a slot. -/
def OpSlot.row (x : OpSlot) (r : Nat) : Nat := x.rows.getD r 0
/-- The zero point of row r and group g. -/
def OpSlot.zp (x : OpSlot) (r g : Nat) : Nat := (x.zps.getD r []).getD g 0

/-- PIN falls by one; a slot whose release is pending becomes free (R280). -/
def OpSlot.unpin (x : OpSlot) : OpSlot :=
  let x := { x with pin := x.pin - 1 }
  if x.pin = 0 ∧ x.relp = true then { x with st := 0, relp := false } else x

/-- The tiles of a quad (R278). -/
def tileCount : Nat := 96

/-- The cells of a tile, row by row. -/
def State.tile (s : State) (q t : Nat) : List Nat := (s.quad q).tiles.get t (List.replicate 4096 0)

/-- Write a tile. -/
def State.setTile (s : State) (q t : Nat) (cells : List Nat) : State := s.modQuad q fun x => { x with tiles := x.tiles.set t cells }

/-- Change the cells (i, j) of a tile with i < m and j < n, with the flags raised. -/
def mapCells (cells : List Nat) (m n : Nat) (f : Nat → Nat → Nat → Nat × Nat) : List Nat × Nat :=
  let rs := (cells.zip (upFrom 0 cells.length)).map fun p =>
    let i := p.2 / 64
    let j := p.2 % 64
    if i < m ∧ j < n then f i j p.1 else (p.1, 0)
  (rs.map (·.1), rs.foldl (fun fl r => orFlags fl r.2) 0)

/-! ## Flags (R284) -/

/-- NX of mxflags. -/
def mxNX : Nat := 1
/-- NV of mxflags. -/
def mxNV : Nat := 2
/-- OV of mxflags. -/
def mxOV : Nat := 4
/-- SAT of mxflags. -/
def mxSAT : Nat := 8
/-- ZP of mxflags. -/
def mxZP : Nat := 16

/-- FP flags as mxflags. -/
def mxOf (fl : Nat) : Nat :=
  nfld fl 0 1 * mxNX + nfld fl 2 1 * mxOV + nfld fl 4 1 * mxNV

/-- OR flags into ctl.mxflags of a quad. -/
def State.addMx (s : State) (q fl : Nat) : State := s.modQuad q fun x => { x with mxflags := x.mxflags ||| ofN (fl % 32) }

/-! ## INT40 (R67, R81) -/

/-- The INT40 value of a cell. -/
def int40 (c : Nat) : Int := toSigned 40 c

/-- Saturate to INT40: the cell, and SAT. -/
def toInt40 (x : Int) : Nat × Nat :=
  let r := satInt (-((2 ^ 39 : Nat) : Int)) (((2 ^ 39 : Nat) : Int) - 1) x
  (ofSigned 40 r.1, if r.2 then mxSAT else 0)

/-! ## Tasks, running and queued -/

/-- The tiles a task writes (R281, R285): group size G, its partial tiles for MODE 2. -/
def Task.tiles (t : Task) : List Nat :=
  let w0 := wordAt t.rec_ 0
  let acc := wfld w0 32 8
  if wfld w0 44 4 = 2 then upFrom acc (wfld (wordAt t.rec_ 1) 16 16 / groupSize (wfld w0 2 2)) else [acc]

/-- The slots a task pins (R301, R303): a partner half pins slot B alone. -/
def Task.slots (t : Task) : List Nat :=
  let w0 := wordAt t.rec_ 0
  let a := wfld w0 24 8
  let b := wfld w0 16 8
  if wbit w0 0 && !wbit w0 4 then [b] else if a = b then [a] else [a, b]

/-- The slots of a walker's pool (R290). -/
def Walker.pool (w : Walker) : List Nat := setBits (wordAt w.desc 3).toNat 0 64

/-- The slots a queue entry pins, with its place among enqueues. -/
def TqEntry.pins (e : TqEntry) : List Nat × Nat :=
  match e with
  | .task t => (t.slots, t.stamp)
  | .walker w => (w.pool, w.stamp)

/-- A tile queue of a quad. -/
def Quad.queue (x : Quad) (k : Nat) : List TqEntry := x.tq.get k []

/-- The tasks of a quad's arrays. -/
def Quad.running (x : Quad) : List Running := x.arrays.filterMap id

/-- Everything that pins slots: queue entries, running tasks and paired halves. -/
def Quad.pinned (x : Quad) : List (List Nat × Nat) :=
  ((upFrom 0 4).map fun k => (x.queue k).map TqEntry.pins).flatten ++
  (x.running.filterMap fun r => r.task.map fun t => (t.slots, t.stamp)) ++
  (x.halves.map fun h => (h.task.slots, h.task.stamp))

/-- The tiles of the accumulator commands that have started on any core of a quad (R288). -/
def accTiles (x : Cmd) : List Nat :=
  match x.op with
  | 0 => upFrom (wfld x.addr 0 8) (wfld x.addr 8 8)
  | 1 => [wfld (wordAt x.desc 0) 0 8, wfld (wordAt x.desc 0) 8 8]
  | _ => [wfld (wordAt x.desc 2) 0 8]

/-- The started matrix commands of a quad. -/
def State.mruns (s : State) (q : Nat) : List Cmd := ((quadCores q).map fun c => (s.core c).mrun).flatten

/-- Every matrix command of a quad that is not over. -/
def State.mcmds (s : State) (q : Nat) : List Cmd := ((quadCores q).map fun c => (s.core c).mrun ++ (s.core c).mq).flatten

/-- Whether a tile is in use by a task in flight, other than the one of a given stamp (R286, R288). -/
def State.tileTasked (s : State) (q stamp t : Nat) : Bool :=
  let uses := fun (x : Task) => x.stamp != stamp && x.tiles.contains t
  ((s.quad q).running.any fun r => match r.task with | some x => uses x | none => r.tile == t) || (s.quad q).halves.any fun h => uses h.task


/-- Whether tasks in flight, and accumulator commands that started before it, are done with a tile that a started command of a quad uses
(R288). -/
def State.tileTurn (s : State) (q : Nat) (x : Cmd) (t : Nat) : Bool :=
  let before := fun (y : Cmd) => decide (y.start < x.start) || (y.start == x.start && decide (y.n < x.n))
  !s.tileTasked q (2 ^ 64) t && !((s.mruns q).any fun y => y.major == 0x32 && before y && (accTiles y).contains t)

/-- Whether a tile is in use by a task in flight or by a started accumulator command (R286, R288). -/
def State.tileBusy (s : State) (q t : Nat) : Bool :=
  s.tileTasked q (2 ^ 64) t || (s.mruns q).any fun x => x.major == 0x32 && (accTiles x).contains t

/-- The slot of an OPLOAD. -/
def Cmd.loadSlot (x : Cmd) : Nat := wfld (wordAt x.desc 2) 0 6

/-- The OPLOADs of a slot that are not over. -/
def State.loadsOf (s : State) (q n : Nat) : List Cmd := (s.mcmds q).filter fun x => x.major == 0x30 && x.op == 2 && x.loadSlot == n

/-! ## Issue of the queued commands (R295) -/

/-- A full matrix command queue holds the strand, which does not issue the instruction (R295). -/
def State.matRoom (s : State) (k : State → Out) : Out := if !s.gated && decide (s.myCore.mq.length ≥ queueCap) then .next s else k s

/-- A command for the issuing core's matrix queue: the checks, commit, release, and its place in the queue. Its place among enqueues is its
number. -/
def State.matCmd (s : State) (major op : Nat) (sc : Scope) (ws : List Word) (addr ctr : Word) (checks : State → (State → Out) → Out)
    (more : State → State) : Out :=
  s.beforeCommit (fun s k => checks s fun s => s.namedCounter ctr (.atomic false) k) fun s =>
    s.atRelease sc fun s =>
      if s.myCore.mq.length ≥ queueCap then none
      else
        let q := quadOf s.ci
        let cmd := s.mkCmd major op (s.quad q).stamp ws addr ctr
        let s := s.modQuad q fun x => { x with stamp := x.stamp + 1 }
        let s := s.modMyCore fun k => { k with mq := k.mq ++ [cmd] }
        some ((more s).retire 32)

/-- OPCLAIM (R297): a slot that an OPLOAD issued earlier has still to load reads as loading (R280, R300). -/
def execOpclaim (sc : Scope) (d a : Reg) (s : State) : Out :=
  let mask := s.rd a
  s.atRelease sc fun s =>
    let q := quadOf s.ci
    match (upFrom 0 64).find? fun n => wbit mask n && (s.slot q n).st == 0 with
    | none => some ((s.wr d (BitVec.allOnes 64)).retire 32)
    | some n =>
      let m := rowOf s.ci % 2 * 2 + colOf s.ci % 2
      let owner := m * 8 + s.cur % 8
      let s := s.modSlot q n fun x => { OpSlot.init with st := if (s.loadsOf q n).isEmpty then 1 else 2, owner := owner, rows := x.rows, zps := x.zps }
      some ((s.wr d (ofN n)).retire 32)

/-- SLOT_STATE with tval = the slot number. -/
def State.slotTrap (s : State) (n : Nat) : Out := .next (s.trap cSLOT (ofN n))

/-- OPREL (R298). -/
def execOprel (sc : Scope) (a : Reg) (s : State) : Out :=
  let mask := s.rd a
  s.matRoom fun s => s.matCmd 0x30 1 sc [] mask 0
    (fun s k => match (upFrom 0 64).find? fun n => wbit mask n && (s.slot (quadOf s.ci) n).st == 0 with | some n => s.slotTrap n | none => k s)
    fun s => s

/-- Whether an OPLOAD descriptor breaks its field rules (R299). -/
def loadBad (ws : List Word) : Bool :=
  let w2 := wordAt ws 2
  let code := wfld w2 6 5
  let grp := wfld w2 11 2
  let kcnt := wfld w2 21 15
  let t := (tyOpt code).getD .f32
  wfld w2 36 28 != 0 || !loadCode code || kcnt == 0 || decide (kcnt > 16384 / t.bits) || wfld w2 14 7 == 0 ||
  decide (wfld w2 14 7 > 64) ||
  (if t.isQuant then grp == 3 || kcnt % groupSize grp != 0 || decide (kcnt / groupSize grp > 256) else grp != 0 || wordAt ws 3 != 0) ||
  wordAt ws 4 != 0 || wordAt ws 5 != 0 || wordAt ws 6 != 0 || wordAt ws 7 != 0

/-- The type of an OPLOAD. -/
def Cmd.loadTy (x : Cmd) : Ty := (tyOpt (wfld (wordAt x.desc 2) 6 5)).getD .f32
/-- KCNT. -/
def Cmd.kcnt (x : Cmd) : Nat := wfld (wordAt x.desc 2) 21 15
/-- ROWS of an OPLOAD. -/
def Cmd.loadRows (x : Cmd) : Nat := wfld (wordAt x.desc 2) 14 7
/-- The address of element (r, k) of an OPLOAD. -/
def Cmd.loadAddr (x : Cmd) (r k : Nat) : Word :=
  let w := ofN x.loadTy.bits
  let rs := wordAt x.desc 1
  wordAt x.desc 0 + if wbit (wordAt x.desc 2) 13 then ofN k * rs + ofN r * w else ofN r * rs + ofN k * w

/-- The runs of memory an OPLOAD reads, each with its bits: a row each, or with TRANS an element of every row each. -/
def Cmd.loadRuns (x : Cmd) : List (Word × Nat) :=
  let w := x.loadTy.bits
  if wbit (wordAt x.desc 2) 13 then (upFrom 0 x.kcnt).map fun k => (x.loadAddr 0 k, x.loadRows * w)
  else (upFrom 0 x.loadRows).map fun r => (x.loadAddr r 0, x.kcnt * w)

/-- The zero points of an OPLOAD in each row. -/
def Cmd.loadZps (x : Cmd) : Nat := x.kcnt / groupSize (wfld (wordAt x.desc 2) 11 2)

/-- The run of zero points of an OPLOAD, none for a type without them. -/
def Cmd.zeroRun (x : Cmd) : List (Word × Nat) :=
  if x.loadTy.isQuant then [(wordAt x.desc 3, x.loadRows * x.loadZps * x.loadTy.bits)] else []

/-- The first and the last of some runs. -/
def endRuns (rs : List (Word × Nat)) : List (Word × Nat) := (rs.head?).toList ++ (rs.getLast?).toList

/-- PROT at issue for a window that reaches another package (R299). -/
def State.ownPkg (s : State) (k : State → Out) : List Word → Out
  | [] => k s
  | a :: rest =>
    match (if wbit a 63 then s.winDecode s.ci a else none) with
    | some w => if w.pkg ≠ s.pkg then .next (s.trap cPROT a) else State.ownPkg s k rest
    | none => State.ownPkg s k rest

/-- A descriptor of a matrix command: ALIGN, the load, and ILL for a broken field (R295). -/
def State.matDesc (s : State) (i : Instr) (addr : Word) (bad : List Word → Bool) (k : List Word → State → Out) : Out :=
  if !aligned addr 512 then .next (s.trap cALIGN addr)
  else s.readDesc addr 8 fun ws s => s.beforeCommit (fun s k => if bad ws then s.ill i else k s) (k ws)

/-- The slot of an OPLOAD is loading, unless it is free (R280, R299). -/
def OpSlot.load (x : OpSlot) : OpSlot := if x.st = 0 then x else { x with st := 2 }

/-- OPLOAD (R299). -/
def execOpload (sc : Scope) (a b : Reg) (s : State) : Out :=
  let addr := s.rd a
  let ctr := s.rd b
  s.matRoom fun s => s.matDesc (.opload sc a b) addr loadBad fun ws s =>
    let x := s.mkCmd 0x30 2 0 ws addr ctr
    let q := quadOf s.ci
    s.matCmd 0x30 2 sc ws addr ctr
      (fun s k =>
        if (s.slot q x.loadSlot).st = 0 then s.slotTrap x.loadSlot
        else
          let runs := endRuns x.loadRuns ++ x.zeroRun
          s.checkRanges .load (fun s => s.ownPkg k ((runs.map fun r => [r.1, r.1 + ofN (r.2 - 1)]).flatten)) runs)
      fun s => s.modSlot q x.loadSlot OpSlot.load

/-- OPSTAT (R300). -/
def execOpstat (_sc : Scope) (d a : Reg) (s : State) : Out := s.setReg d (s.slot (quadOf s.ci) (wfld (s.rd a) 0 6)).word

/-! ## Issue of the accumulator commands (R306 to R309) -/

/-- ACC.CLR (R308): its tile range stands in the command's address. -/
def execAccClr (sc : Scope) (a b : Reg) (s : State) : Out :=
  let v := s.rd a
  let t := wfld v 0 8
  let c := wfld v 8 8
  s.matRoom fun s => s.matCmd 0x32 0 sc [] v (s.rd b)
    (fun s k => if c = 0 ∨ t + c > tileCount ∨ wfld v 16 48 ≠ 0 then s.ill (.accClr sc a b) else k s) fun s => s

/-- Whether an ACC.SCALE descriptor breaks its field rules (R309); a misaligned scale array breaks "a multiple of 16". -/
def scaleBad (ws : List Word) : Bool :=
  let w0 := wordAt ws 0
  wfld w0 31 33 != 0 || wbit w0 23 || wfld w0 24 7 == 0 || decide (wfld w0 24 7 > 64) || wfld w0 16 7 == 0 || decide (wfld w0 16 7 > 64) ||
  decide (wfld w0 8 8 ≥ tileCount) || decide (wfld w0 0 8 ≥ tileCount) || wfld w0 0 8 == wfld w0 8 8 || !aligned (wordAt ws 1) 16 ||
  !aligned (wordAt ws 2) 16 || wfld (wordAt ws 3) 40 24 != 0 || wordAt ws 4 != 0 || wordAt ws 5 != 0 || wordAt ws 6 != 0 || wordAt ws 7 != 0

/-- The runs of row scales and column scales of an ACC.SCALE. -/
def scaleRuns (ws : List Word) : List (Word × Nat) :=
  [(wordAt ws 1, 16 * wfld (wordAt ws 0) 16 7), (wordAt ws 2, 16 * wfld (wordAt ws 0) 24 7)]

/-- ACC.SCALE (R309). -/
def execAccScale (sc : Scope) (a b : Reg) (s : State) : Out :=
  let addr := s.rd a
  let ctr := s.rd b
  s.matRoom fun s => s.matDesc (.accScale sc a b) addr scaleBad fun ws s =>
    s.matCmd 0x32 1 sc ws addr ctr (fun s k => s.checkRanges .load k (scaleRuns ws)) fun s => s

/-- Whether a descriptor of ACC.DRAIN or ACC.LOAD breaks its field rules (R306). -/
def accBad (ws : List Word) : Bool :=
  let w2 := wordAt ws 2
  let code := wfld w2 23 5
  wfld w2 28 36 != 0 || wbit w2 15 || !(decide (code ≤ 8) || (decide (16 ≤ code) && decide (code ≤ 27))) || wfld w2 16 7 == 0 ||
  decide (wfld w2 16 7 > 64) || wfld w2 8 7 == 0 || decide (wfld w2 8 7 > 64) || decide (wfld w2 0 8 ≥ tileCount) ||
  wfld (wordAt ws 3) 40 24 != 0 || wordAt ws 4 != 0 || wordAt ws 5 != 0 || wordAt ws 6 != 0 || wordAt ws 7 != 0

/-- The memory type of ACC.DRAIN or ACC.LOAD. -/
def Cmd.accTy (x : Cmd) : Ty := (tyOpt (wfld (wordAt x.desc 2) 23 5)).getD .f32
/-- The memory address of cell (i, j). -/
def Cmd.accAddr (x : Cmd) (i j : Nat) : Word := wordAt x.desc 0 + ofN i * wordAt x.desc 1 + ofN (j * x.accTy.bits)
/-- M of the accumulator commands. -/
def Cmd.accM (x : Cmd) : Nat := wfld (wordAt x.desc 2) 8 7
/-- N of the accumulator commands. -/
def Cmd.accN (x : Cmd) : Nat := wfld (wordAt x.desc 2) 16 7

/-- The rows of memory an ACC.DRAIN or ACC.LOAD names, each with its bits. -/
def Cmd.accRuns (x : Cmd) : List (Word × Nat) := (upFrom 0 x.accM).map fun i => (x.accAddr i 0, x.accN * x.accTy.bits)

/-- ACC.DRAIN or ACC.LOAD. -/
def State.accMove (s : State) (i : Instr) (op : Nat) (kind : AccKind) (sc : Scope) (a b : Reg) : Out :=
  let addr := s.rd a
  let ctr := s.rd b
  s.matRoom fun s => s.matDesc i addr accBad fun ws s =>
    let x := s.mkCmd 0x32 op 0 ws addr ctr
    s.matCmd 0x32 op sc ws addr ctr (fun s k => s.checkRanges kind k (endRuns x.accRuns)) fun s => s

/-- ACC.DRAIN (R307). -/
def execAccDrain (sc : Scope) (a b : Reg) (s : State) : Out := s.accMove (.accDrain sc a b) 2 .store sc a b
/-- ACC.LOAD (R307). -/
def execAccLoad (sc : Scope) (a b : Reg) (s : State) : Out := s.accMove (.accLoad sc a b) 3 .load sc a b

/-! ## Starting (R289, R295, R298, R288) -/

/-- Whether a command of the matrix queue may start; an ACC.SCALE waits for its tiles once it has read its scales (R309; entry 73, DEDUCED). -/
def State.matReady (s : State) (q : Nat) (x : Cmd) : Bool :=
  match x.major, x.op with
  | 0x30, 1 => (setBits x.addr.toNat 0 64).all fun n => (s.loadsOf q n).all fun y => decide (y.n ≥ x.n)
  | 0x30, _ => (s.quad q).pinned.all fun p => !(p.1.contains x.loadSlot && decide (p.2 < x.n))
  | _, 1 => true
  | _, _ => (accTiles x).all fun t => !s.tileBusy q t

/-- The range of own memory an ACC.DRAIN writes (R55). -/
def State.drainSpan (s : State) (c : Nat) (x : Cmd) : Option (Nat × Nat) :=
  if x.major = 0x32 ∧ x.op = 2 then s.ownSpans c (x.accN * x.accTy.bits) (x.accRuns.map (·.1)) else none

/-- The head of a core's matrix queue starts; the slot of an OPLOAD is loading from then on, or, where it is free now, the command's amount says
so and it writes nothing (R299). -/
def State.matStart (s : State) (c : Nat) : Option State :=
  match (s.core c).mq with
  | [] => none
  | x :: _ =>
    if !s.matReady (quadOf c) x || !s.dieRuns (dieOf c) then none
    else
      (s.takeRange c 7 x (s.drainSpan c x)).map fun s =>
        let load := x.major == 0x30 && x.op == 2
        let amt := if load && (s.slot (quadOf c) x.loadSlot).st == 0 then 1 else x.amt
        let s := if load then s.modSlot (quadOf c) x.loadSlot OpSlot.load else s
        s.modCore c fun k => { k with mq := k.mq.drop 1, mrun := k.mrun ++ [{ x with start := s.clock, amt := amt }] }

/-- MATRIX_COMMAND_START (R295): pick.a the core. -/
def execMatrixCommandStart (s : State) : Out := s.orStay (s.matStart s.pick.a)

/-! ## The work of a command -/

/-- The last step of a command's work, with its flags of ctl.mxflags. -/
def matOver (flags : Nat) : Except EngStop Done := .ok { amount := 1, flags := flags, last := true }

/-- OPREL frees or marks each slot (R280, R298). -/
def State.doRelease (s : State) (q : Nat) (x : Cmd) : EngWork :=
  let one := fun (s : State) (n : Nat) => s.modSlot q n fun y =>
    if y.st = 0 then y else if y.pin = 0 then { y with st := 0, relp := false } else { y with relp := true }
  (matOver 0, (setBits x.addr.toNat 0 64).foldl one s)

/-- Memory an OPLOAD may not read (R299): host memory and peer memory. -/
def notOwn (own p : Nat) : Bool := isHost p || isPeer own p

/-- The rows of an OPLOAD's slot from the values of its runs. -/
def Cmd.rowsOf (x : Cmd) (vs : List Nat) : List Nat :=
  let w := x.loadTy.bits
  if wbit (wordAt x.desc 2) 13 then (upFrom 0 x.loadRows).map fun r => joinElems w ((vs.take x.kcnt).map fun v => elemOf v w r)
  else vs.take x.loadRows

/-- The zero points of an OPLOAD's rows from the value of its array. -/
def Cmd.zpsOf (x : Cmd) (v : Nat) : List (List Nat) :=
  (upFrom 0 x.loadRows).map fun r => (upFrom 0 x.loadZps).map fun g => elemOf v x.loadTy.bits (r * x.loadZps + g)

/-- The rows of a slot after an OPLOAD: of each row the low bits it loads, zero from row ROWS on, and the other bits as they were. -/
def Cmd.newRows (x : Cmd) (old vs : List Nat) : List Nat :=
  let n := x.kcnt * x.loadTy.bits
  let new := x.rowsOf vs
  (upFrom 0 64).map fun r => old.getD r 0 / 2 ^ n * 2 ^ n + new.getD r 0 % 2 ^ n

/-- The zero points of a slot after an OPLOAD of a q type: those of its groups, zero from row ROWS on, and the others as they were. -/
def Cmd.newZps (x : Cmd) (old : List (List Nat)) (v : Nat) : List (List Nat) :=
  let new := x.zpsOf v
  (upFrom 0 64).map fun r =>
    let left := (old.getD r []).drop x.loadZps
    (upFrom 0 x.loadZps).map (fun g => (new.getD r []).getD g 0) ++ left

/-- OPLOAD writes its slot (R299); a slot that was free as it started is left alone. -/
def State.doLoad (s : State) (c q : Nat) (x : Cmd) : EngWork :=
  let n := x.loadSlot
  if x.amt ≠ 0 then (matOver 0, s) else
  match s.engRuns c x.user (notOwn s.pkg) (x.loadRuns ++ x.zeroRun) with
  | (.error e, s) => (.error e, s)
  | (.ok vs, s) =>
    let w2 := wordAt x.desc 2
    let left := (s.loadsOf q n).any fun y => y.n != x.n
    (matOver 0, s.modSlot q n fun y =>
      { y with st := if left then 2 else 3, kbits := x.kcnt * x.loadTy.bits, ty := wfld w2 6 5,
               grp := if x.loadTy.isQuant then wfld w2 11 2 else 3, rows := x.newRows y.rows vs,
               zps := if x.loadTy.isQuant then x.newZps y.zps (vs.getLastD 0) else y.zps })

/-- ACC.CLR. -/
def State.doClear (s : State) (q : Nat) (x : Cmd) : EngWork :=
  (matOver 0, (accTiles x).foldl (fun s t => s.setTile q t (List.replicate 4096 0)) s)

/-- One cell of ACC.SCALE (R82, R309). -/
def scaleCell (fp : FpEnv) (lane part dst : Nat) (sa sb : FVal) : Nat × Nat :=
  let x := int40 part
  let t := (fprod (.fin (decide (x < 0)) x.natAbs 0) sa).bind fun p => fprod p sb
  match t with
  | none => (canonNan .f40 fp.nanm, mxNV)
  | some t =>
    let (p, f1) := roundVal .f40 fp lane t
    let (r, f2) := fadd .f40 fp lane dst p
    (r, mxOf (orFlags f1 f2))

/-- ACC.SCALE: it reads its scales, then waits for its tiles (R288). -/
def State.doScale (s : State) (c q : Nat) (x : Cmd) : EngWork :=
  let w0 := wordAt x.desc 0
  match s.engRuns c x.user (fun _ => false) (scaleRuns x.desc) with
  | (.error e, s) => (.error e, s)
  | (.ok vs, s) =>
    if !((accTiles x).all (s.tileTurn q x)) then (.error .wait, s) else
    let scale := fun (k i : Nat) => fdecode .f16 x.fp.nanm (elemOf (vs.getD k 0) 16 i)
    let part := s.tile q (wfld w0 0 8)
    let w3 := wordAt x.desc 3
    let r := mapCells (s.tile q (wfld w0 8 8)) (wfld w0 16 7) (wfld w0 24 7) fun i j old =>
      scaleCell x.fp (laneWord x.fp.srseed (wfld w3 20 20) (wfld w3 0 20) i j) (part.getD (64 * i + j) 0) old (scale 0 i) (scale 1 j)
    (matOver r.2, s.setTile q (wfld w0 8 8) r.1)

/-- A cell converted to memory (R290, R307): from FP40 or INT40, to a type. -/
def drainCell (fp : FpEnv) (lane : Nat) (t : Ty) (cell : Nat) : Nat × Nat :=
  if t.isFp then let r := fconvert t .f40 fp lane cell; (r.1, mxOf r.2)
  else
    let (lo, hi) := intRange t
    let r := satInt lo hi (int40 cell)
    (ofSigned t.bits r.1, if r.2 then mxSAT else 0)

/-- ACC.DRAIN: every cell is read first. -/
def State.doDrain (s : State) (c q : Nat) (x : Cmd) : EngWork :=
  let cells := s.tile q (wfld (wordAt x.desc 2) 0 8)
  let w3 := wordAt x.desc 3
  let rs := (upFrom 0 (x.accM * x.accN)).map fun k =>
    let i := k / x.accN
    let j := k % x.accN
    (x.accAddr i j, drainCell x.fp (laneWord x.fp.srseed (wfld w3 20 20) (wfld w3 0 20) i j) x.accTy (cells.getD (64 * i + j) 0))
  match s.engPutAll c x.user false isWs (rs.map fun r => ⟨r.1, x.accTy.bits, r.2.1⟩) with
  | (s, some e) => (.error e, s)
  | (s, none) => (matOver (rs.foldl (fun fl r => orFlags fl r.2.2) 0), s)

/-- A memory element as a cell (R307). -/
def loadCell (fp : FpEnv) (t : Ty) (v : Nat) : Nat × Nat :=
  if t.isFp then ((cvtFF .f40 t fp 0 v).1, 0) else toInt40 (intOf t v)

/-- ACC.LOAD: the cells are written together. -/
def State.doAccLoad (s : State) (c q : Nat) (x : Cmd) : EngWork :=
  match s.engRuns c x.user (fun _ => false) x.accRuns with
  | (.error e, s) => (.error e, s)
  | (.ok vs, s) =>
    let t := wfld (wordAt x.desc 2) 0 8
    let r := mapCells (s.tile q t) x.accM x.accN fun i j _ => loadCell x.fp x.accTy (elemOf (vs.getD i 0) x.accTy.bits j)
    (matOver r.2, s.setTile q t r.1)

/-- The work of a started command. -/
def State.matWork (s : State) (c : Nat) (x : Cmd) : EngWork :=
  let q := quadOf c
  match x.major, x.op with
  | 0x30, 1 => s.doRelease q x
  | 0x30, _ => s.doLoad c q x
  | _, 0 => s.doClear q x
  | _, 1 => s.doScale c q x
  | _, 2 => s.doDrain c q x
  | _, _ => s.doAccLoad c q x

/-- A matrix command leaves the started ones. -/
def State.dropMat (s : State) (c n : Nat) : State :=
  ((s.dropReads (s.unitKey c 7 n)).modCore c fun k => { k with mrun := k.mrun.filter fun y => y.n != n }).dropRange c 7 n

/-- A matrix command completes: its flags are ORed in, its counter advances (R295). -/
def State.matEnd (s : State) (c : Nat) (x : Cmd) : State :=
  let s := (s.addMx (quadOf c) x.flags).dropMat c x.n
  if x.ctr = 0 then s else s.deviceAdd c x.ctr 1 6

/-- A step of the i-th started command of a core. -/
def State.matDone (s : State) (c i : Nat) : Option State :=
  match (s.core c).mrun[i]? with
  | none => none
  | some x => if !s.dieFinishes (dieOf c) then none else s.stepCmd c 7 x (fun s y => s.matEnd c y) fun s => s.matWork c x

/-- MATRIX_COMMAND_COMPLETE (R295): a step of the started command pick.b of core pick.a, the last of which completes it. -/
def execMatrixCommandComplete (s : State) : Out := s.orStay (s.matDone s.pick.a s.pick.b)

/-- A slot whose OPLOAD met a fault (R299). -/
def State.loadFailed (s : State) (q : Nat) (x : Cmd) : State :=
  let left := (s.loadsOf q x.loadSlot).any fun y => y.n != x.n
  s.modSlot q x.loadSlot fun y => { y with st := if left then 2 else 1, kbits := 0, ty := 0, grp := 3 }

/-- A started command of an engine that met a fault is stopped and reported, once the writes it has sent are performed (R295, R322). -/
def State.faultStop (s : State) (c k i : Nat) : Option State :=
  match (s.runs c k)[i]? with
  | none => none
  | some x =>
    match x.bad with
    | none => none
    | some (cause, addr) =>
      if !s.putsDone (s.unitKey c k x.n) || x.cells != 0 then none
      else
        let s := s.cmdFault c x cause addr
        if k ≠ 7 then some (s.endCmd c k x 1 0)
        else some ((if x.major = 0x30 ∧ x.op = 2 then s.loadFailed (quadOf c) x else s).dropMat c x.n)

/-- ENGINE_FAULT_STOP (R295, R322): pick.a the core, pick.b the engine context (7 the matrix commands), pick.c the started command. -/
def execEngineFaultStop (s : State) : Out := s.orStay (s.faultStop s.pick.a s.pick.b s.pick.c)

end Sys2Proof.Machine
end

