-- ==== Sys2Proof/Machine/Tiles.lean ====
section
/-! DEFINITION. Tile tasks, the tile scheduler, paired tasks and grouped products (R80, R81, R281 to R294, R301 to R305). -/

namespace Sys2Proof.Machine

/-! ## Records (R281, R282, R285) -/

/-- The format of operand A of a record. -/
def recTyA (r : List Word) : Ty := (matTy (wfld (wordAt r 0) 52 4)).getD .f32
/-- The format of operand B of a record. -/
def recTyB (r : List Word) : Ty := (matTy (wfld (wordAt r 0) 48 4)).getD .f32
/-- MODE of a record. -/
def recMode (r : List Word) : Nat := wfld (wordAt r 0) 44 4
/-- QUEUE of a record. -/
def recQueue (r : List Word) : Nat := wfld (wordAt r 0) 8 8
/-- PAIR of a record. -/
def recPair (r : List Word) : Bool := wbit (wordAt r 0) 0
/-- LEAD of a record. -/
def recLead (r : List Word) : Bool := wbit (wordAt r 0) 4
/-- The partner quad of a paired record, in its die. -/
def recPartner (r : List Word) : Nat := wfld (wordAt r 5) 0 6
/-- PID of a paired record. -/
def recPid (r : List Word) : Nat := wfld (wordAt r 5) 16 16

/-- Whether a record breaks the rules of R281, R282 and R285, for a record that must be a half or must not. -/
def taskBad (pair : Bool) (r : List Word) : Bool :=
  let w0 := wordAt r 0
  let w1 := wordAt r 1
  let a := matTy (wfld w0 52 4)
  let b := matTy (wfld w0 48 4)
  let ta := recTyA r
  let tb := recTyB r
  let quant := ta.isQuant || tb.isQuant
  let grp := wfld w0 2 2
  let m := wfld w1 48 16
  let n := wfld w1 32 16
  let k := wfld w1 16 16
  let off := wfld w1 0 16
  wfld w0 56 8 != 0 || a.isNone || b.isNone || decide (recMode r > 2) || decide (wfld w0 41 3 > 5) || decide (wfld w0 32 8 ≥ tileCount) ||
  decide (wfld w0 24 8 ≥ 64) || decide (wfld w0 16 8 ≥ 64) || decide (recQueue r > 3) || wfld w0 5 3 != 0 ||
  wbit w0 1 != (wfld w0 41 3 == 5) || (if quant then grp == 3 else grp != 0) || recPair r != pair || (recLead r && !pair) ||
  m == 0 || decide (m > 64) || n == 0 || decide (n > 64) || k == 0 || decide ((off + k) * ta.bits > 16384) ||
  decide ((off + k) * tb.bits > 16384) || (!pair && wordAt r 5 != 0) || wfld (wordAt r 6) 40 24 != 0 || wordAt r 7 != 0 ||
  ta.isFp != tb.isFp || quant != (recMode r == 2) ||
  (recMode r == 2 && (k % groupSize grp != 0 || decide (wfld w0 32 8 + k / groupSize grp > tileCount)))

/-- Whether two quads of a die share an edge of the 8 by 8 grid (R303). -/
def quadEdge (q p : Nat) : Bool :=
  (q / 8 == p / 8 && (q % 8 + 1 == p % 8 || p % 8 + 1 == q % 8)) || (q % 8 == p % 8 && (q / 8 + 1 == p / 8 || p / 8 + 1 == q / 8))

/-- Whether a half breaks the further rules of R303, for the issuing quad in its die. -/
def pairBad (q : Nat) (r : List Word) : Bool :=
  taskBad true r || !quadEdge q (recPartner r) || wfld (wordAt r 1) 32 16 % 2 == 1 || (!recLead r && wfld (wordAt r 0) 24 8 != 0) ||
  wfld (wordAt r 5) 6 10 != 0 || wfld (wordAt r 5) 32 32 != 0

/-- Die cycles a task occupies its array (R283). -/
def taskCycles (a b : Ty) (k : Nat) : Nat :=
  let w := max a.bits b.bits
  let r := if w = 16 then 1 else if w = 8 then 2 else 4
  (k + r - 1) / r + 72

/-! ## Queues and heads (R286) -/

/-- Change a tile queue. -/
def State.modTq (s : State) (q k : Nat) (f : List TqEntry → List TqEntry) : State :=
  s.modQuad q fun x => { x with tq := x.tq.set k (f (x.queue k)) }

/-- PIN of slots falls by one. -/
def State.unpin (s : State) (q : Nat) (ns : List Nat) : State := ns.foldl (fun s n => s.modSlot q n OpSlot.unpin) s

/-- PIN of slots rises by one. -/
def State.pinSlots (s : State) (q : Nat) (ns : List Nat) : State := ns.foldl (fun s n => s.modSlot q n fun y => { y with pin := y.pin + 1 }) s

/-- The granule of a counter that a tile queue's head waits on, or why it cannot wait (R281). -/
def State.waitPlace (s : State) (c : Nat) (addr : Word) : Except Nat Loc :=
  if addr.toNat % 64 ≠ 0 then .error cALIGN else
  match s.devGran c false .load addr.toNat with
  | .error code => .error code
  | .ok l => if isWs l.phys || isHost l.phys then .error cPROT else .ok l

/-- A command fault of a queue entry (R295): its major and op, its core and its record or descriptor. -/
def State.tileFault (s : State) (core op cause : Nat) (addr rec_ : Word) : State :=
  s.postFault core 2 cause addr 0 0 (0x31 * 256 + op) [rec_]

/-- The scheduler sends the wait of the record at the head of a queue to its counter's home (R286); an address that cannot be waited on makes the task
leave (R281), and the next record is at the head. -/
def State.headWait (s : State) (q k : Nat) : Nat → State
  | 0 => s
  | fuel + 1 =>
    match (s.quad q).queue k with
    | .task t :: _ =>
      let a := wordAt t.rec_ 2
      if a = 0 then s else
      match s.waitPlace t.core a with
      | .error code =>
        let s := s.tileFault t.core t.op code a t.addr
        let s := (s.unpin q t.slots).modTq q k fun l => l.drop 1
        State.headWait s q k fuel
      | .ok l =>
        s.route ⟨0, 0, 0, t.core, l.phys, [l.phys], .wait (wordAt t.rec_ 3), false, false, srcCore (s.gcore t.core), false, false, true,
          .head q k t.stamp, 0⟩
    | _ => s

/-- Whether a request is the wait of a head that is withdrawn. -/
def Req.ofHead (r : Req) (mine : Nat → Nat → Bool) : Bool := match r.owner with | .head q _ stamp => mine q stamp | _ => false

/-- A home without the waits of heads that are withdrawn: their requests and what stands on counters. -/
def Home.withdrawHeads (h : Home) (mine : Nat → Nat → Bool) : Home :=
  { h with arrivals := h.arrivals.filter fun r => !r.ofHead mine, replay := h.replay.filter fun r => !r.1.ofHead mine,
           watch := h.watch.filter fun w => match w.kind with | .head q _ stamp => !mine q stamp | _ => true }

/-- The waits of heads are withdrawn, by quad and record's place, wherever they are. -/
def State.withdrawHeads (s : State) (mine : Nat → Nat → Bool) : State :=
  let ofHead := fun (p : Packet) => match p.body with | .req r => r.ofHead mine | _ => false
  { s with homes := s.homes.mapV fun h => h.withdrawHeads mine, flight := s.flight.filter fun p => !ofHead p,
           saved := s.saved.mapV fun x => { x with homes := x.homes.mapV fun h => h.withdrawHeads mine, held := x.held.filter fun p => !ofHead p } }

/-- The head leaves its queue, and the next record reaches the head. -/
def State.popHead (s : State) (q k : Nat) : State :=
  let s := s.modTq q k fun l => l.drop 1
  s.headWait q k ((s.quad q).queue k).length

/-- Append a record or walker to a queue (R287). -/
def State.pushTq (s : State) (q k : Nat) (e : TqEntry) : State :=
  let s := s.modTq q k fun l => l ++ [e]
  if ((s.quad q).queue k).length = 1 then s.headWait q k 1 else s

/-- Records a queue holds. -/
def tqCap : Nat := 64

/-! ## TT.ENQ, TT.PAIR, TT.GRP, TT.QCFG -/

/-- The first of a list of slots that is free. -/
def State.freeSlot (s : State) (q : Nat) (ns : List Nat) : Option Nat := ns.find? fun n => (s.slot q n).st == 0

/-- TT.ENQ and TT.PAIR (R301, R303). -/
def State.ttEnqueue (s : State) (i : Instr) (op : Nat) (sc : Scope) (d a : Reg) (bad : List Word → Bool) : Out :=
  let addr := s.rd a
  s.matDesc i addr bad fun ws s =>
    let q := quadOf s.ci
    let t : Task := ⟨ws, addr, s.ci, s.user, op, s.myCore.srseed, (s.quad q).stamp⟩
    s.beforeCommit (fun s k =>
      match s.freeSlot q t.slots with
      | some n => s.slotTrap n
      | none => s.namedCounter (wordAt ws 2) .load fun s => s.namedCounter (wordAt ws 4) (.atomic false) k) fun s =>
      s.atRelease sc fun s =>
        if ((s.quad q).queue (recQueue ws)).length ≥ tqCap ∨ (t.slots.any fun n => decide ((s.slot q n).pin ≥ 255)) = true then
          some ((s.wr d 1).retire 32)
        else
          let t := { t with stamp := (s.quad q).stamp, seed := s.myCore.srseed }
          let s := (s.pinSlots q t.slots).modQuad q fun x => { x with stamp := x.stamp + 1 }
          some (((s.wr d 0).retire 32).pushTq q (recQueue ws) (.task t))

/-- TT.ENQ (R301). -/
def execTtEnq (sc : Scope) (d a : Reg) (s : State) : Out := s.ttEnqueue (.ttEnq sc d a) 0 sc d a (taskBad false)

/-- TT.PAIR (R303). -/
def execTtPair (sc : Scope) (d a : Reg) (s : State) : Out := s.ttEnqueue (.ttPair sc d a) 2 sc d a (pairBad (quadOf s.ci % 64))

/-- Whether a grouped descriptor breaks the rules of R290. -/
def grpBad (ws : List Word) : Bool :=
  let w4 := wordAt ws 4
  !aligned (wordAt ws 0) 512 || decide ((setBits (wordAt ws 3).toNat 0 64).length < 2) || wfld w4 8 8 == 0 ||
  decide (wfld w4 0 8 + wfld w4 8 8 > tileCount) || wfld w4 32 17 == 0 || decide (wfld w4 32 17 > 65536) || wfld w4 49 15 != 0 ||
  wfld w4 18 14 != 0 || wordAt ws 5 != 0 || wordAt ws 6 != 0 || wordAt ws 7 != 0

/-- TT.GRP (R302). -/
def execTtGrp (sc : Scope) (d a : Reg) (s : State) : Out :=
  let addr := s.rd a
  s.matDesc (.ttGrp sc d a) addr grpBad fun ws s =>
    let q := quadOf s.ci
    let w : Walker := ⟨ws, addr, s.ci, s.user, s.fpEnv s.ci, s.me.act, 0, [], [], 0⟩
    s.beforeCommit (fun s k =>
      match w.pool.find? fun n => (s.slot q n).st == 0 || (s.slot q n).pin != 0 with
      | some n => s.slotTrap n
      | none => s.namedCounter (wordAt ws 1) .load fun s => s.namedCounter (wordAt ws 2) (.atomic false) k) fun s =>
      s.atRelease sc fun s =>
        let k := wfld (wordAt ws 4) 16 2
        if ((s.quad q).queue k).length ≥ tqCap then some ((s.wr d 1).retire 32)
        else
          let w := { w with stamp := (s.quad q).stamp, fp := s.fpEnv s.ci }
          let s := (s.pinSlots q w.pool).modQuad q fun x => { x with stamp := x.stamp + 1 }
          some (((s.wr d 0).retire 32).pushTq q k (.walker w))

/-- TT.QCFG (R305). -/
def execTtQcfg (sc : Scope) (a : Reg) (s : State) : Out :=
  let v := wfld (s.rd a) 0 16
  s.atRelease sc fun s => some ((s.modQuad (quadOf s.ci) fun x => { x with quantum := v }).retire 32)

/-- A TT.APPEND stopped by a command fault (R295, R304): no status is written. -/
def State.appendFault (s : State) (addr : Word) (cause at_ : Nat) : State := (s.tileFault s.ci 3 cause (ofN at_) addr).ownOver

/-- Send the add of a TT.APPEND to COUNT (R222, R304): none while the outstanding table is full (R56). -/
def State.appendAdd (s : State) (l : Loc) (count : Word) : Option State :=
  if s.me.entries ≥ 32 then none
  else
    let key := s.ownKey
    let s := (s.logNow s.ci l.page).modIo key fun x => { x with puts := x.puts ++ [l.phys], phase := 9 }
    some (s.route ⟨0, 0, 0, s.ci, l.phys, [l.phys], .cadd 1, false, false, srcCore (s.gcore s.ci), true, false, false, .unit key count.toNat false, s.cur % 8⟩)

/-- TT.APPEND after its release (R304): the copy, a granule after the other, so that nothing is written past one that is refused; then, once all
are performed at the scope, the add to COUNT, and, once that is performed, the status (entry 33, DEDUCED). -/
def State.appendStep (s : State) (sc : Scope) (d : Reg) (addr : Word) (ws img : List Word) (n : Word) : Out :=
  let count := wordAt ws 1
  let fail := fun (s : State) cause at_ => s.appendFault addr cause at_
  let gran := fun (k : Nat) => [Put.mk (wordAt ws 0 + 512 * n + ofN (64 * k)) 64 (wordAt img k).toNat]
  let p := (s.io s.ownKey).phase
  if p = 0 then s.ownSend (gran 0) 1 fail
  else s.ownDone fail fun s =>
    if p < 8 then s.ownSend (gran p) (p + 1) fail
    else if p ≠ 8 then .next (s.wr d 0).ownOver
    else if sc = .sys ∧ (s.io s.ownKey).posted ≠ [] then .next s
    else match s.addPlace s.ci count.toNat with
      | .error code => .next (s.appendFault addr code count.toNat)
      | .ok l => .next ((s.appendAdd l count).getD s)

/-- TT.APPEND (R304). -/
def execTtAppend (sc : Scope) (d a b : Reg) (s : State) : Out :=
  let img := s.rd a
  let n := s.rd d
  let addr := s.rd b
  s.matDesc (.ttAppend sc d a b) addr grpBad fun ws s =>
    if !aligned img 512 then .next (s.trap cALIGN img) else
    s.readDesc img 8 fun ws2 s =>
      s.beforeCommit (fun s k =>
        State.checkedAt (s.resolve s.ci s.user .store (wordAt ws 0 + 512 * n) 512) fun _ s =>
          s.counterAddr State.stopAt (wordAt ws 1) (.atomic false) fun _ s => k s) fun s =>
        s.atGate sc fun s => s.appendStep sc d addr ws ws2 n

/-! ## The arithmetic of a task (R80, R81) -/

/-- Element k of row r of a slot, in a type; bits beyond KBITS read as zero (R281). -/
def OpSlot.elem (x : OpSlot) (t : Ty) (r k : Nat) : Nat := nfld (x.row r % 2 ^ x.kbits) (k * t.bits) t.bits

/-- Blocks of 16 (R80). -/
def blocks {α : Type} : Nat → List α → List (List α)
  | 0, _ => []
  | fuel + 1, xs => match xs with | [] => [] | _ => xs.take 16 :: blocks fuel (xs.drop 16)

/-- One FP cell (R80). -/
def fpCell (fp : FpEnv) (lane start : Nat) (ps : List (Option FVal)) : Nat × Nat :=
  (blocks ps.length ps).foldl (fun acc b =>
    let sum := if b.any (·.isNone) then none else fsumList fp.rm (b.filterMap id)
    let (p, f1) := match sum with
      | none => (canonNan .f40 fp.nanm, flagNV)
      | some .nan => (canonNan .f40 fp.nanm, flagNV)
      | some x => roundVal .f40 fp lane x
    let (c, f2) := fadd .f40 fp lane acc.1 p
    (c, orFlags acc.2 (mxOf (orFlags f1 f2)))) (start, 0)

/-- One integer cell (R81): block sums added in order, saturating. -/
def intCell (start : Nat) (ps : List Int) : Nat × Nat :=
  (blocks ps.length ps).foldl (fun acc b =>
    let (c, f) := toInt40 (int40 acc.1 + b.foldl (· + ·) 0)
    (c, orFlags acc.2 f)) (start, 0)

/-- The zero point of an element of a Q operand, and ZP when the slot's group differs from the task's (R81, R284, R285) (entry 26, DEDUCED). -/
def zeroPoint (x : OpSlot) (t : Ty) (grp r k : Nat) : Int × Nat :=
  if !t.isQuant then (0, 0) else if x.grp ≠ grp then (0, mxZP) else ((x.zp r (k / groupSize grp) : Nat), 0)

/-- The cells of a task, M by N columns, from the contents of its slots (R80, R81, R285): for each tile it writes, its new cells;
and its flags. -/
def taskCells (r : List Word) (fp : FpEnv) (a b : OpSlot) (n : Nat) (tiles : List (List Nat)) : List (List Nat) × Nat :=
  let w0 := wordAt r 0
  let w1 := wordAt r 1
  let m := wfld w1 48 16
  let k := wfld w1 16 16
  let off := wfld w1 0 16
  let ta := recTyA r
  let tb := recTyB r
  let grp := wfld w0 2 2
  let start := fun (old : Nat) => if recMode r = 1 then old else 0
  let lane := laneWord fp.srseed (wfld (wordAt r 6) 20 20) (wfld (wordAt r 6) 0 20)
  if recMode r = 2 then
    let g := groupSize grp
    let rs := (tiles.zip (upFrom 0 tiles.length)).map fun (x : List Nat × Nat) =>
      mapCells x.1 m n fun i j _ =>
        let ps := (upFrom (off + x.2 * g) g).map fun e =>
          let za := zeroPoint a ta grp i e
          let zb := zeroPoint b tb grp j e
          ((intOf ta (a.elem ta i e) - za.1) * (intOf tb (b.elem tb j e) - zb.1), orFlags za.2 zb.2)
        let c := toInt40 ((ps.map (·.1)).foldl (· + ·) 0)
        (c.1, ps.foldl (fun fl p => orFlags fl p.2) c.2)
    (rs.map (·.1), rs.foldl (fun fl x => orFlags fl x.2) 0)
  else if ta.isFp then
    let rs := tiles.map fun old => mapCells old m n fun i j c =>
      fpCell fp (lane i j) (start c) ((upFrom off k).map fun e =>
        fprod (fdecode ta fp.nanm (a.elem ta i e)) (fdecode tb fp.nanm (b.elem tb j e)))
    (rs.map (·.1), rs.foldl (fun fl x => orFlags fl x.2) 0)
  else
    let rs := tiles.map fun old => mapCells old m n fun i j c =>
      intCell (start c) ((upFrom off k).map fun e => intOf ta (a.elem ta i e) * intOf tb (b.elem tb j e))
    (rs.map (·.1), rs.foldl (fun fl x => orFlags fl x.2) 0)

/-- The modes of a task: its record's, with the seed sampled (R71, R281). -/
def Task.fp (t : Task) : FpEnv := ⟨wfld (wordAt t.rec_ 0) 41 3, wbit (wordAt t.rec_ 0) 40, t.seed, 0⟩

/-- Slot A of a record. -/
def recA (r : List Word) : Nat := wfld (wordAt r 0) 24 8
/-- Slot B of a record. -/
def recB (r : List Word) : Nat := wfld (wordAt r 0) 16 8

/-- The columns a task or half computes (R291). -/
def Task.cols (t : Task) : Nat := wfld (wordAt t.rec_ 1) 32 16 / if recPair t.rec_ then 2 else 1

/-- What a task of a quad computes: the new cells of its tiles, and its flags. Slot A of a partner half is its lead's (R291). -/
def State.taskWork (s : State) (q : Nat) (t : Task) : List (List Nat) × Nat :=
  let tiles := t.tiles.map fun k => s.tile q k
  let b := s.slot q (recB t.rec_)
  if !recPair t.rec_ then taskCells t.rec_ t.fp (s.slot q (recA t.rec_)) b t.cols tiles
  else
    let lq := if recLead t.rec_ then q else dieOfQuad q * 64 + recPartner t.rec_
    let la := if recLead t.rec_ then recA t.rec_ else
      match (s.quad lq).halves.find? fun h => recLead h.task.rec_ && recPid h.task.rec_ == recPid t.rec_ && recPartner h.task.rec_ == q % 64 with
      | some h => recA h.task.rec_
      | none => 0
    taskCells t.rec_ t.fp (s.slot lq la) b t.cols tiles

/-- Write the cells a task computes into its tiles; their other cells are unchanged (R281, R291). -/
def State.setTiles (s : State) (q : Nat) (t : Task) (cells : List (List Nat)) : State :=
  (t.tiles.zip cells).foldl (fun s x =>
    s.setTile q x.1 (mapCells (s.tile q x.1) (wfld (wordAt t.rec_ 1) 48 16) t.cols fun i j _ => (x.2.getD (64 * i + j) 0, 0)).1) s

/-- Completion of a task (R284): flags, pins, DONE, in that order. -/
def State.taskDone (s : State) (q : Nat) (t : Task) (flags : Nat) : State :=
  let s := (s.addMx q flags).unpin q t.slots
  if wordAt t.rec_ 4 = 0 then s else s.deviceAdd t.core (wordAt t.rec_ 4) 1 6

/-! ## Grouped products (R290) -/

/-- Change the walker at the head of a queue. -/
def State.modWalker (s : State) (q k : Nat) (f : Walker → Walker) : State :=
  s.modTq q k fun l => match l with | .walker w :: rest => .walker (f w) :: rest | l => l

/-- The walker at the head of a queue. -/
def State.walkerAt (s : State) (q k : Nat) : Option Walker :=
  match (s.quad q).queue k with | .walker w :: _ => some w | _ => none

/-- Change a group that the walker at the head of a queue runs, by its lane. -/
def State.modRunning (s : State) (q k lane : Nat) (f : GroupRun → GroupRun) : State :=
  s.modWalker q k fun w => { w with runs := w.runs.map fun g => if g.lane = lane then f g else g }

/-- The groups a walker runs together at most: each has two slots of the pool and a tile of its own (R290; entry 28, DEDUCED). -/
def Walker.lanes (w : Walker) : Nat := min (w.pool.length / 2) (wfld (wordAt w.desc 4) 8 8)

/-- The unit number of a walker, 0, or of the group of a lane, from 1. -/
def State.laneKey (s : State) (w : Walker) (i : Nat) : Nat := s.unitKey w.core 8 (w.stamp * 64 + i)
/-- The unit number of a walker. -/
def State.walkerKey (s : State) (w : Walker) : Nat := s.laneKey w 0
/-- The unit number of a group a walker runs. -/
def State.runKey (s : State) (w : Walker) (g : GroupRun) : Nat := s.laneKey w (g.lane + 1)
/-- The unit numbers of a walker and its lanes. -/
def State.walkerKeys (s : State) (w : Walker) : List Nat := (upFrom 0 (w.lanes + 1)).map (s.laneKey w)

/-- The fault a walker has met, if any, with its address. -/
def State.walkerBad (s : State) (w : Walker) : Option (Nat × Nat) := (s.walkerKeys w).findSome? fun k => (s.io k).bad

/-- The number of the scoreboard entry of a group a walker runs (R55). -/
def Walker.rangeTag (w : Walker) (lane : Nat) : Nat := cmdTag 8 (w.stamp * 64 + lane)

/-- A walker leaves its queue, and its pool is unpinned. -/
def State.endWalker (s : State) (q k : Nat) (w : Walker) : State :=
  let s := { s with ios := (s.walkerKeys w).foldl (fun m x => m.erase x) s.ios }
  ((w.runs.foldl (fun s g => s.dropTag w.core (w.rangeTag g.lane)) s).unpin q w.pool).popHead q k

/-- A step of a walker, or of a group it runs, as a unit: a fault stops it. None where it waits. -/
def State.walkerStep {α : Type} (s : State) (w : Walker) (key : Nat) (work : State → Except EngStop α × State) (fin : α → State → State) :
    Option State :=
  match s.asUnit w.core key false work with
  | .ok a s => some (fin a s)
  | .bad cause addr s => some (s.modIo key fun x => { x with bad := x.bad.or (some (cause, addr)) })
  | .wait t => t

/-- A walker stopped by a command fault (R302). -/
def State.stopWalker (s : State) (q k : Nat) (w : Walker) (cause : Nat) (addr : Word) : State :=
  (s.tileFault w.core 1 cause addr w.addr).endWalker q k w

/-- The type of C of a group record. -/
def grpTyC (r : List Word) : Ty :=
  match wfld (wordAt r 5) 40 2 with | 0 => .f32 | 1 => .bf16 | 2 => .f16 | _ => .i32
/-- The type of A of a group record. -/
def grpTyA (r : List Word) : Ty := (matTy (wfld (wordAt r 5) 32 4)).getD .f32
/-- The type of B of a group record. -/
def grpTyB (r : List Word) : Ty := (matTy (wfld (wordAt r 5) 36 4)).getD .f32
/-- M of a group record. -/
def grpM (r : List Word) : Nat := wfld (wordAt r 3) 42 21
/-- N of a group record. -/
def grpN (r : List Word) : Nat := wfld (wordAt r 3) 21 21
/-- K of a group record. -/
def grpK (r : List Word) : Nat := wfld (wordAt r 3) 0 21

/-- Read a counter for the unit whose step this is, as a wait reads it (R53, R223): in supervisor mode, and never in the weight store or host
memory. -/
def State.counterAsk (s : State) (c : Nat) (addr : Word) : Except EngStop Word × State :=
  if addr.toNat % 64 ≠ 0 then (.error (.bad cALIGN addr.toNat), s) else
  match s.resolve c false .load addr 64 with
  | (.error e, s) => (.error (engStopOf e), s)
  | (.ok ls, s) =>
    if ls.any fun l => notDevice l.phys then (.error (.bad cPROT addr.toNat), s) else
    match s.unitWords (ls.map fun l => (l.phys, addr.toNat)) with
    | (.error e, s) => (.error e, s)
    | (.ok ws, s) => (.ok (wordAt ws 0), s)

/-- Whether the fields of a group record are bad (R290). -/
def badRecord (r : List Word) : Bool :=
  let w5 := wordAt r 5
  (matTy (wfld w5 32 4)).isNone || (matTy (wfld w5 36 4)).isNone || (grpTyA r).isQuant || (grpTyB r).isQuant ||
  (grpTyA r).isFp != (grpTyB r).isFp || wbit (wordAt r 3) 63 || wfld w5 42 22 != 0

/-- Whether a group record is bad, and whether a group may start: it is bad, or its arrival counter has reached its threshold (R290). -/
def State.groupReady (s : State) (c : Nat) (r : List Word) : Except EngStop (Bool × Bool) × State :=
  if badRecord r then (.ok (true, true), s)
  else if wordAt r 6 = 0 then (.ok (false, true), s)
  else match s.counterAsk c (wordAt r 6) with
    | (.error .wait, s) => (.error .wait, s)
    | (.error (.bad _ _), s) => (.ok (true, true), s)
    | (.ok v, s) => (.ok (false, decide ((wordAt r 7).toNat ≤ v.toNat)), s)

/-- The first group of a list that a walker may start: its record and whether that is bad, or what stops its reading. -/
def State.findGroup (s : State) (w : Walker) : List Nat → Except EngStop (Option (Nat × List Word × Bool)) × State
  | [] => (.ok none, s)
  | g :: rest =>
    if w.begun.contains g then State.findGroup s w rest else
    match s.engRead w.core w.user (wordAt w.desc 0 + ofN (512 * g)) 512 with
    | (.error e, s) => (.error e, s)
    | (.ok v, s) =>
      let r := (upFrom 0 8).map fun k => ofN (nfld v (64 * k) 64)
      match s.groupReady w.core r with
      | (.error e, s) => (.error e, s)
      | (.ok (bad, go), s) => if go then (.ok (some (g, r, bad)), s) else State.findGroup s w rest

/-- LIMIT of a walker. -/
def Walker.limit (w : Walker) : Nat := wfld (wordAt w.desc 4) 32 17

/-- The next group of a walker (R290 items 1 and 2): COUNT is read, and then the records of the groups present. -/
def State.nextGroup (s : State) (w : Walker) : Except EngStop (Option (Nat × List Word × Bool)) × State :=
  match s.counterAsk w.core (wordAt w.desc 1) with
  | (.error e, s) => (.error e, s)
  | (.ok v, s) => s.findGroup w (upFrom 0 (min v.toNat w.limit))

/-- The rows, columns and depth of the chunk a group is at, with the indices of its first row, column and element. -/
structure GroupChunk where
  row0 : Nat
  col0 : Nat
  k0   : Nat
  m    : Nat
  n    : Nat
  k    : Nat
  deriving DecidableEq, Repr

/-- The chunk a group is at (R290): tiles in row-major order, chunks of 1,024 elements. -/
def GroupRun.chunkOf (g : GroupRun) : GroupChunk :=
  let cols := (grpN g.rec_ + 63) / 64
  let row0 := g.tile / cols * 64
  let col0 := g.tile % cols * 64
  let k0 := g.chunk * 1024
  ⟨row0, col0, k0, min 64 (grpM g.rec_ - row0), min 64 (grpN g.rec_ - col0), min 1024 (grpK g.rec_ - k0)⟩

/-- The accumulator tile of a lane (entry 28, DEDUCED). -/
def Walker.accTile (w : Walker) (lane : Nat) : Nat := wfld (wordAt w.desc 4) 0 8 + lane

/-- The two pool slots of a lane. -/
def Walker.pair (w : Walker) (lane : Nat) : Nat × Nat := (w.pool.getD (2 * lane) 0, w.pool.getD (2 * lane + 1) 0)

/-- The rows of one operand of a chunk, as runs of memory. -/
def chunkRuns (t : Ty) (base rs : Word) (k0 n row0 rows : Nat) : List (Word × Nat) :=
  (upFrom row0 rows).map fun r => (base + ofN r * rs + ofN (k0 * t.bits), n * t.bits)

/-- Whether the chunk of A that a group needs is in its slot already: that of the tile before it in the row, where one chunk is the whole depth,
so that every column of a row of C comes from one reading of A (R367; entry 28, DEDUCED). -/
def GroupRun.keepsA (g : GroupRun) : Bool := decide (g.chunkOf.col0 > 0) && decide (grpK g.rec_ ≤ 1024)

/-- A group loads its chunk into its pair of pool slots. -/
def State.loadChunk (s : State) (q : Nat) (w : Walker) (g : GroupRun) : Except EngStop Unit × State :=
  let x := g.chunkOf
  let w4 := wordAt g.rec_ 4
  let ra := if g.keepsA then [] else chunkRuns (grpTyA g.rec_) (wordAt g.rec_ 0) (ofN (wfld w4 0 32)) x.k0 x.k x.row0 x.m
  let rb := chunkRuns (grpTyB g.rec_) (wordAt g.rec_ 1) (ofN (wfld w4 32 32)) x.k0 x.k x.col0 x.n
  match s.engRuns w.core w.user (fun _ => false) (ra ++ rb) with
  | (.error e, s) => (.error e, s)
  | (.ok vs, s) =>
    let s := if g.keepsA then s else s.modSlot q (w.pair g.lane).1 fun y => { y with rows := vs.take x.m }
    (.ok (), s.modSlot q (w.pair g.lane).2 fun y => { y with rows := vs.drop ra.length })

/-- The rows of C that a group writes, as far as they lie in own memory (R55). -/
def State.groupSpan (s : State) (c : Nat) (r : List Word) : Option (Nat × Nat) :=
  s.ownSpans c (grpN r * (grpTyC r).bits) ((upFrom 0 (grpM r)).map fun i => wordAt r 2 + ofN (i * wfld (wordAt r 5) 0 32))

/-- A group that has been found starts in a lane (R290): a bad one posts its record, and one that writes nothing is done at once. It waits while
no scoreboard entry is free (R55). -/
def State.beginGroup (s : State) (q k : Nat) (w : Walker) (g : Nat) (r : List Word) (bad : Bool) : State :=
  let done := bad || grpM r == 0 || grpN r == 0 || grpK r == 0
  let lane := ((upFrom 0 w.lanes).find? fun i => w.runs.all fun x => x.lane != i).getD 0
  match s.takeSpan w.core (w.rangeTag lane) w.act (if done then none else s.groupSpan w.core r) with
  | none => s
  | some s =>
    let s := if bad then s.postFault w.core 2 cSLOT 0 0 0 g [] else s
    s.modWalker q k fun w => { w with begun := g :: w.begun, runs := w.runs ++ [⟨g, r, lane, 0, 0, false, false, done⟩] }

/-- A step of the walker at the head of queue k: its i-th group loads the chunk it is at, or, where it runs no i-th, a group starts in a free
lane. None where it waits. -/
def State.groupStep (s : State) (q k i : Nat) : Option State :=
  match s.walkerAt q k with
  | none => none
  | some w =>
    if (s.walkerBad w).isSome || !s.dieRuns (dieOfQuad q) then none
    else match w.runs[i]? with
      | none =>
        if w.runs.length ≥ w.lanes then none
        else s.walkerStep w (s.walkerKey w) (fun s => s.nextGroup w) fun found s =>
          match found with
          | none => s
          | some (g, r, bad) => s.beginGroup q k w g r bad
      | some g =>
        if g.loaded || g.done then none
        else s.walkerStep w (s.runKey w g) (fun s => s.loadChunk q w g) fun _ s => s.modRunning q k g.lane fun x => { x with loaded := true }

/-- GROUP_START: pick.a the quad, pick.b the queue, pick.c the group. -/
def execGroupStart (s : State) : Out := s.orStay (s.groupStep s.pick.a s.pick.b s.pick.c)

/-- GROUP_FINISH: a group's C writes are performed; DONE advances, and after LIMIT groups the product ends (R290). A walker that met a fault
stops here, once what it has sent is performed (R302). -/
def State.groupFinish (s : State) (q k i : Nat) : Option State :=
  match s.walkerAt q k with
  | none => none
  | some w =>
    match s.walkerBad w, w.runs[i]? with
    | some (cause, addr), _ =>
      if (w.runs.any (·.busy)) || !(s.walkerKeys w).all s.putsDone then none else some (s.stopWalker q k w cause (ofN addr))
    | none, none => none
    | none, some g =>
      if !g.done || g.busy || !s.putsDone (s.runKey w g) then none else
      let s := if wordAt w.desc 2 = 0 then s else s.deviceAdd w.core (wordAt w.desc 2) 1 6
      let s := s.dropTag w.core (w.rangeTag g.lane)
      let s := s.modWalker q k fun w => { w with runs := w.runs.filter fun x => x.lane != g.lane, fin := w.fin + 1 }
      some (if w.fin + 1 ≥ w.limit then s.endWalker q k w else s)

/-- GROUP_FINISH: pick.a the quad, pick.b the queue, pick.c the group. -/
def execGroupFinish (s : State) : Out := s.orStay (s.groupFinish s.pick.a s.pick.b s.pick.c)

/-- The task record a chunk runs as (R290): MODE ZERO for the first, ACC after, with TI the group and TJ the tile. -/
def Walker.chunkRec (w : Walker) (g : GroupRun) : List Word :=
  let x := g.chunkOf
  let w5 := wordAt g.rec_ 5
  [ofN (wfld w5 32 4 * 2 ^ 52 + wfld w5 36 4 * 2 ^ 48 + (if g.chunk = 0 then 0 else 1) * 2 ^ 44 + w.fp.rm * 2 ^ 41 + b2n w.fp.nanm * 2 ^ 40),
   ofN (x.m * 2 ^ 48 + x.n * 2 ^ 32 + x.k * 2 ^ 16), 0, 0, 0, 0, ofN (g.g % 2 ^ 20 * 2 ^ 20 + g.tile % 2 ^ 20), 0]

/-- A cell of a walker written to C (R290). -/
def cCell (fp : FpEnv) (lane : Nat) (isFp : Bool) (t : Ty) (cell : Nat) : Nat × Nat :=
  if isFp then let r := fconvert t .f40 fp lane cell; (r.1, mxOf r.2)
  else if t.isFp then let r := roundFin t fp lane (decide (int40 cell < 0)) (int40 cell).natAbs 0; (r.1, mxOf r.2)
  else drainCell fp lane t cell

/-- The elements of C of a finished output tile of a group, with their flags. -/
def Walker.cPuts (w : Walker) (g : GroupRun) (x : GroupChunk) (cells : List Nat) : List (Put × Nat) :=
  let fp := { w.fp with srtile := 0 }
  let t := grpTyC g.rec_
  let sc := ofN (wfld (wordAt g.rec_ 5) 0 32)
  (upFrom 0 (x.m * x.n)).map fun e =>
    let i := e / x.n
    let j := e % x.n
    let c := cCell fp (laneWord fp.srseed g.g g.tile i j) (grpTyA g.rec_).isFp t (cells.getD (64 * i + j) 0)
    (⟨wordAt g.rec_ 2 + ofN (x.row0 + i) * sc + ofN ((x.col0 + j) * t.bits), t.bits, c.1⟩, c.2)

/-- A walker's chunk completes: its cells, and after the last chunk of a tile, C (R290). None where a write must wait. -/
def State.chunkDone (s : State) (q k : Nat) (w : Walker) (g : GroupRun) : Option State :=
  let x := g.chunkOf
  let tile := w.accTile g.lane
  let whole := fun (y : OpSlot) => { y with kbits := 16384 }
  let (cells, fl) := taskCells (w.chunkRec g) { w.fp with srtile := 0 } (whole (s.slot q (w.pair g.lane).1)) (whole (s.slot q (w.pair g.lane).2)) x.n [s.tile q tile]
  let now := cells.headD []
  let last := decide ((g.chunk + 1) * 1024 ≥ grpK g.rec_)
  let ps := if last then w.cPuts g x now else []
  let tiles := (grpM g.rec_ + 63) / 64 * ((grpN g.rec_ + 63) / 64)
  let next := if last then { g with tile := g.tile + 1, chunk := 0, loaded := false, busy := false, done := decide (g.tile + 1 ≥ tiles) }
    else { g with chunk := g.chunk + 1, loaded := false, busy := false }
  s.walkerStep w (s.runKey w g) (fun s =>
      match s.engPutAll w.core w.user false notDevice (ps.map (·.1)) with
      | (s, some .wait) => (.error .wait, s)
      | (s, e) => (.ok e, s)) fun e s =>
    let s := ((s.setTile q tile now).addMx q (ps.foldl (fun fl y => orFlags fl y.2) fl)).modRunning q k g.lane fun _ => next
    match e with
    | some (.bad cause addr) => s.modIo (s.runKey w g) fun x => { x with bad := x.bad.or (some (cause, addr)) }
    | _ => s

/-! ## Paired halves (R291, R292) -/

/-- The half of a partner quad that names the same pair, if it has issued. -/
def State.otherHalf (s : State) (q : Nat) (r : List Word) : Option Half :=
  (s.quad (dieOfQuad q * 64 + recPartner r)).halves.find? fun h => recPid h.task.rec_ == recPid r && recPartner h.task.rec_ == q % 64

/-- Whether two halves are a valid pair: one leads, and their shapes and formats agree (entry 27, DEDUCED). -/
def halvesMatch (r p : List Word) : Bool :=
  recLead r != recLead p && wordAt r 1 == wordAt p 1 && wfld (wordAt r 0) 44 20 == wfld (wordAt p 0) 44 20 &&
  wfld (wordAt r 0) 2 2 == wfld (wordAt p 0) 2 2

/-- Discard a half of a quad: staging, array and pins; nothing is written (R292). -/
def State.dropHalf (s : State) (q : Nat) (t : Task) : State :=
  (s.modQuad q fun x =>
    { x with halves := x.halves.filter fun h => h.task.stamp != t.stamp,
             arrays := x.arrays.map fun r => match r with
               | some y => if (match y.task with | some z => z.stamp == t.stamp | none => false) then none else r
               | none => none }).unpin q t.slots

/-- The fault record of an abort in a quad (R292). -/
def State.pairRecord (s : State) (q cause pid : Nat) : State :=
  s.postRec q (s.faultRec (agentCore q) 2 cause 0 0 0 pid [])

/-- A record leaves the head of its queue with the wait that stands for it (R292). -/
def State.dropHead (s : State) (q k : Nat) (t : Task) : State :=
  let s := (s.withdrawHeads fun p stamp => p == q && stamp == t.stamp).modQuad q fun x => { x with waited := x.waited.filter fun y => y != t.stamp }
  (s.unpin q t.slots).popHead q k

/-- A record whose counter proved uncorrectable leaves the head of its queue with the fault (R281, R286). None where no head has. -/
def State.dropUnread (s : State) (q : Nat) : Option State :=
  (upFrom 0 4).findSome? fun k =>
    match (s.quad q).queue k with
    | .task t :: _ =>
      if !(s.quad q).unread.contains t.stamp then none
      else
        let s := (s.modQuad q fun x => { x with unread := x.unread.filter fun y => y != t.stamp }).tileFault t.core t.op cMEMERR (wordAt t.rec_ 2) t.addr
        some ((s.unpin q t.slots).popHead q k)
    | _ => none

/-- Abort an issued half with its partner: the partner is its issued half, or its record at the head of a queue (R292). -/
def State.pairAbort (s : State) (q cause : Nat) (t : Task) : State :=
  let p := dieOfQuad q * 64 + recPartner t.rec_
  let s := match s.otherHalf q t.rec_ with
    | some h => s.dropHalf p h.task
    | none =>
      (match (upFrom 0 4).find? fun k => match (s.quad p).queue k with
          | .task x :: _ => recPair x.rec_ && recPid x.rec_ == recPid t.rec_ && recPartner x.rec_ == q % 64
          | _ => false with
       | some k => (match (s.quad p).queue k with | .task x :: _ => s.dropHead p k x | _ => s)
       | none => s)
  let s := s.dropHalf q t
  (s.pairRecord q cause (recPid t.rec_)).pairRecord p cause (recPid t.rec_)

/-- Staging areas of a quad (R278). -/
def stagingAreas : Nat := 12

/-! ## The scheduler (R286, R287) -/

/-- Whether a slot serves a task (R286): ready, or loading only by OPLOADs issued after the task was enqueued (entry 26, DEDUCED). -/
def State.slotServes (s : State) (q stamp n : Nat) : Bool :=
  let x := s.slot q n
  x.st == 3 || (x.st == 2 && (s.loadsOf q n).all fun y => decide (y.n > stamp))

/-- The group of a walker at a queue's head whose chunk may be issued, if any: the first whose loads have been answered and whose tile is free. -/
def State.openRun (s : State) (q : Nat) (w : Walker) : Option GroupRun :=
  if (s.walkerBad w).isSome then none else w.runs.find? fun g => g.loaded && !g.busy && !g.done && !s.tileBusy q (w.accTile g.lane)

/-- Whether the head of a queue is issuable, an array being free (R286, R291). -/
def State.headOpen (s : State) (q k : Nat) : Bool :=
  match (s.quad q).queue k with
  | .task t :: _ =>
    (wordAt t.rec_ 2 == 0 || (s.quad q).waited.contains t.stamp) && (t.slots.all fun n => s.slotServes q t.stamp n) &&
    (if recPair t.rec_ then
      decide ((s.quad q).halves.length < stagingAreas) && (recLead t.rec_ || (s.otherHalf q t.rec_).isSome)
     else true) && t.tiles.all fun x => !s.tileBusy q x
  | .walker w :: _ => (s.openRun q w).isSome
  | [] => false

/-- The core whose ctl.det governs the issue of a queue's head (entry 29, DEDUCED). -/
def State.headCore (s : State) (q k : Nat) : Nat :=
  match (s.quad q).queue k with
  | .task t :: _ => t.core
  | .walker w :: _ => w.core
  | [] => agentCore q

/-- The choice of a queue and array (R381 kind 7). -/
def State.tileChoice (s : State) (q k array : Nat) : Choice :=
  let since := (s.quad q).lastIssue.getD (s.die (dieOfQuad q)).recFrom
  let x := mkChoice (dieOfQuad q) (s.headCore q k) 3 (q % 64) 0 7 [k, array]
  { x with w2 := ofN (min (s.clock - since) (2 ^ 32 - 1)) }

/-- The queue the scheduler issues from among the issuable ones (R287), highest number first. -/
def pickQueue (quantum : Nat) (skips : KMap Nat) (ks : List Nat) : Option Nat :=
  match ks.find? fun k => quantum != 0 && decide (skips.get k 0 ≥ quantum) with
  | some k => some k
  | none => ks.head?

/-- Note an issue from a queue: skip counts, the log, and the cycle (R287, R381). -/
def State.noteIssue (s : State) (q k : Nat) (ks : List Nat) (x : Choice) : State :=
  let s := s.modQuad q fun y =>
    { y with skips := (ks.foldl (fun m j => if j = k then m else m.set j (min (m.get j 0 + 1) 65535)) y.skips).set k 0 }
  let s := s.noteChoice x
  if s.recording x.core then s.modQuad q fun y => { y with lastIssue := some s.clock } else s

/-- Put a run into an array. -/
def State.occupy (s : State) (q array : Nat) (r : Running) : State :=
  s.modQuad q fun x => { x with arrays := listSet x.arrays array (some r) }

/-- The head of queue k issues to an array (R286, R290, R291). -/
def State.issueHead (s : State) (q k array : Nat) : Option State :=
  match (s.quad q).queue k with
  | .task t :: _ =>
    let len := taskCycles (recTyA t.rec_) (recTyB t.rec_) (wfld (wordAt t.rec_ 1) 16 16)
    let s := s.popHead q k
    let s := s.modQuad q fun x => { x with waited := x.waited.filter fun y => y != t.stamp }
    let run : Running := ⟨k, some t, 0, s.clock, len⟩
    if !recPair t.rec_ then some (s.occupy q array run)
    else
      let s := (s.occupy q array run).modQuad q fun x => { x with halves := x.halves ++ [⟨t, s.clock, false, [], 0⟩] }
      (match s.otherHalf q t.rec_ with
       | some h => some (if halvesMatch t.rec_ h.task.rec_ then s else s.pairAbort q cPAIRABORT t)
       | none => some s)
  | .walker w :: _ =>
    (match s.openRun q w with
     | none => none
     | some g =>
       let s := s.modRunning q k g.lane fun x => { x with busy := true }
       some (s.occupy q array ⟨k, none, w.accTile g.lane, s.clock, taskCycles (grpTyA g.rec_) (grpTyB g.rec_) g.chunkOf.k⟩))
  | [] => none

/-- TILE_TASK_ISSUE (R281, R287): a head whose counter was uncorrectable leaves with its fault; otherwise the scheduler's own order decides, for the first
free array, and in replay the queue and the array that the next record names, which are waited for (R381, R382). -/
def State.tileIssue (s : State) (q : Nat) : Option State :=
  if !s.dieRuns (dieOfQuad q) then none else
  match s.dropUnread q, (upFrom 0 (s.quad q).arrays.length).filter fun a => ((s.quad q).arrays.getD a none).isNone with
  | some s, _ => some s
  | none, [] => none
  | none, array :: more =>
    let ks := [3, 2, 1, 0].filter fun k => s.headOpen q k
    let forced := ks.any fun k => s.forcing (s.headCore q k) 7 && (s.nextCrumb (dieOfQuad q) (s.tileChoice q k array).key).isSome
    let mayTake := fun (x : Nat × Nat) => s.choiceOpen (s.tileChoice q x.1 x.2)
    let taken := if forced then (((array :: more).map fun a => ks.map fun k => (k, a)).flatten).find? mayTake
      else ((pickQueue (s.quad q).quantum (s.quad q).skips ks).map fun k => (k, array)).filter mayTake
    match taken with
    | none => ks.head?.map fun k => s.holdChoice (s.tileChoice q k array)
    | some (k, a) => (s.issueHead q k a).map fun t => t.noteIssue q k ks (s.tileChoice q k a)

/-- TILE_TASK_ISSUE: pick.a the quad. -/
def execTileTaskIssue (s : State) : Out := s.orStay (s.tileIssue s.pick.a)

/-- TILE_TASK_COMPLETE (R284): what an array of a quad runs has run its cycles. -/
def State.tileComplete (s : State) (q array : Nat) : Option State :=
  match (s.quad q).arrays.getD array none with
  | none => none
  | some r =>
    if s.clock < r.start + r.len then none else
    let idle := fun (s : State) => s.modQuad q fun x => { x with arrays := listSet x.arrays array none }
    match r.task with
    | some t =>
      let (cells, fl) := s.taskWork q t
      if recPair t.rec_ then
        some ((idle s).modQuad q fun x =>
          { x with halves := x.halves.map fun h => if h.task.stamp = t.stamp then { h with full := true, cells := cells, flags := fl } else h })
      else some (((idle s).setTiles q t cells).taskDone q t fl)
    | none =>
      match s.walkerAt q r.queue with
      | none => some (idle s)
      | some w => match w.runs.find? fun g => w.accTile g.lane == r.tile with
        | none => some (idle s)
        | some g => (s.chunkDone q r.queue w g).map fun t =>
          if (t.walkerAt q r.queue).any fun w => w.runs.any fun x => x.lane == g.lane && x.busy then t else idle t

/-- TILE_TASK_COMPLETE: pick.a the quad, pick.b the array. -/
def execTileTaskComplete (s : State) : Out := s.orStay (s.tileComplete s.pick.a s.pick.b)

/-- PAIR_COMMIT (R291): both halves of the lead's k-th half write their tiles in one step. An accumulator command that has started on a tile since
waits for the half there (R288). -/
def State.pairCommit (s : State) (q k : Nat) : Option State :=
  match (s.quad q).halves[k]? with
  | none => none
  | some h =>
    let r := h.task.rec_
    let p := dieOfQuad q * 64 + recPartner r
    match s.otherHalf q r with
    | none => none
    | some o =>
      let free := fun (q : Nat) (t : Task) => t.tiles.all fun x => !s.tileTasked q t.stamp x
      if !recLead r || !h.full || !o.full || !free q h.task || !free p o.task then none else
      let gone := fun (s : State) (q : Nat) (t : Task) => s.modQuad q fun x => { x with halves := x.halves.filter fun y => y.task.stamp != t.stamp }
      let s := gone (gone s q h.task) p o.task
      let s := (s.setTiles q h.task h.cells).setTiles p o.task o.cells
      some ((s.taskDone q h.task h.flags).taskDone p o.task o.flags)

/-- PAIR_COMMIT: pick.a the lead's quad, pick.b its half. -/
def execPairCommit (s : State) : Out := s.orStay (s.pairCommit s.pick.a s.pick.b)

/-- PAIR_TIMEOUT (R292): ctl.pairtmo cycles have passed since the lead's issue; the count stops from a halt until the restore (R293). -/
def State.pairTimeout (s : State) (q k : Nat) : Option State :=
  match (s.quad q).halves[k]? with
  | none => none
  | some h =>
    if !recLead h.task.rec_ || s.switching (dieOfQuad q) || decide (s.clock < h.start + (s.quad q).pairtmo.toNat) then none
    else some (s.pairAbort q cPAIRTMO h.task)

/-- The k-th half of a quad meets uncorrectable operand data while it runs (R292). -/
def State.pairError (s : State) (q k : Nat) : Option State :=
  match (s.quad q).halves[k]? with
  | none => none
  | some h => if h.full then none else some (s.pairAbort q cPAIRABORT h.task)

/-- PAIR_TIMEOUT: pick.a the lead's quad, pick.b its half; with pick.flag, half pick.b of quad pick.a meets uncorrectable operand data
(entry 66, DESIGN CHOICE). -/
def execPairTimeout (s : State) : Out :=
  s.orStay (if s.pick.flag then s.pairError s.pick.a s.pick.b else s.pairTimeout s.pick.a s.pick.b)

end Sys2Proof.Machine
end

