-- ==== Sys2Proof/Machine/Activation.lean ====
section
/-! DEFINITION. Activations: dispatch, RECV and END (R9 to R13, R26, R116, R208, R210, R211, R218, R220, R228, R229, R356). -/

namespace Sys2Proof.Machine

/-! ## Effective class (R26, R210, R212) -/

/-- The declared completion counter of a message, if it has one (R210). -/
def Msg.declared (m : Msg) : Option Word :=
  if m.kind = 1 then some m.w3
  else if (m.kind = 2 ∨ m.kind = 6) ∧ m.srank = 0xFFFFFE then some m.w3
  else none

/-- The class a counter gives by inheritance at a core: that of its die's table (R212). -/
def State.inheritedOf (s : State) (c : Nat) (a : Word) : Nat :=
  if a = 0 then 0 else
  match s.devGran c false .load a.toNat with
  | .error _ => 0
  | .ok l => match (s.die (dieOf c)).inherit.find? fun e => e.1 == l.phys with | some e => e.2 | none => 0

/-- The effective class of a message that has waited since a stamp (R210). -/
def State.effClass (s : State) (c : Nat) (m : Msg) (stamp : Nat) : Nat :=
  let age := (s.core c).age.toNat
  let steps := if age = 0 then 0 else (s.clock - stamp) / age
  let inh := match m.declared with | some a => s.inheritedOf c a | none => 0
  min 3 (max (m.prio + steps) inh)

/-! ## Starting and ending the work of a message -/

/-- The scalar registers a message loads (R9). -/
def Regs.loadMsg (r : Regs) (m : Msg) : Regs :=
  ((((((r.wr 1 m.w2).wr 2 m.w3).wr 3 m.w4).wr 4 m.w5).wr 5 m.w6).wr 6 m.w7).wr 7 m.w1

/-- The completion counter a message brings (R12, R13). -/
def Msg.compl (m : Msg) : Word := if m.kind = 1 then m.w3 else 0

/-- The capsule a notice binds (R353). -/
def State.bindCapsule (s : State) (c : Nat) (m : Msg) : Option HeldCapsule :=
  if m.kind ≠ 4 then none
  else
    let b := (m.w2.toNat - blockOff 0) / 1024
    some ⟨b, s.localWords c (blockOff b) 24⟩

/-- Whether a message's NaN mode is its core's (R10). -/
def State.nanMatches (s : State) (c : Nat) (m : Msg) : Bool := m.nanm == wbit (s.core c).nanmode 0

/-- A strand at the start of an activation (R9). -/
def Strand.start (act count : Nat) (m : Msg) (cap : Option HeldCapsule) : Strand :=
  { { Strand.init with
    act := act, bound := true, count := count, pc := m.w0, handler := m.w0, msg := m, cls := m.prio, compl := m.compl, capsule := cap,
    status := ⟨.ready, false, false, false⟩,
    regs := (Regs.init.loadMsg m).wrM 0 (BitVec.allOnes 32) }.checkpoint with fresh := true }

/-- Before the first instruction of an activation its NaN mode is compared with its core's, and a mismatch traps (R10). -/
def State.enter (s : State) (sid : Nat) : State :=
  let t := s.strand sid
  if !t.fresh || s.nanMatches (coreOf sid) t.msg then s else s.trapAt sid cNANMODE 0 t.msg.w1

/-- Bind a strand to a message (R9, R10). -/
def State.startOn (s : State) (sid : Nat) (m : Msg) : State :=
  let c := coreOf sid
  let n := (s.core c).dispatched + 1
  let t := Strand.start s.acts n m (s.bindCapsule c m)
  let s := { s with acts := s.acts + 1, strands := s.strands.set sid t }
  (s.modCore c fun k => { k with dispatched := n }).enter sid

/-- The completion add of an activation's present message (R12, R13). -/
def State.complAdd (s : State) (sid : Nat) : State :=
  let a := (s.strand sid).compl
  if a = 0 then s else s.deviceAdd (coreOf sid) a 1 1

/-- A waiting RECV takes a message (R12): the completion add of the last one, the registers, and the next instruction. -/
def State.giveRecv (s : State) (sid : Nat) (m : Msg) : State :=
  let s := s.complAdd sid
  let cap := s.bindCapsule (coreOf sid) m
  s.modStrand sid fun t =>
    { t.retireTo (t.pc + 32) with
        msg := m, cls := m.prio, compl := m.compl, capsule := cap, regs := t.regs.loadMsg m, block := none,
        status := { t.status with state := .ready } }.checkpoint

/-! ## The choice (R211) -/

/-- A candidate of the dispatch choice: from the inbox at an index, the bottom of the deque, or a continuation to resume (R116). -/
inductive Source where
  | inbox (k : Nat)
  | deque
  | resume (act : Nat)
  deriving DecidableEq, Repr

/-- A candidate with its message, stamp and effective class. -/
structure Cand where
  src   : Source
  msg   : Msg
  stamp : Nat
  cls   : Nat
  deriving DecidableEq, Repr

/-- The rank of a source among equal stamps. -/
def Source.order : Source → Nat
  | .inbox _ => 0 | .resume _ => 0 | .deque => 1

/-- Whether a candidate comes before another (R211). -/
def Cand.before (a b : Cand) : Bool :=
  let key := fun (x : Cand) => [3 - x.cls, x.stamp, x.src.order, 3 - x.msg.prio, x.msg.srank]
  decide (List.Lex (· < ·) (key a) (key b))

/-- The first of a list of candidates, the earlier on a tie. -/
def firstCand : List Cand → Option Cand
  | [] => none
  | x :: rest => match firstCand rest with | some y => if y.before x then some y else some x | none => some x

/-- Whether the completion add of an activation may be sent: every access before a place is performed at a scope, and fences let a store and a
load go, for a counter operation is both (R13, R52, R54). -/
def Strand.addOpen (t : Strand) (own : Nat) (sc : Scope) : Bool :=
  t.compl == 0 || (t.allBefore own sc t.seq && t.storesLet own t.seq && t.loadsLet own)

/-- Whether an activation may resume: no answer that goes into its registers, and no result of the SFU, is still due (R17, R167). -/
def Strand.mayResume (t : Strand) : Bool :=
  (t.out.all fun a => match a.dest with | .amo _ _ _ | .stat _ | .count _ => a.written | _ => true) &&
  !(t.anySlot (BitVec.allOnes 64) fun x => x.state == .pending && x.kind == .sfu)

/-- The candidates of a core. Continuations freed together come in the order in which they joined (R116) (entry 34, DEDUCED). -/
def State.cands (s : State) (c : Nat) : List Cand :=
  let k := s.core c
  let ins := (k.inbox.zip (upFrom 0 k.inbox.length)).map fun x => (⟨.inbox x.2, x.1.msg, x.1.stamp, s.effClass c x.1.msg x.1.stamp⟩ : Cand)
  let back := k.resume.filterMap fun r =>
    if (k.resume.find? fun x => x.2 == r.2) != some r then none else
    match k.images.find? fun t => t.act == r.1 with
    | some t => if t.mayResume then some (⟨.resume r.1, t.msg, r.2, s.effClass c t.msg r.2⟩ : Cand) else none
    | none => none
  let work := match k.deque with | m :: _ => [(⟨.deque, m.msg, m.stamp, s.effClass c m.msg m.stamp⟩ : Cand)] | [] => []
  ins ++ back ++ work

/-- Whether a strand waits in RECV and may be given a message: its completion add may be sent (R12). -/
def Strand.recvOpen (t : Strand) (own : Nat) : Bool :=
  match t.block with
  | some (.recv _ sc) => t.addOpen own sc
  | _ => false

/-- Since when a strand waits in RECV. -/
def Strand.recvSince (t : Strand) : Nat := match t.block with | some (.recv n _) => n | _ => 0

/-- The waiting RECV of a core for a handler that has waited longest (R211). -/
def State.recvFor (s : State) (c : Nat) (w0 : Word) : Option Nat :=
  (strandsOf c).foldl (fun best sid =>
    let t := s.strand sid
    if t.recvOpen s.pkg && t.handler == w0 then
      match best with
      | some b => if t.recvSince < (s.strand b).recvSince then some sid else best
      | none => some sid
    else best) none

/-- The lowest-numbered free strand of a core. -/
def State.freeStrandOf (s : State) (c : Nat) : Option Nat := (strandsOf c).find? fun sid => !(s.strand sid).bound

/-- A candidate's taker: a RECV, for inbox messages alone (R12), or a free strand. -/
inductive Taker where
  | recv (sid : Nat)
  | strand (sid : Nat)
  deriving DecidableEq, Repr

/-- The choice of R381 kind 3 for a message and whether a RECV takes it (R220). -/
def State.dispatchChoice (s : State) (c : Nat) (m : Msg) (recv : Bool) : Choice :=
  mkChoice (dieOf c) c 0 (s.core c).rank 0 3 [m.srank, m.cookie, m.kind, m.w0.toNat, b2n recv]

/-- The RECV a candidate may go to. -/
def State.candRecv (s : State) (c : Nat) (x : Cand) : Option Nat :=
  match x.src with | .inbox _ => s.recvFor c x.msg.w0 | _ => none

/-- The taker of the unconstrained choice of R211. -/
def State.freeChoice (s : State) (c : Nat) (xs : List Cand) : Option (Cand × Taker) :=
  match firstCand xs with
  | none => none
  | some m =>
    match s.candRecv c m, s.freeStrandOf c with
    | some sid, _ => some (m, .recv sid)
    | none, some sid => some (m, .strand sid)
    | none, none =>
      match firstCand (xs.filter fun x => (s.candRecv c x).isSome) with
      | some x => (s.candRecv c x).map fun sid => (x, .recv sid)
      | none => none

/-- The choice a dispatch trace or replay forces (R220): the message its next record names, to the taker it names. -/
def State.forcedChoice (s : State) (c : Nat) (xs : List Cand) : Option (Cand × Taker) :=
  xs.findSome? fun x =>
    match x.src with
    | .resume _ => none
    | _ =>
      (match s.candRecv c x with
       | some sid => if s.choiceOpen (s.dispatchChoice c x.msg true) then some (x, .recv sid) else none
       | none => none) <|>
      (match s.freeStrandOf c with
       | some sid => if s.choiceOpen (s.dispatchChoice c x.msg false) then some (x, .strand sid) else none
       | none => none)

/-- Remove a candidate from where it waits. -/
def State.takeCand (s : State) (c : Nat) (x : Cand) : State :=
  s.modCore c fun k =>
    match x.src with
    | .inbox i => { k with inbox := listDel k.inbox i }
    | .deque => { k with deque := k.deque.drop 1 }
    | .resume act => { k with resume := k.resume.filter fun r => r.1 != act }

/-- A redelivery is counted in the working image of a held capsule (R356). -/
def HeldCapsule.again (h : HeldCapsule) : HeldCapsule :=
  { h with words := putIn h.words 1 50 6 (min (wfld (wordAt h.words 1) 50 6 + 1) 63) }

/-- The first strand of a core held for an abort image takes one that has freed (R115). -/
def State.nextImage (s : State) (c : Nat) : State :=
  match (strandsOf c).find? fun sid => match (s.strand sid).block with | some (.abortImage _) => true | _ => false with
  | none => s
  | some sid =>
    match (s.strand sid).block with
    | some (.abortImage page) => (s.modStrand sid fun t => { t with block := none }).keepImage sid page
    | _ => s

/-- A continuation that goes on: its redelivery is counted in a capsule it holds (R356). -/
def Strand.resumed (t : Strand) : Strand :=
  let cap := t.capsule.map HeldCapsule.again
  { t with bound := true, block := none, status := { t.status with state := .ready }, capsule := cap, shadow := { t.shadow with capsule := cap } }

/-- The loads of a strand that goes on are sent again (R167). -/
def State.sendAgain (s : State) (sid : Nat) : State := ({ ({ s with cur := sid }).reissue with cur := s.cur }).enter sid

/-- A continuation resumes on a strand from its image (R116). -/
def State.resumeOn (s : State) (sid act : Nat) : State :=
  let c := coreOf sid
  match (s.core c).images.find? fun t => t.act == act with
  | none => s
  | some t =>
    let s := s.modCore c fun k => { k with images := k.images.filter fun x => x.act != act }
    (({ s with strands := s.strands.set sid t.resumed }).sendAgain sid).nextImage c

/-- The first strand of a core that is held for an abort image, whose page has come and whose answers are there, goes on where it is (R17,
R115, R116). -/
def State.resumeHeld (s : State) (c : Nat) : Option State :=
  ((strandsOf c).find? fun sid => (s.strand sid).block == some .resident && (s.strand sid).mayResume).map fun sid =>
    (s.modStrand sid Strand.resumed).sendAgain sid

/-- Note a dispatch; under a trace its position advances (R204, R220). -/
def State.noteDispatch (s : State) (c : Nat) (m : Msg) (recv : Bool) : State :=
  let forced := s.forcing c 3
  let s := s.noteChoice (s.dispatchChoice c m recv)
  if forced then s.modCore c fun k => { k with tracePos := (k.tracePos + 1) % 2 ^ 32 } else s

/-- Carry out a dispatch choice. A RECV whose message has a mismatched NaN mode traps, and the message stays (R12). -/
def State.carryOut (s : State) (c : Nat) (x : Cand) (k : Taker) : State :=
  match k, x.src with
  | .strand sid, .resume act => (s.takeCand c x).resumeOn sid act
  | .strand sid, _ => ((s.noteDispatch c x.msg false).takeCand c x).startOn sid x.msg
  | .recv sid, _ =>
    if s.nanMatches c x.msg then ((s.noteDispatch c x.msg true).takeCand c x).giveRecv sid x.msg
    else s.trapAt sid cNANMODE 0 x.msg.w1

/-- One dispatch choice of a core (R211, R220, R386), after the continuations that are still on a strand; one whose turn has not come in replay is
held (R382, R384). None where it has none to make. -/
def State.dispatchAt (s : State) (c : Nat) : Option State :=
  if !s.dieRuns (dieOf c) then none else
  (s.resumeHeld c) <|>
  if (s.core c).park then none else
  let xs := s.cands c
  let recv := fun (k : Taker) => match k with | .recv _ => true | .strand _ => false
  let forced := s.forcing c 3 && ((s.nextCrumb (dieOf c) (crumbKey 0 (s.core c).rank 0 3)).isSome || !s.replayEmpty (dieOf c))
  let resumes := fun (xs : List Cand) => (s.freeChoice c xs).filter fun y => match y.1.src with | .resume _ => true | _ => false
  let back := resumes xs
  let pick := match back, forced with
    | some y, _ => some y
    | none, true => s.forcedChoice c xs <|> resumes (xs.filter fun x => match x.src with | .resume _ => true | _ => false)
    | none, false => (s.freeChoice c xs).filter fun y => s.choiceOpen (s.dispatchChoice c y.1.msg (recv y.2))
  (pick.map fun y => s.carryOut c y.1 y.2) <|> (s.freeChoice c xs).map fun y => s.holdChoice (s.dispatchChoice c y.1.msg (recv y.2))

/-- DISPATCH (R211): pick.a the core. -/
def execDispatch (s : State) : Out := s.orStay (s.dispatchAt s.pick.a)

/-! ## Re-injection (R208) -/

/-- A core forwards the packets it holds for ranks whose new core is set, in their order (R27, R232). None where it holds no such packet. -/
def State.forwardHeld (s : State) (c : Nat) : Option State :=
  let g := s.gcore c
  let stays := fun (p : Packet) => match p.rank with | some r => s.keepsRank c g p.ctx r | none => true
  let ps := (s.core c).rankHeld.filter fun p => !stays p
  if ps.isEmpty then none
  else some (ps.foldl (fun s p => s.postRankIn p.ctx (srcCore g) (rankCore (s.rankEntry c (p.rank.getD 0))) (p.rank.getD 0) true p.body)
    (s.modCore c fun k => { k with rankHeld := k.rankHeld.filter stays }))

/-- A message a core has spilled, and that is the first of its stream, is re-injected: into its inbox ring, with its stamp, or, held for a rank
in transit, into the interface, or on to the rank's new core (R27, R208, R209). None where it must wait, and for a capsule, which lands. -/
def State.reinject (s : State) (c : Nat) : Option State :=
  match (s.core c).spill with
  | .message m :: rest =>
    if (s.core c).ringRoom m.msg.prio then
      some (s.modCore c fun k => { k with spill := rest, inbox := k.inbox ++ [m] })
    else none
  | .rank p :: rest =>
    let g := s.gcore c
    let r := p.rank.getD 0
    let e := s.rankEntry c r
    let t := s.modCore c fun k => { k with spill := rest }
    if s.keepsRank c g p.ctx r then
      (if (s.core c).rankHeld.length < rankCap then some (t.modCore c fun k => { k with rankHeld := k.rankHeld ++ [p] }) else none)
    else some (t.postRankIn p.ctx (srcCore g) (rankCore e) r true p.body)
  | _ => none

/-- What a core's interface has received and had no room for finds room, or part of it does (R208, R209). -/
def State.knock (s : State) (c : Nat) : Option State :=
  match (s.core c).door with
  | none => none
  | some (p, stamp) =>
    let g := s.gcore c
    let t := s.modCore c fun k => { k with door := none }
    match p.rank.map fun r => (r, s.rankWay c g r { p with fwd := true }) with
    | some (_, .hold) => let u := t.holdRank p c; if (u.core c).door.isSome then none else some u
    | some (r, .onward _ core) => some (t.postRankIn p.ctx (srcCore g) core r true p.body)
    | _ =>
      match p.body with
      | .message m => t.inboxPut c m stamp
      | .copies m n =>
        (match t.inboxCopies c m stamp n with
         | (u, none) => some u
         | (u, some (b, at_)) => if at_ = stamp then none else some (u.shutDoor c { p with body := b } at_))
      | .capsule _ ws srank => t.landCapsule c ws srank
      | _ => none

/-- SPILL_REINJECT (R27, R208, R209): pick.a the core. -/
def execSpillReinject (s : State) : Out := s.orStay (s.forwardHeld s.pick.a <|> s.reinject s.pick.a <|> s.knock s.pick.a)

/-! ## RECV and END -/

/-- Commit, and dispose of a capsule still held as CAPFWD with s[a] = 0 does (R356), then go on. -/
def State.afterCapsule (s : State) (sc : Scope) (k : State → State) : Out :=
  match s.me.capsule with
  | none =>
    (match s.commit [] with
     | .error t => .next t
     | .ok t => .next (k t))
  | some h =>
    s.beforeCommit (fun s go => s.landedCheck h go) fun s =>
      s.atRelease sc fun s => some (k (s.forward h (s.landedTile s.ci h)).2)

/-- Whether a RECV would now be given a message whose NaN mode is not its core's: that message's header (R12, R96). A RECV that has waited longer for
the same handler comes first (entry 68, DEDUCED). -/
def State.recvBad (s : State) : Option Word :=
  let c := s.ci
  if s.forcing c 3 || (s.recvFor c s.me.handler).isSome then none
  else
    let mine := fun (x : Cand) => (match x.src with | .inbox _ => true | _ => false) && x.msg.w0 == s.me.handler
    match firstCand ((s.cands c).filter mine) with
    | some x => if s.nanMatches c x.msg then none else some x.msg.w1
    | none => none

/-- RECV (R12, R228). Its check comes before it commits, for a message that waits already (R96), and, for one that comes later, when it is
chosen. -/
def execRecv (sc : Scope) (s : State) : Out :=
  s.beforeCommit (fun s k => match s.recvBad with | some w => .next (s.trap cNANMODE w) | none => k s) fun s =>
    s.afterCapsule sc fun s => s.blockOn (.recv s.clock sc)

/-- Whether a command in a queue of a core will write its core's own local memory, with the commands before it in that queue: a table or binding
still to be loaded may lie there. -/
def State.writesOwn (s : State) (c : Nat) (before : List Cmd) (x : Cmd) : Bool :=
  let later := fun (span : Option (Nat × Nat)) => span.isSome || before.any fun y => y.op == 0
  match x.major with
  | 0x32 => (s.drainSpan c x).isSome
  | 0x34 => (s.ownSpans c x.dstBits x.dstRows).isSome
  | 0x35 => x.op != 0 && later (s.siftSpan c x)
  | 0x36 => if x.op = 2 then later (s.routerSpan c x) else (s.routerSpan c x).isSome
  | 0x37 => if x.op = 2 then (s.tokSpan c x).isSome else s.receives c c x && (s.ownSpan c (wordAt x.desc 1) x.outBits).isSome
  | _ => false

/-- Whether a command of an activation in a queue will write its core's own local memory. -/
def State.queuedOwn (s : State) (c act : Nat) (run : List Cmd) : List Cmd → Bool
  | [] => false
  | x :: rest => (x.act == act && s.writesOwn c run x) || State.queuedOwn s c act (x :: run) rest

/-- Whether a walker writes its core's own local memory with the groups under way (R290); a group that has not started is none of the writes the
activation started (entry 69, DEDUCED). -/
def State.walkerOwn (s : State) (c act : Nat) (w : Walker) : Bool :=
  w.core == c && w.act == act &&
  (((s.walkerKeys w).any fun k => (s.io k).puts.any (s.ownGran c)) || w.runs.any fun g => !g.done && (s.groupSpan c g.rec_).isSome)

/-- Whether an activation has asynchronous writes into its own core's local memory that have not retired (R13 step 3, R319): those of started
commands hold a scoreboard entry. -/
def State.ownWrites (s : State) (c act : Nat) : Bool :=
  let k := s.core c
  (k.ranges.any fun r => r.act == act) || s.queuedOwn c act k.mrun k.mq || (k.engs.any fun e => s.queuedOwn c act e.2.run e.2.queue) ||
  (s.quad (quadOf c)).tq.any fun e => e.2.any fun x => match x with | .walker w => s.walkerOwn c act w | .task _ => false

/-- Whether the waits of END are over (R13 steps 2 to 4). -/
def State.endReady (s : State) (sid : Nat) (sc : Scope) : Bool :=
  let t := s.strand sid
  !(t.anySlot (BitVec.allOnes 64) Slot.coming) && !s.ownWrites (coreOf sid) t.act && t.addOpen s.pkg sc

/-- END's last steps: the completion add, and the strand is free; what is still under way stays with the ended activation. -/
def State.finishEnd (s : State) : State :=
  let s := s.complAdd s.cur
  let t := s.me
  let s := if t.out.isEmpty && t.drain.isEmpty then s
    else s.modMyCore fun k => { k with ended := k.ended ++ [{ t with slots := Vector.replicate 64 Slot.init, block := none }] }
  s.freeStrand s.cur

/-- END goes as far as it may. -/
def State.tryEnd (s : State) (sc : Scope) : State := if s.endReady s.cur sc then s.finishEnd else s

/-- END (R13, R229): at its first issue it commits; then it stands at its waits until they are over. -/
def execEndAct (sc : Scope) (s : State) : Out :=
  match s.me.block with
  | some (.ending k) => .next (s.tryEnd k)
  | _ => s.afterCapsule sc fun s => (s.modMe fun t => { t with block := some (.ending sc) }).tryEnd sc

end Sys2Proof.Machine
end

