-- ==== Sys2Proof/Machine/System.lean ====
section
/-! DEFINITION. Traps, control registers, translation control and the crumb mark: majors 0x38 to 0x3A (R106 to R111, R153 to
R159). -/

namespace Sys2Proof.Machine

/-! ## Traps -/

/-- TRAP (R153). -/
def execTrap (code : BitVec 12) (s : State) : Out := .next (s.trap cTRAP (ofN code.toNat))

/-- ERET (R111, R154). -/
def execEret (s : State) : Out := s.privileged fun s => .next s.eret

/-- HALT (R154): the strand stops, bound, and a record of source 3 with code 0 is posted. -/
def execHalt (s : State) : Out :=
  s.privileged fun s =>
    .next ((s.modMe fun t => { t with status := { t.status with state := .stopped } }).postFault s.ci 3 0 s.me.pc (s.cur % 8) 0 0 [])

/-! ## Control registers (R106) -/

/-- A control register's access: user mode may read, user mode may write, read-only. -/
structure CtlInfo where
  userR : Bool
  userW : Bool
  ro    : Bool
  deriving DecidableEq, Repr

/-- The registers of R106 by number; none for a number it does not list. -/
def ctlInfo (n : Nat) : Option CtlInfo :=
  match n with
  | 0x001 | 0x005 | 0x006 | 0x007 | 0x008 => some ⟨true, true, false⟩
  | 0x000 | 0x002 | 0x003 | 0x004 | 0x011 | 0x012 | 0x050 => some ⟨true, false, false⟩
  | 0x020 | 0x021 | 0x022 | 0x023 | 0x044 | 0x060 | 0x061 => some ⟨true, false, true⟩
  | 0x010 | 0x013 | 0x014 | 0x030 | 0x031 | 0x032 | 0x033 | 0x034 | 0x035 | 0x040 | 0x041 | 0x042 | 0x043 =>
    some ⟨false, false, false⟩
  | _ => none

/-- STATE (R107). -/
def StrandState.code : StrandState → Nat
  | .free => 0 | .ready => 1 | .blocked => 2 | .held => 3 | .stopped => 4

/-- ctl.status (R107). -/
def Status.word (x : Status) : Word :=
  ofN (x.state.code * 16 + b2n x.trapped * 4 + b2n x.pmode * 2 + b2n x.mode)

/-- ctl.wsref of a die (R324). -/
def State.wsref (s : State) (d : Nat) : Word :=
  let t := s.clock % 61440
  let b := t / 1920
  let r := t % 1920
  let bank := if r < 1024 then b else (b + 1) % 32
  ofN (b2n (s.die d).wsPhase * 2 ^ 16 + bank * 2 ^ 11 + if r < 1024 then 1024 - r else 0)

/-- The value of a control register of the running strand (R106). -/
def State.ctlRead (s : State) (n : Nat) : Word :=
  let t := s.me
  let k := s.myCore
  let d := dieOf s.ci
  let q := s.quad (quadOf s.ci)
  let ctx := s.ctxOf d
  match n with
  | 0x000 => t.status.word
  | 0x001 => k.rm
  | 0x002 => k.nanmode
  | 0x003 => k.det
  | 0x004 => k.lfmode
  | 0x005 => k.fflags
  | 0x006 => k.srseed
  | 0x007 => k.srtile
  | 0x008 => k.enote
  | 0x010 => t.epc
  | 0x011 => t.cause
  | 0x012 => t.tval
  | 0x013 => (s.ctxRegs d).tvec
  | 0x014 => t.sscratch
  | 0x020 => s.coord s.ci
  | 0x021 => ofN (s.cur % 8)
  | 0x022 => ofN t.bufUsed
  | 0x023 => (s.die d).ctx
  | 0x030 => (s.ctxRegs d).wbound
  | 0x031 => (s.ctxRegs d).ptroot
  | 0x032 => q.fq.get ctx 0
  | 0x033 => q.fqctr.get ctx 0
  | 0x034 => (s.die d).ctxarea.get ctx 0
  | 0x035 => q.spill.get ctx 0
  | 0x040 => k.escwait
  | 0x041 => k.bankhash
  | 0x042 => k.age
  | 0x043 => q.pairtmo
  | 0x044 => s.wsref d
  | 0x050 => q.mxflags
  | 0x060 => ofN s.clock
  | 0x061 => t.instret
  | _ => 0

/-- CTLRD (R106, R155). -/
def execCtlrd (d : Reg) (n : BitVec 12) (s : State) : Out :=
  match ctlInfo n.toNat with
  | none => s.ill (.ctlrd d n)
  | some i => if s.user && !i.userR then .next (s.trap cPROT 0) else s.setReg d (s.ctlRead n.toNat)

/-- Whether a shift of ctl.bankhash is used outside 5 to 14 (R185). -/
def badShift (en : Bool) (s : Nat) : Bool := en && (decide (s < 5) || decide (s > 14))

/-- Whether a value breaks a register's own rules (R107, R108, R110, R155 and the chapters of R106). -/
def ctlForbids (n : Nat) (v : Word) : Bool :=
  match n with
  | 0x000 => wfld v 8 56 != 0 || wbit v 3
  | 0x001 => wfld v 3 61 != 0 || decide (wfld v 0 3 ≥ 6)
  | 0x002 | 0x004 => wfld v 1 63 != 0
  | 0x003 => wfld v 3 61 != 0 || (wbit v 1 && !wbit v 0)
  | 0x005 | 0x050 => wfld v 5 59 != 0
  | 0x007 => wfld v 40 24 != 0
  | 0x008 => wfld v 2 2 != 0
  | 0x011 => wfld v 16 48 != 0 || wbit v 14
  | 0x013 => wfld v 0 4 != 0
  | 0x030 => wfld v 0 19 != 0
  | 0x034 => wfld v 39 25 != 0 || wfld v 0 25 != 0
  | 0x035 => wfld v 39 25 != 0 || wfld v 1 24 != 0
  | 0x040 => wfld v 16 48 != 0 || wfld v 0 16 == 0
  | 0x041 => wfld v 16 48 != 0 || wfld v 2 6 != 0 || badShift (wbit v 0) (wfld v 8 4) || badShift (wbit v 1) (wfld v 12 4)
  | _ => false

/-- ctl.status after a write: STATE ignores it (R107, R155). -/
def Status.write (x : Status) (v : Word) : Status := ⟨x.state, wbit v 2, wbit v 1, wbit v 0⟩

/-- Write a control register (R106). A write of ctl.bankhash starts a rewrite (R185); one of ctl.fq releases held records
(R119). -/
def State.ctlWrite (s : State) (n : Nat) (v : Word) : State :=
  let c := s.ci
  let d := dieOf c
  let q := quadOf c
  let ctx := s.ctxOf d
  match n with
  | 0x000 => s.modMe fun t => { t with status := t.status.write v }
  | 0x001 => s.modCore c fun k => { k with rm := v }
  | 0x002 => s.modCore c fun k => { k with nanmode := v }
  | 0x003 => s.setDet c v
  | 0x004 => s.modCore c fun k => { k with lfmode := v }
  | 0x005 => s.modCore c fun k => { k with fflags := v }
  | 0x006 => s.modCore c fun k => { k with srseed := v }
  | 0x007 => s.modCore c fun k => { k with srtile := v }
  | 0x008 => s.modCore c fun k => { k with enote := v }
  | 0x010 => s.modMe fun t => { t with epc := v }
  | 0x011 => s.modMe fun t => { t with cause := v }
  | 0x012 => s.modMe fun t => { t with tval := v }
  | 0x013 => s.modCtxRegs d fun x => { x with tvec := v }
  | 0x014 => s.modMe fun t => { t with sscratch := v }
  | 0x030 => s.modCtxRegs d fun x => { x with wbound := v }
  | 0x031 => s.modCtxRegs d fun x => { x with ptroot := v }
  | 0x032 =>
    let s := s.modQuad q fun k => { k with fq := k.fq.set ctx v }
    if v = 0 then s else s.fqRelease q ctx
  | 0x033 => s.modQuad q fun k => { k with fqctr := k.fqctr.set ctx v }
  | 0x034 => s.modDie d fun k => { k with ctxarea := k.ctxarea.set ctx v }
  | 0x035 => s.modQuad q fun k => { k with spill := k.spill.set ctx v }
  | 0x040 => s.modCore c fun k => { k with escwait := v }
  | 0x041 => (s.modCore c fun k => { k with bankhash := v }).modHome (.core (s.gcore c)) fun h => { h with rewrite := true }
  | 0x042 => s.modCore c fun k => { k with age := v }
  | 0x043 => s.modQuad q fun k => { k with pairtmo := v }
  | 0x050 => s.modQuad q fun k => { k with mxflags := v }
  | _ => s

/-- Whether the own home unit's queues are empty, for which a write of ctl.bankhash waits (R185). -/
def State.homeQuiet (s : State) (c : Nat) : Bool :=
  let h := s.home (.core (s.gcore c))
  h.arrivals.isEmpty && h.replay.isEmpty && !h.rewrite && decide (h.busyTo ≤ s.clock)

/-- CTLWR (R106, R155). A write of ctl.bankhash waits at the instruction while the queues are not empty (R185). -/
def execCtlwr (a : Reg) (n : BitVec 12) (s : State) : Out :=
  match ctlInfo n.toNat with
  | none => s.ill (.ctlwr a n)
  | some i =>
    if s.user && !i.userW then .next (s.trap cPROT 0)
    else if i.ro then s.ill (.ctlwr a n)
    else if ctlForbids n.toNat (s.rd a) then s.ill (.ctlwr a n)
    else if n.toNat = 0x041 ∧ s.homeQuiet s.ci = false then .next s
    else .next ((s.ctlWrite n.toNat (s.rd a)).retire 32)

/-! ## Translation control (R156 to R158) -/

/-- Whether an operation invalidates a TLB entry (R156): a page form covers the page and any larger entry that contains it. -/
def PackageOp.covers (op : PackageOp) (e : TlbEntry) : Bool :=
  match op with
  | .tlbinvPage va ctx => e.ctx == ctx && e.vpn == va.toNat / 2 ^ pageBits e.level
  | .tlbinvCtx ctx => e.ctx == ctx
  | .tlbinvAll => true
  | .harvest _ | .rankmap _ _ => false

/-- Whether an operation covers a fault-table entry (R116). -/
def PackageOp.coversFault (op : PackageOp) (f : FaultEntry) : Bool :=
  match op with
  | .tlbinvPage va ctx => f.ctx == ctx && f.page == va.toNat / 2 ^ 19
  | .tlbinvCtx ctx => f.ctx == ctx
  | .tlbinvAll => true
  | .harvest _ | .rankmap _ _ => false

/-- Invalidate the covered entries in every TLB of the package (R156); no walk that ended before serves afterwards (R45). -/
def State.invalidate (s : State) (op : PackageOp) : State :=
  let keep := fun (e : TlbEntry) => !op.covers e
  { s with
    cores := s.cores.map fun (c : Nat × Core) => (c.1, { c.2 with itlb := c.2.itlb.filter keep, dtlb := c.2.dtlb.filter keep }),
    quads := s.quads.map fun (q : Nat × Quad) => (q.1, { q.2 with tlb := q.2.tlb.filter keep }),
    strands := s.strands.mapV fun t => { t with walked := [] },
    ios := s.ios.mapV fun x => { x with walked := [] } }

/-- Start an operation over the package: the strand's pc is at the following instruction (R158), and it issues nothing until
the operation completes (entry 37, DEDUCED). -/
def State.startPackage (s : State) (op : PackageOp) : State :=
  let s := s.retire 32
  let s := { s with pendings := s.pendings ++ [Pending.mk op s.ci s.me.act] }
  s.modMe fun t => { t with block := some .package }

/-- A TLBINV (R156): supervisor mode only. -/
def State.tlbinv (s : State) (op : PackageOp) : Out := s.privileged fun s => .next ((s.invalidate op).startPackage op)

/-- TLBINV of a page (R156). -/
def execTlbinvPage (a b : Reg) (s : State) : Out := s.tlbinv (.tlbinvPage (s.rd a) (wfld (s.rd b) 0 4))

/-- TLBINV of a context (R156). -/
def execTlbinvCtx (b : Reg) (s : State) : Out := s.tlbinv (.tlbinvCtx (wfld (s.rd b) 0 4))

/-- TLBINV of everything (R156). -/
def execTlbinvAll (s : State) : Out := s.tlbinv .tlbinvAll

/-- HARVEST (R157). -/
def execHarvest (s : State) : Out := s.privileged fun s => .next (s.startPackage (.harvest (s.ctxOf (dieOf s.ci))))

/-! ## The crumb log -/

/-- CRUMB.MARK (R159, R385). -/
def execCrumbMark (a : Reg) (s : State) : Out :=
  let c := s.ci
  if !s.recording c then .next (s.retire 32) else
  let x := s.markChoice c (s.cur % 8) s.me.pc (s.rd a)
  if s.crumbFull (dieOf c) then .next s
  else if s.forcing c 9 then
    match s.nextCrumb (dieOf c) x.key with
    | some r =>
      if x.named r then .next ((s.noteChoice x).retire 32)
      else if s.crumbNoRoom (dieOf c) 2 then .next s
      else .next (((s.depart (dieOf c) x.unit x.src x.strand x.kind).noteChoice x).retire 32)
    | none => if s.replayEmpty (dieOf c) then .next ((s.noteChoice x).retire 32) else .next (s.blockOn .lsq)
  else .next ((s.noteChoice x).retire 32)

end Sys2Proof.Machine
end

