-- ==== Sys2Proof/Machine/Messages.lean ====
section
/-! DEFINITION. Messages, YIELD and ranks: major 0x21 but for RECV and END (R225 to R227, R230 to R232). -/

namespace Sys2Proof.Machine

/-- Read and check a message image (R225). -/
def State.readImage (s : State) (i : Instr) (a : Word) (k : Msg → State → Out) : Out :=
  if !aligned a 64 then .next (s.trap cALIGN a) else
  s.readDesc a 8 fun ws s => s.messageChecks i (Msg.ofWords ws) (k (Msg.ofWords ws))

/-- Send a checked message to a rank (R225): a commit point and a release; d receives its status as it is sent. -/
def State.sendTo (s : State) (sc : Scope) (d : Reg) (rank : Word) (m : Msg) : Out :=
  let acc := mkSendAccess (some sc) (.message sc (wfld rank 0 24) (s.stamped m)) (.stat d)
  s.atCommit [] fun s => (s.issue acc).retire 32

/-- MSG (R225). -/
def execMsg (sc : Scope) (d a b : Reg) (s : State) : Out :=
  s.readImage (.msg sc d a b) (s.rd a) fun m s => s.sendTo sc d (s.rd b) m

/-- The message MSGC builds from registers (R226). -/
def State.msgOfRegs (s : State) (d a : Reg) : Msg :=
  ⟨s.rd a, s.rd d, s.rd 24, s.rd 25, s.rd 26, s.rd 27, s.rd 28, s.rd 29⟩

/-- MSGC (R226). -/
def execMsgc (sc : Scope) (d a b : Reg) (s : State) : Out :=
  let m := s.msgOfRegs d a
  s.messageChecks (.msgc sc d a b) m fun s => s.sendTo sc d (s.rd b) m

/-- SPAWN (R227). -/
def execSpawn (sc : Scope) (a b : Reg) (s : State) : Out :=
  s.readImage (.spawn sc a b) (s.rd a) fun m s =>
    let n := (s.rd b).toNat
    if n = 0 ∨ n > 256 then s.ill (.spawn sc a b)
    else
      let acc := mkSendAccess (some sc) (.spawn (s.stamped m) n) .ack
      s.atCommit [] fun s => (s.issue acc).retire 32

/-- The limit of a YIELD (R230). -/
def yieldMax : Nat := 65535

/-- YIELD (R230): the strand is blocked with its pc past the instruction, since a pre-emption discards the rest. -/
def execYield (_sc : Scope) (a : Reg) (s : State) : Out :=
  let n := min (s.rd a).toNat yieldMax
  let s := s.retire 32
  .next (if n = 0 then s else s.blockOn (.yield (s.clock + n)))

/-! ## RANKMAP (R231, R232) -/

/-- Whether a value may be a rank table entry (R232). -/
def rankEntryOk (b : Word) : Bool :=
  wfld b 32 32 == 0 && wfld b 30 2 != 3 && wfld b 0 9 == 0 && (wfld b 30 2 != 0 || wfld b 9 21 == 0)

/-- Whether a rank table entry may change so (R232). -/
def rankChange (old new : Word) : Bool :=
  match rankState old, rankState new with
  | 0, 1 => true
  | 1, 1 => wfld old 9 21 != wfld new 9 21
  | 1, 2 => wfld old 9 21 == wfld new 9 21
  | 1, 0 => true
  | 2, 1 => true
  | _, _ => false

/-- The physical bit address of the granule that holds a rank's entry in the context area of die 0 (R125, R231). -/
def State.rankGran (s : State) (ctx rank : Nat) : Nat :=
  hbmAddr (s.gdie 0) (((s.die 0).ctxarea.get ctx 0).toNat + rank / 2 * 64)

/-- A core of the package has a rank in a context, which ctl.coord gives there (R106, R364): the running one, or one whose image the die holds (entry 5,
DESIGN CHOICE). -/
def State.setRank (s : State) (ctx c rank : Nat) : State :=
  let d := dieOf c
  if s.ctxOf d = ctx ∧ s.away d = false then s.modCore c fun k => { k with rank := rank }
  else
    let x := s.saved.get (savedKey ctx d) { Saved.init with clock := s.clock }
    { s with saved := s.saved.set (savedKey ctx d) { x with cores := x.cores.set c { x.cores.get c Core.init with rank := rank } } }

/-- Write a rank's entry: the table, and its place in HBM (R231); a valid one gives its core the rank. -/
def State.writeRank (s : State) (c rank : Nat) (e : Word) : State :=
  let s := if rankState e = 1 ∧ rankCore e / 2048 = s.pkg then s.setRank (s.ctxOf (dieOf c)) (rankCore e % 2048) rank else s
  let s := { s with ranks := s.ranks.set (s.rankKey c rank) e }
  let g := s.rankGran (s.ctxOf (dieOf c)) rank
  let old := (s.mem.readGran g).getD 0
  let lo := rank % 2 * 32
  s.putGran g (mergeBits old (ofN (onesAt lo 32)) (ofN (e.toNat % 2 ^ 32 * 2 ^ lo)))

/-- RANKMAP (R232). -/
def execRankmap (sc : Scope) (d a b : Reg) (s : State) : Out :=
  s.privileged fun s =>
    let rank := wfld (s.rd a) 0 24
    let new := s.rd b
    let old := s.rankEntry s.ci rank
    if !rankEntryOk new || decide (rank ≥ 0xFFFFFE) || !rankChange old new then s.ill (.rankmap sc d a b)
    else
      let s := (s.writeRank s.ci rank new).wr d old
      .next (s.startPackage (.rankmap rank (rankState old == 2)))

end Sys2Proof.Machine
end

