-- ==== Sys2Proof/Machine/Agents.lean ====
section
/-! DEFINITION. Operations over the package and the quad agents: the completion of TLBINV, HARVEST and RANKMAP, the re-walk of faulted pages
and the merge of dirty logs (R27, R115 to R117, R156 to R158, R232). -/

namespace Sys2Proof.Machine

/-- Apply a change to the state as an activation of a core sees it: on its core now, or in the image of a context that is switched out. -/
def State.withAct (s : State) (c act : Nat) (f : State → State) : State :=
  if (s.getAct c act).isSome then f s
  else match s.saved.find? fun e => e.1 % 8 == dieOf c && ((s.exchange e.1).getAct c act).isSome with
    | some e => (f (s.exchange e.1)).exchange e.1
    | none => s

/-- The strand that waits for an operation over the package goes on (R156, R157, R232). -/
def State.finishPackage (s : State) (k : Nat) (p : Pending) : State :=
  let s := { s with pendings := listDel s.pendings k }
  s.withAct p.core p.act fun s =>
    match s.strandOfAct p.core p.act with
    | some sid => s.modStrand sid fun t => { t with block := none }
    | none => s

/-! ## TLBINV -/

/-- Whether an operation is a TLBINV. -/
def PackageOp.isInv : PackageOp → Bool
  | .tlbinvPage _ _ | .tlbinvCtx _ | .tlbinvAll => true
  | .harvest _ | .rankmap _ _ => false

/-- The fault-table entries of a quad that an operation covers are to be walked again (R116). -/
def Quad.again (q : Quad) (op : PackageOp) : Quad :=
  { q with faults := q.faults.map fun f => if op.coversFault f then { f with again := true } else f }

/-- Every die has acknowledged a TLBINV. -/
def State.invDone (s : State) (k : Nat) : Option State :=
  match s.pendings[k]? with
  | none => none
  | some p =>
    if !p.op.isInv then none
    else
      let onQuads := fun (m : KMap Quad) => m.map fun (e : Nat × Quad) => (e.1, e.2.again p.op)
      let s := { s with quads := onQuads s.quads, saved := s.saved.map fun (e : Nat × Saved) => (e.1, { e.2 with quads := onQuads e.2.quads }) }
      some (s.finishPackage k p)

/-- TLBINV_COMPLETE (R116, R156): pick.a the operation. -/
def execTlbinvComplete (s : State) : Out := s.orStay (s.invDone s.pick.a)

/-! ## Pages walked again (R116) -/

/-- A strand that waits for a fault-table entry enters the table, where it may (R114). -/
def State.retryFaultOf (s : State) (sid : Nat) : State :=
  match (s.strand sid).block with
  | some (.faultTable page kind addr) => (s.modStrand sid fun t => { t with block := none }).enterFault sid page (kindOfBits kind) addr
  | _ => s

/-- The strands of a quad that wait for a fault-table entry, in the order of member cores and strands, enter the table, each where it may
(R114) (entry 71, DESIGN CHOICE). -/
def State.retryFault (s : State) (q : Nat) : State := (((quadCores q).map strandsOf).flatten).foldl State.retryFaultOf s

/-- A continuation of a page that is no longer missing: its image waits to be dispatched, or, held for an image, its strand goes on in its
turn. -/
def State.releaseCont (s : State) (x : Nat × Nat) : State :=
  match s.strandOfAct x.1 x.2 with
  | some sid => s.modStrand sid fun t => { t with block := some .resident }
  | none =>
    if ((s.core x.1).images.any fun t => t.act == x.2) then s.modCore x.1 fun k => { k with resume := k.resume ++ [(x.2, s.clock)] } else s

/-- Walk the page of a fault-table entry again. -/
def State.rewalk (s : State) (q k : Nat) : Option State :=
  match (s.quad q).faults[k]? with
  | none => none
  | some f =>
    if !f.again then none else
    match walkRoot s.mem s.pkg (s.ctxRegsOf (dieOfQuad q) f.ctx).ptroot (f.page * 2 ^ 19) with
    | .page => some (s.modQuad q fun x => { x with faults := listSet x.faults k { f with again := false } })
    | _ =>
      let s := s.modQuad q fun x => { x with faults := listDel x.faults k }
      some ((f.conts.foldl State.releaseCont s).retryFault q)

/-- FAULT_REWALK (R116): pick.a the quad, pick.b the fault-table entry. -/
def execFaultRewalk (s : State) : Out := s.orStay (s.rewalk s.pick.a s.pick.b)

/-! ## Dirty logs (R117, R157) -/

/-- Every quad agent has merged the logs of a context. -/
def State.harvestDone (s : State) (k : Nat) : Option State :=
  match s.pendings[k]? with
  | none => none
  | some p =>
    match p.op with
    | .harvest ctx => some ((((s.cores.map (·.1)).filter fun c => s.ctxOf (dieOf c) == ctx).foldl State.mergeLog s).finishPackage k p)
    | _ => none

/-- HARVEST_COMPLETE (R157): pick.a the operation. -/
def execHarvestComplete (s : State) : Out := s.orStay (s.harvestDone s.pick.a)

/-- The entries at which a dirty log is merged. -/
def mergeAt : Nat := 1024

/-- DIRTY_LOG_MERGE (R117): pick.a the core. -/
def execDirtyLogMerge (s : State) : Out :=
  s.orStay (if (s.core s.pick.a).dirtyLog.length ≥ mergeAt then some (s.mergeLog s.pick.a) else none)

/-! ## RANKMAP (R27, R232) -/

/-- Every core has acknowledged a change of a rank: what a core holds for it goes on to the rank's core (R27). -/
def State.rankDone (s : State) (k : Nat) : Option State :=
  match s.pendings[k]? with
  | none => none
  | some p =>
    match p.op with
    | .rankmap rank release =>
      let ctx := s.ctxOf (dieOf p.core)
      let holders := (s.cores.filter fun e => e.2.rankHeld.any (·.isFor ctx rank)).map (·.1)
      let s := s.finishPackage k p
      some (if release then holders.foldl (fun s c => (s.forwardHeld c).getD s) s else s)
    | _ => none

/-- RANKMAP_COMPLETE (R232): pick.a the operation. -/
def execRankmapComplete (s : State) : Out := s.orStay (s.rankDone s.pick.a)

end Sys2Proof.Machine
end

