-- ==== Sys2Proof/Machine/Barriers.lean ====
section
/-! DEFINITION. The barrier instructions: major 0x23 (R215 to R217, R234 to R238), and the completion of a phase. -/

namespace Sys2Proof.Machine

/-! ## Nodes and members -/

/-- The node where a barrier id of a scope lives, for a core (R234). -/
def barNode (sc : Scope) (c : Nat) : Nat :=
  match sc with
  | .core => c | .quad => quadOf c | .die => dieOf c | .pkg | .pod | .sys => 0

/-- The key of a barrier id of the running context (R215). -/
def State.barKey (s : State) (sc : Scope) (c id : Nat) : Nat :=
  ((s.ctxOf (dieOf c) * 8 + sc.code) * 4096 + barNode sc c) * 16 + id % 16

/-- The scope of a barrier key. -/
def barScope (key : Nat) : Scope :=
  match key / 16 / 4096 % 8 with
  | 0 => .core | 1 => .quad | 2 => .die | 3 => .pkg | 4 => .pod | _ => .sys

/-- The node of a barrier key. -/
def barNodeOf (key : Nat) : Nat := key / 16 % 4096

/-- The cores of a rectangle of a die, row by row (R234). -/
def rectCores (w0 : Word) (die : Nat) : List Nat :=
  ((upFrom (wfld w0 0 4) (wfld w0 8 4 + 1)).map fun r =>
    (upFrom (wfld w0 4 4) (wfld w0 12 4 + 1)).map fun k => coreAt die r k).flatten

/-- The members of a barrier in their numbering (R238): strands for `.core`, otherwise cores. -/
def barMembers (sc : Scope) (node : Nat) (w0 : Word) : List Nat :=
  match sc with
  | .core => (setBits (wfld w0 0 8) 0 8).map fun k => node * 8 + k
  | .quad => (setBits (wfld w0 0 4) 0 4).map fun k => quadMember node k
  | .die => rectCores w0 node
  | .pkg | .pod | .sys => ((setBits (wfld w0 16 8) 0 8).map fun d => rectCores w0 d).flatten

/-- The member number in the mask of R238 of the i-th member: strand or member index for `.core` and `.quad`. -/
def memberBit (sc : Scope) (node member i : Nat) : Nat :=
  match sc with
  | .core => member % 8
  | .quad => (listFind (fun c => c == member) (quadCores node)).getD 0
  | .die | .pkg | .pod | .sys => i

/-- The core of a member. -/
def memberCore (sc : Scope) (m : Nat) : Nat := match sc with | .core => coreOf m | _ => m

/-- The local offset of a member's phase counter (R234). -/
def phaseOff (sc : Scope) (pcoff m : Nat) : Nat := match sc with | .core => pcoff + 64 * (m % 8) | _ => pcoff

/-- The core that takes a barrier's signals for its node and sends its adds (R57): the core itself, the first of the quad or die, or the core of
the first member (entry 61, DESIGN CHOICE). -/
def nodeCore (sc : Scope) (node : Nat) (w0 : Word) : Nat :=
  match sc with
  | .core => node
  | .quad => agentCore node
  | .die => dieCore node
  | .pkg | .pod | .sys => (barMembers sc node w0).headD 0

/-! ## BAR.CFG (R234, R235) -/

/-- The must-be-zero fields of a descriptor for a scope (R234). -/
def barZeroOk (sc : Scope) (ws : List Word) : Bool :=
  let w0 := wordAt ws 0
  let w2 := wordAt ws 2
  wfld w0 24 40 == 0 && wfld (wordAt ws 1) 25 39 == 0 && wfld w2 20 44 == 0 && wordAt ws 3 == 0 &&
  (match sc with
   | .core => wfld w0 8 16 == 0 && w2 == 0
   | .quad => wfld w0 4 20 == 0 && w2 == 0
   | .die => wfld w0 16 8 == 0 && w2 == 0
   | .pkg => w2 == 0
   | .pod | .sys => true)

/-- Whether the member set a descriptor gives is empty (R235). -/
def barEmpty (sc : Scope) (ws : List Word) : Bool :=
  let w0 := wordAt ws 0
  match sc with
  | .core => wfld w0 0 8 == 0
  | .quad => wfld w0 0 4 == 0
  | .die => false
  | .pkg => wfld w0 16 8 == 0
  | .pod | .sys => wfld w0 16 8 == 0 || decide (wfld (wordAt ws 2) 0 10 > wfld (wordAt ws 2) 10 10)

/-- Whether a rectangle passes row or column 15 (R235). -/
def barPasses (sc : Scope) (w0 : Word) : Bool :=
  match sc with
  | .core | .quad => false
  | .die | .pkg | .pod | .sys => decide (wfld w0 0 4 + wfld w0 8 4 > 15) || decide (wfld w0 4 4 + wfld w0 12 4 > 15)

/-- Whether every member lies within ctl.wbound (R35, R235). -/
def State.barInBounds (s : State) (sc : Scope) (c : Nat) (ws : List Word) : Bool :=
  let wb := (s.ctxRegs (dieOf c)).wbound
  let pkgs := wordAt ws 2
  let ok := fun m => let k := memberCore sc m; inBounds wb false 0 (dieOf k) (rowOf k) (colOf k)
  (barMembers sc (barNode sc c) (wordAt ws 0)).all ok &&
  (match sc with
   | .pod => decide (wfld wb 54 10 ≤ wfld pkgs 0 10) && decide (wfld pkgs 10 10 ≤ wfld wb 44 10)
   | _ => true)

/-- Whether a descriptor is bad (R235). -/
def State.barBad (s : State) (sc : Scope) (b : Barrier) (ws : List Word) : Bool :=
  let w0 := wordAt ws 0
  let pcoff := wfld (wordAt ws 1) 0 25
  let ms := barMembers sc (barNode sc s.ci) w0
  !barZeroOk sc ws || pcoff % 64 != 0 || (w0 == 0 && !b.configured) ||
  (w0 != 0 && (barEmpty sc ws || barPasses sc w0 || (ms.any fun m => decide (phaseOff sc pcoff m + 64 > systemRegion)) ||
    (s.user && !s.barInBounds sc s.ci ws)))

/-- Whether a member has signalled a phase that has not completed (R235). -/
def Barrier.busy (b : Barrier) : Bool := b.configured && b.leads.any fun l => decide (l > 0)

/-- The state a descriptor configures (R235). -/
def barOf (sc : Scope) (node : Nat) (ws : List Word) : Barrier :=
  let w0 := wordAt ws 0
  if w0 = 0 then Barrier.init
  else
    let n := (barMembers sc node w0).length
    ⟨true, w0, wfld (wordAt ws 1) 0 25, wordAt ws 2, 0, List.replicate n 0, List.replicate n 0⟩

/-- BAR.CFG (R234, R235). -/
def execBarCfg (sc : Scope) (d a b : Reg) (s : State) : Out :=
  if sc = .sys then s.ill (.barCfg sc d a b)
  else if !aligned (s.rd a) 256 then .next (s.trap cALIGN (s.rd a)) else
  s.readDesc (s.rd a) 4 fun ws s =>
    let key := s.barKey sc s.ci (wfld (s.rd b) 0 4)
    s.atCommit [] fun s =>
      let old := s.bars.get key Barrier.init
      if s.barBad sc old ws then (s.wr d 5).retire 32
      else if old.busy then (s.wr d 4).retire 32
      else
        let s := { s with bars := s.bars.set key (barOf sc (barNode sc s.ci) ws) }
        (s.wr d 0).retire 32

/-! ## BAR.ARR, BAR.WAIT and BAR.STAT (R236 to R238) -/

/-- The member number of the running strand in a barrier, if it is a member (R236). -/
def State.memberOf (s : State) (sc : Scope) (b : Barrier) : Option Nat :=
  if !b.configured then none
  else
    let inPod := match sc with
      | .pod => decide (wfld b.word2 0 10 ≤ s.pkg) && decide (s.pkg ≤ wfld b.word2 10 10)
      | _ => true
    if !inPod then none
    else
      let me := match sc with | .core => s.cur | _ => s.ci
      listFind (fun m => m == me) (barMembers sc (barNode sc s.ci) b.word0)

/-- The lead counter at which a member blocks (R236). -/
def maxLead : Nat := 3

/-- BAR.ARR (R236), on a parked core too (entry 83, DESIGN CHOICE). -/
def execBarArr (sc : Scope) (d b : Reg) (s : State) : Out :=
  if sc = .sys then s.ill (.barArr sc d b) else
  let key := s.barKey sc s.ci (wfld (s.rd b) 0 4)
  let x := s.bars.get key Barrier.init
  match s.memberOf sc x with
  | none => s.atCommit [] fun s => (s.wr d 0).retire 32
  | some i =>
    let lead := x.leads.getD i 0
    if lead ≥ maxLead then
      match s.commit [] with
      | .error t => .next t
      | .ok t => .next (t.blockOn (.barArr key))
    else
      s.atCommit [] fun s =>
        let s := { s with bars := s.bars.set key { x with leads := listSet x.leads i (lead + 1) } }
        let s := s.wr d (ofN (x.phase + lead + 1))
        (s.issue (mkSendAccess (some sc) (.barArrive (s.gcore (nodeCore sc (barNode sc s.ci) x.word0)) key i) .ack)).retire 32

/-- BAR.WAIT (R237). -/
def execBarWait (sc : Scope) (d a b : Reg) (s : State) : Out :=
  if sc = .sys then s.ill (.barWait sc d a b) else
  let x := s.bars.get (s.barKey sc s.ci (wfld (s.rd b) 0 4)) Barrier.init
  match s.memberOf sc x with
  | none => .next ((s.wr d 0).retire 32)
  | some _ =>
    let off := phaseOff sc x.pcoff s.cur
    let addr := ofN (14 * 2 ^ 60 + off)
    .next (s.waitCounter d addr ⟨localAddr (s.gcore s.ci) off, false, none⟩ (s.rd a) (some (s.rd d).toNat))

/-- The bits of the missing-member mask (R238). -/
def barMissing (sc : Scope) (node : Nat) (b : Barrier) : Nat :=
  let ms := barMembers sc node b.word0
  ((upFrom 0 ms.length).filter fun i => b.arrived.getD i 0 == 0).foldl
    (fun acc i => acc + 2 ^ memberBit sc node (ms.getD i 0) i) 0

/-- The number of mask words of a scope (R238). -/
def barWords : Scope → Nat
  | .core | .quad => 1 | .die => 4 | .pkg => 32 | .pod | .sys => 16

/-- BAR.STAT (R238): for `.pod`, bit i is package PKGLO + i; the arrivals of other packages are not in this state, so each of
them reads as missing until the phase completes (entry 12, DESIGN CHOICE). -/
def execBarStat (sc : Scope) (d a b : Reg) (s : State) : Out :=
  if sc = .sys then s.ill (.barStat sc d a b) else
  let x := s.bars.get (s.barKey sc s.ci (wfld (s.rd b) 0 4)) Barrier.init
  let k := (s.rd a).toNat
  if !x.configured || decide (k ≥ barWords sc) then s.setReg d 0
  else
    let mask := match sc with
      | .pod =>
        let lo := wfld x.word2 0 10
        let n := wfld x.word2 10 10 + 1 - lo
        let own := if lo ≤ s.pkg ∧ s.pkg < lo + n ∧ barMissing sc 0 x = 0 then 2 ^ (s.pkg - lo) else 0
        2 ^ n - 1 - own
      | _ => barMissing sc (barNode sc s.ci) x
    s.setReg d (ofN (mask / 2 ^ (64 * k)))

/-! ## Completion of a phase (R215) -/

/-- A member's signal reaches the barrier's node. -/
def State.signalIn (s : State) (key member : Nat) : State :=
  let b := s.bars.get key Barrier.init
  { s with bars := s.bars.set key { b with arrived := listMod b.arrived member (· + 1) } }

/-- Wake the members that wait in BAR.ARR. -/
def State.wakeBarrier (s : State) (key : Nat) : State :=
  { s with strands := s.strands.map fun (e : Nat × Strand) =>
      if e.2.block = some (.barArr key) then
        (e.1, { e.2 with block := none, status := { e.2.status with state := .ready } })
      else e }

/-- The phase of a barrier completes (R215): P is incremented, each L decremented, and an add of 1 sent to every member's phase
counter (R21). `others`: for `.pod`, every other package of the range has signalled. None where a member has not signalled. -/
def State.phaseComplete (s : State) (key : Nat) (others : Bool) : Option State :=
  let b := s.bars.get key Barrier.init
  let sc := barScope key
  let node := barNodeOf key
  let alone := sc != .pod || wfld b.word2 0 10 == wfld b.word2 10 10
  if !b.configured || (b.arrived.any fun n => n == 0) || !(alone || others) then none
  else
    let b' := { b with phase := b.phase + 1, leads := b.leads.map (· - 1), arrived := b.arrived.map (· - 1) }
    let s := { s with bars := s.bars.set key b' }
    let s := (barMembers sc node b.word0).foldl (fun s m =>
      let off := phaseOff sc b.pcoff m
      let l : Loc := ⟨localAddr (s.gcore (memberCore sc m)) off, false, none⟩
      s.sendAdd (nodeCore sc node b.word0) 0 l (.cadd 1) (ofN (14 * 2 ^ 60 + off)) 6) s
    some (s.wakeBarrier key)

end Sys2Proof.Machine
end

