-- ==== Sys2Proof/Machine/BitPtr.lean ====
section
/-! DEFINITION. Bit pointers: majors 0x0A and 0x0B (R133 to R136). -/

namespace Sys2Proof.Machine

/-- BPADD (R133). -/
def execBpadd (w : Width) (d a b : Reg) (s : State) : Out := s.setReg d (s.rd a + s.rd b * ofN w.bits)

/-- BPADDI (R133). -/
def execBpaddi (w : Width) (d a : Reg) (i : BitVec 11) (s : State) : Out := s.setReg d (s.rd a + sextI i * ofN w.bits)

/-- BPDIFF (R133): the signed difference over the width, its remainder discarded. -/
def execBpdiff (w : Width) (d a b : Reg) (s : State) : Out :=
  s.setReg d (BitVec.ofInt 64 ((s.rd a - s.rd b).toInt.tdiv w.bits))

/-- BALIGN (R133). -/
def execBalign (w : Width) (d a : Reg) (s : State) : Out := s.setReg d (s.rd a - ofN ((s.rd a).toNat % w.bits))

/-- A window builder (R134): an offset too wide for the window raises WINDOW with tval = b. -/
def State.buildWindow (s : State) (d b : Reg) (lim fields : Nat) : Out :=
  if (s.rd b).toNat ≥ lim then .next (s.trap cWINDOW (s.rd b)) else s.setReg d (ofN (fields + (s.rd b).toNat))

/-- BCRD (R134). -/
def execBcrd (d a b : Reg) (s : State) : Out :=
  let x := s.rd a
  s.buildWindow d b (2 ^ 25)
    (8 * 2 ^ 60 + wfld x 38 10 * 2 ^ 50 + wfld x 35 3 * 2 ^ 47 + wfld x 31 4 * 2 ^ 43 + wfld x 27 4 * 2 ^ 39)

/-- BREL (R134). -/
def execBrel (d a b : Reg) (s : State) : Out :=
  let x := s.rd a
  s.buildWindow d b (2 ^ 25) (9 * 2 ^ 60 + wfld x 10 3 * 2 ^ 47 + wfld x 5 5 * 2 ^ 42 + wfld x 0 5 * 2 ^ 37)

/-- BSTRIPE (R134). -/
def execBstripe (d a b : Reg) (s : State) : Out :=
  let x := s.rd a
  s.buildWindow d b (2 ^ 27) (10 * 2 ^ 60 + wfld x 6 3 * 2 ^ 47 + wfld x 0 6 * 2 ^ 41)

/-- B2BYTE (R135). -/
def execB2byte (d a : Reg) (s : State) : Out := s.setReg d (s.rd a >>> 3)

/-- BYTE2B (R135). -/
def execByte2b (d a : Reg) (s : State) : Out := s.setReg d (s.rd a <<< 3)

/-- What BWIN extracts from an address for the issuing core (R136). -/
def State.windowInfo (s : State) (sel : Fin 3) (a : Word) : Word :=
  if wbit a 63 = false then (if sel = 0 then 0 else if sel = 1 then a else BitVec.allOnes 64)
  else if sel = 0 then ofN (wfld a 60 4)
  else match s.winDecode s.ci a with
    | none => BitVec.allOnes 64
    | some w => if sel = 1 then ofN w.off else ofN (w.pkg * 2 ^ 38 + w.die * 2 ^ 35 + w.row * 2 ^ 31 + w.col * 2 ^ 27)

/-- BWIN (R136). -/
def execBwin (sel : Fin 3) (d a : Reg) (s : State) : Out := s.setReg d (s.windowInfo sel (s.rd a))

end Sys2Proof.Machine
end

