-- ==== Sys2Proof/Machine/Stealing.lean ====
section
/-! DEFINITION. Inheritance tables, stealing, and the arrival of messages and steal replies (R208, R212 to R214). -/

namespace Sys2Proof.Machine

/-! ## The inheritance table (R212) -/

/-- The entries of an inheritance table. -/
def inheritCap : Nat := 256

/-- A notice sets or clears an entry of a die's table: the largest class armed on the counter now (R26). None where a full table makes it wait. -/
def Die.inheritPut (k : Die) (g cls : Nat) (clear : Bool) : Option Die :=
  if clear then some { k with inherit := k.inherit.filter fun e => e.1 != g }
  else if k.inherit.any fun e => e.1 == g then some { k with inherit := k.inherit.map fun e => if e.1 = g then (g, cls) else e }
  else if k.inherit.length < inheritCap then some { k with inherit := k.inherit ++ [(g, cls)] }
  else none

/-- Whether a packet is a notice on a counter's granule for a home. -/
def Packet.isNotice (p : Packet) (dst : HomeId) (g : Nat) : Bool :=
  p.dst == dst && (match p.body with | .inherit x _ _ => x == g | _ => false)

/-- The k-th packet, a notice, reaches its die; the notices on one counter arrive in order, and one that a full table makes wait holds back no
other. It enters the table of the running context (entry 82, DESIGN CHOICE). -/
def State.noticeAt (s : State) (k : Nat) : Option State :=
  match s.flight[k]? with
  | none => none
  | some p =>
    let late := match p.body with | .inherit g _ _ => (s.flight.take k).any fun x => x.isNotice p.dst g | _ => false
    if !s.mayMove k p || late then none else
    match p.body, p.dst with
    | .inherit g cls clear, .bridge d => ((s.die (d % 8)).inheritPut g cls clear).map fun x => (s.dropFlight k).modDie (d % 8) fun _ => x
    | _, _ => none

/-- INHERITANCE_NOTICE (R212): pick.a the packet. -/
def execInheritanceNotice (s : State) : Out := s.orStay (s.noticeAt s.pick.a)

/-! ## Requests (R213) -/

/-- The neighbour in a direction, 0 N, 1 E, 2 S, 3 W, at a place of a grid of n by n: its row and column, if it is on the die (entry 16, PRESUMED). -/
def neighbour (n row col dir : Nat) : Option (Nat × Nat) :=
  match dir % 4 with
  | 0 => if row = 0 then none else some (row - 1, col)
  | 1 => if col + 1 < n then some (row, col + 1) else none
  | 2 => if row + 1 < n then some (row + 1, col) else none
  | _ => if col = 0 then none else some (row, col - 1)

/-- The directions with a neighbour, in rotation from one. -/
def directions (n row col from_ : Nat) : List (Nat × Nat × Nat) :=
  (upFrom from_ 4).filterMap fun d => (neighbour n row col d).map fun p => (d % 4, p.1, p.2)

/-- The directions of a core's next steal request: to neighbouring cores, or by its quad's agent to neighbouring quads. -/
def State.stealDirs (s : State) (c : Nat) : List (Nat × Nat × Nat) :=
  let st := (s.core c).steal
  if st.viaQuad then directions 8 (rowOf c / 2) (colOf c / 2) st.next else directions 16 (rowOf c) (colOf c) st.next

/-- Whether a core steals now. -/
def State.mayStealNow (s : State) (c : Nat) : Bool :=
  let k := s.core c
  (s.freeStrandOf c).isSome && !k.park && k.inbox.isEmpty && k.deque.isEmpty && !k.steal.pending && k.steal.backoff.isNone && s.dieRuns (dieOf c)

/-- A core sends its next steal request. -/
def State.askSteal (s : State) (c : Nat) : Option State :=
  if !s.mayStealNow c then none else
  match s.stealDirs c with
  | [] => none
  | (dir, row, col) :: _ =>
    let quad := (s.core c).steal.viaQuad
    let dst : HomeId :=
      if quad then .quadUnit (s.pkg * 512 + dieOf c * 64 + row * 8 + col) else .core (s.gcore (coreAt (dieOf c) row col))
    let s := s.modCore c fun k => { k with steal := { k.steal with next := (dir + 1) % 4, pending := true } }
    some (s.post (srcCore (s.gcore c)) dst true (.stealReq (s.gcore c) quad))

/-- STEAL_REQUEST (R213): pick.a the core. -/
def execStealRequest (s : State) : Out := s.orStay (s.askSteal s.pick.a)

/-! ## Victims (R213, R214) -/

/-- KIND 6, nothing else changed. -/
def Msg.stolen (m : Msg) : Msg := { m with w1 := putFld m.w1 56 4 6 }

/-- The choice of a victim (R381 kind 6): the thief, and how many records it ships. -/
def State.shipChoice (s : State) (v thief : Nat) : Choice :=
  mkChoice (dieOf v) v 0 (s.core v).rank 0 6 [(s.core (thief % 2048)).rank, ((s.core v).deque.length + 1) / 2]

/-- A victim ships half its records, rounded up, topmost first. None where its choice must wait (R381 kind 6). -/
def State.ship (s : State) (v thief : Nat) : Option State :=
  let dq := (s.core v).deque
  let n := (dq.length + 1) / 2
  let x := s.shipChoice v thief
  if !s.choiceOpen x then none else
  let out := (dq.drop (dq.length - n)).reverse.map fun q => q.msg.stolen
  let s := (s.noteChoice x).modCore v fun k => { k with deque := dq.take (dq.length - n) }
  some (s.post (srcCore (s.gcore v)) (.core thief) true (.stealReply out))

/-- The member of a quad with the most records, the lower on a tie, among those that answer (entry 16, PRESUMED). -/
def State.richest (s : State) (q : Nat) : Option Nat :=
  (quadCores q).foldl (fun best c =>
    if (s.core c).park then best
    else match best with
      | none => some c
      | some b => if (s.core b).deque.length < (s.core c).deque.length then some c else some b) none

/-- Whether a core answers steal requests now (R218). -/
def State.answersAsks (s : State) (c : Nat) : Bool := !(s.core c).park && s.dieRuns (dieOf c)

/-- A core answers the first steal request it has received whose choice may be made; where none may, its first is held for its turn in replay
(R382, R384). -/
def State.answerAsk (s : State) (c : Nat) : Option State :=
  if !s.answersAsks c then none else
  ((s.core c).asks.findSome? fun thief => (s.modCore c fun k => { k with asks := k.asks.erase thief }).ship c thief) <|>
    (s.core c).asks.head?.map fun thief => s.holdChoice (s.shipChoice c thief)

/-- A steal request reaches its victim, which answers it, or keeps it: a parked core answers none (R218), and what comes behind it is not held
back; a context that is switched out holds it (R126). -/
def State.stealAt (s : State) (k : Nat) : Option State :=
  match s.flight[k]? with
  | none => none
  | some p =>
    match p.body, p.dst with
    | .stealReq thief false, .core _ =>
      s.onArrival k (fun _ => true) fun c _ s =>
        let t := s.modCore c fun x => { x with asks := x.asks ++ [thief] }
        some ((t.answerAsk c).getD t)
    | .stealReq thief true, .quadUnit g =>
      let q := g % 512
      if !s.mayMove k p then none
      else if s.switchedOut (agentCore q) p.ctx then s.holdCtx k p (agentCore q)
      else if !s.dieRuns (dieOfQuad q) then none
      else match s.richest q with
        | some v => (s.dropFlight k).ship v thief <|> some (s.holdChoice (s.shipChoice v thief))
        | none => none
    | _, _ => none

/-- STEAL_VICTIM_REPLY (R213): pick.a the packet, a request, or with pick.flag the core that answers one it has kept. -/
def execStealVictimReply (s : State) : Out := s.orStay (if s.pick.flag then s.answerAsk s.pick.a else s.stealAt s.pick.a)

/-- STEAL_BACKOFF_EXPIRY (R213): pick.a the core. -/
def execStealBackoffExpiry (s : State) : Out :=
  let c := s.pick.a
  s.orStay (match (s.core c).steal.backoff with
    | some t => if t > s.clock then none else some (s.modCore c fun k => { k with steal := { k.steal with backoff := none } })
    | none => none)

/-! ## Arrival (R208, R213) -/

/-- The die cycles a core waits after a round that found nothing. -/
def stealWait : Nat := 256

/-- A reply with no records: the round goes on to the next neighbour, then to the quad's neighbours, then ends. -/
def State.stealNothing (s : State) (c : Nat) : State :=
  s.modCore c fun k =>
    let st := { k.steal with pending := false, tried := k.steal.tried + 1 }
    let all := if st.viaQuad then directions 8 (rowOf c / 2) (colOf c / 2) 0 else directions 16 (rowOf c) (colOf c) 0
    if st.tried < all.length then { k with steal := st }
    else if st.viaQuad then { k with steal := { st with viaQuad := false, tried := 0, backoff := some (s.clock + stealWait) } }
    else { k with steal := { st with viaQuad := true, tried := 0 } }

/-- Push records onto a core's deque bottom in order. None where they do not fit. -/
def State.pushAll (s : State) (c : Nat) (ms : List Msg) : Option State :=
  if (s.core c).deque.length + ms.length ≤ dequeCap then some (ms.foldl (fun s m => (s.dequePush c m).2) s) else none

/-- A steal reply reaches the thief: the first record is dispatched, the others are pushed (entry 16, PRESUMED). -/
def State.stealTake (s : State) (c : Nat) (ms : List Msg) : Option State :=
  match ms with
  | [] => some (s.stealNothing c)
  | m :: rest =>
    let t := s.modCore c fun k => { k with steal := { k.steal with pending := false, tried := 0, viaQuad := false } }
    let x := s.dispatchChoice c m false
    match s.freeStrandOf c with
    | some sid =>
      if !(s.core c).park && s.dieRuns (dieOf c) && s.choiceOpen x then (t.pushAll c rest).map fun t => (t.noteDispatch c m false).startOn sid m
      else t.pushAll c ms
    | none => t.pushAll c ms

/-- Copies reach a core; those that find no room wait in its interface (R208, R227). -/
def State.copiesIn (s : State) (c : Nat) (p : Packet) (m : Msg) (n : Nat) : State :=
  match s.inboxCopies c m s.clock n with
  | (s, none) => s
  | (s, some (b, stamp)) => s.shutDoor c { p with body := b } stamp

/-- A message of a Launch Unit reaches a core's deque bottom, and ends a back-off from stealing (R205, R213). -/
def State.dequeIn (s : State) (c : Nat) (m : Msg) : Option State :=
  (s.pushAll c [m]).map fun s => s.modCore c fun k => { k with steal := { k.steal with backoff := none } }

/-- A message of another package enters at a port (R57, R369). -/
def State.messageEnters (s : State) : Option State :=
  match splitWords (joinBytes s.pick.bytes) 8 with
  | [w0, w1, w2, w3, w4, w5, w6, w7] => s.portIn (s.pick.b % 2048) s.pick.c s.pick.v.toNat (.message ⟨w0, w1, w2, w3, w4, w5, w6, w7⟩)
  | _ => none

/-- MESSAGE_ARRIVAL (R207, R208, R213, R227, R236): pick.a the packet, a message or copies, a deque record of a Launch Unit, a steal reply, or a
barrier signal. With pick.flag, where pick.a names no packet, a message of another package enters at a port: pick.b its core, pick.c its sender's,
pick.v one more than the rank it was sent to, 0 for none, and pick.bytes its eight words. -/
def execMessageArrival (s : State) : Out :=
  s.orStay (if s.pick.flag && decide (s.flight.length ≤ s.pick.a) then s.messageEnters else s.onArrival s.pick.a
    (fun b => match b with | .message _ | .copies _ _ | .deque _ | .stealReply _ | .signal _ _ => true | _ => false) fun c p s =>
      match p.body with
      | .message m => some ((s.inboxPut c m s.clock).getD (s.shutDoor c p s.clock))
      | .copies m n => some (s.copiesIn c p m n)
      | .deque m => s.dequeIn c m
      | .stealReply ms => s.stealTake c ms
      | .signal key member => some (s.signalIn key member)
      | _ => none)

end Sys2Proof.Machine
end

