-- ==== Sys2Proof/Machine/Launch.lean ====
section
/-! DEFINITION. Launch Units: rings registered by the host, tail notices and the expansion of records (R205 to R207, R219). -/

namespace Sys2Proof.Machine

/-! ## Rings (R205, R206) -/

/-- The key of ring r of a context. -/
def ringKey (ctx r : Nat) : Nat := ctx * 16 + r % 16

/-- A launch ring of a die. -/
def State.launchRing (s : State) (d key : Nat) : LaunchRing := (s.die d).rings.get key LaunchRing.init

/-- Change a launch ring. -/
def State.modRing (s : State) (d key : Nat) (f : LaunchRing → LaunchRing) : State :=
  s.modDie d fun k => { k with rings := k.rings.set key (f (k.rings.get key LaunchRing.init)) }

/-- The words of a launch record's entry. -/
def launchSize : Nat := 16

/-- Read a launch ring's block; none where the ring is invalid for launching. -/
def State.launchBlock (s : State) (d : Nat) (block : Word) : Option RingBlock :=
  if !aligned block 256 then none else
  match s.ringRead (dieCore d) false .load block.toNat with
  | .ok r => if s.ringInvalid (dieCore d) r || r.size != launchSize then none else some r
  | .error _ => none

/-- The launch error record of R207, at quad 0 of the die. -/
def State.launchError (s : State) (d : Nat) (block : Word) (index : Nat) : State :=
  s.postRec (d * 64) (s.faultRec (dieCore d) 2 cILL block 0 0 index [])

/-- A ring found invalid: one record, and it is not read again (R206) (entry 35, DEDUCED). -/
def State.ringUnfit (s : State) (d key : Nat) : State :=
  (s.launchError d (s.launchRing d key).block (2 ^ 64 - 1)).modRing d key fun k => { k with invalid := true }

/-- The Launch Unit reads a ring's TAIL. -/
def State.learnTail (s : State) (d key : Nat) : State :=
  let k := s.launchRing d key
  if k.block = 0 || k.invalid then s else
  match s.launchBlock d k.block with
  | some r => s.modRing d key fun x => { x with tail := r.tail.toNat, polled := s.clock }
  | none => s.ringUnfit d key

/-- The granule of a ring's TAIL. -/
def RingBlock.tailGran (r : RingBlock) : Nat := (r.locs.getD 1 ⟨0, false, none⟩).phys

/-- The running context's ring is read at once, and its TAIL granule marked at its home when it is in device memory (R206). -/
def State.openRing (s : State) (d key : Nat) : State :=
  let k := s.launchRing d key
  if k.block = 0 || k.invalid then s else
  match s.launchBlock d k.block with
  | none => s.ringUnfit d key
  | some b =>
    let s := if isHost b.tailGran then s else { s with marks := s.marks ++ [(b.tailGran, d, key)] }
    s.learnTail d key

/-- A write of LRING (R206): the old block is unregistered; a new one is read at once, or when its context runs. -/
def State.registerRing (s : State) (d r : Nat) (w : Word) : State :=
  let ctx := wfld (s.die d).ctxsel 0 4
  let key := ringKey ctx r
  let s := { s with marks := s.marks.filter fun m => !(m.2.1 == d && m.2.2 == key) }
  let s := s.modRing d key fun _ => { LaunchRing.init with block := w }
  let s := s.modDie d fun k => { k with expansion := match k.expansion with | some e => if e.1 = key then none else some e | none => none }
  if ctx = s.ctxOf d then s.openRing d key else s

/-- LAUNCH_RING_REGISTER (R206, R388): pick.a the die, pick.b the ring, pick.w the block. -/
def execLaunchRingRegister (s : State) : Out := .next (s.registerRing (s.pick.a % 8) s.pick.b s.pick.w)

/-- The k-th packet, a tail notice, reaches the Launch Unit; the rings of a context that does not run are read when it does (entry 35, DEDUCED). -/
def State.tailAt (s : State) (k : Nat) : Option State :=
  match s.flight[k]? with
  | none => none
  | some p =>
    if !s.mayMove k p then none else
    match p.body with
    | .tail d key => some (if key / 16 = s.ctxOf d then (s.dropFlight k).learnTail d key else s.dropFlight k)
    | _ => none

/-- TAIL_NOTICE (R206): pick.a the packet. -/
def execTailNotice (s : State) : Out := s.orStay (s.tailAt s.pick.a)

/-- The die cycles between two reads of a host ring's TAIL. -/
def pollCycles : Nat := 1024

/-- LAUNCH_RING_POLL (R206): pick.a the die, pick.b the ring's key: a ring of the running context in host memory is read. -/
def execLaunchRingPoll (s : State) : Out :=
  let d := s.pick.a
  let k := s.launchRing d s.pick.b
  let host := match s.launchBlock d k.block with | some b => isHost b.tailGran | none => true
  s.orStay (if s.pick.b / 16 != s.ctxOf d || k.block = 0 || k.invalid || !host || decide (s.clock < k.polled + pollCycles) || (s.die d).frozen != 0 then none
    else some (s.learnTail d s.pick.b))

/-! ## Records (R205, R207) -/

/-- MODE. -/
def launchMode (ws : List Word) : Nat := wfld (wordAt ws 8) 62 2
/-- DECL. -/
def launchDecl (ws : List Word) : Bool := wbit (wordAt ws 8) 61
/-- DIE. -/
def launchDie (ws : List Word) : Nat := wfld (wordAt ws 8) 58 3
/-- ROW0. -/
def launchRow (ws : List Word) : Nat := wfld (wordAt ws 8) 54 4
/-- COL0. -/
def launchCol (ws : List Word) : Nat := wfld (wordAt ws 8) 50 4
/-- ROWSM1. -/
def launchRows (ws : List Word) : Nat := wfld (wordAt ws 8) 46 4
/-- COLSM1. -/
def launchCols (ws : List Word) : Nat := wfld (wordAt ws 8) 42 4
/-- REPM1. -/
def launchReps (ws : List Word) : Nat := wfld (wordAt ws 8) 34 8
/-- The message template. -/
def launchTemplate (ws : List Word) : Msg := Msg.ofWords (ws.take 8)

/-- Whether a record is skipped (R207). -/
def launchBad (ws : List Word) : Bool :=
  let t := launchTemplate ws
  let m := launchMode ws
  let count := (wordAt ws 10).toNat
  m == 3 || t.kind != 2 || !aligned t.w0 16 || wfld (wordAt ws 8) 0 34 != 0 || wordAt ws 12 != 0 || wordAt ws 13 != 0 || wordAt ws 14 != 0 ||
  wordAt ws 15 != 0 || (m == 0 && (launchRows ws != 0 || launchCols ws != 0)) ||
  (if m = 2 then launchRows ws != 0 || launchCols ws != 0 || launchReps ws != 0 || wordAt ws 9 == 0 || count == 0 || decide (count > 65536)
   else wordAt ws 9 != 0 || wordAt ws 10 != 0 || decide (launchRow ws + launchRows ws > 15) || decide (launchCol ws + launchCols ws > 15))

/-- The messages of a record. -/
def launchCount (ws : List Word) : Nat :=
  if launchMode ws = 2 then (wordAt ws 10).toNat else (launchRows ws + 1) * (launchCols ws + 1) * (launchReps ws + 1)

/-- Message n of a record (R207). -/
def launchMsg (ws : List Word) (n : Nat) : Msg :=
  let t := launchTemplate ws
  let rank := if launchDecl ws then 0xFFFFFE else 0xFFFFFF
  { t with w1 := putFld (putFld t.w1 32 24 rank) 0 32 (wfld t.w1 0 32 + n) }

/-- The core message n of a MODE 0 or 1 record goes to. -/
def launchCore (ws : List Word) (n : Nat) : Nat :=
  let k := n / (launchReps ws + 1)
  coreAt (launchDie ws) (launchRow ws + k / (launchCols ws + 1)) (launchCol ws + k % (launchCols ws + 1))

/-- The place of a core in the order of quads and members. -/
def quadOrder (c : Nat) : Nat := quadOf c % 64 * 4 + rowOf c % 2 * 2 + colOf c % 2

/-- The cores of a MODE 2 record in round robin order, after the core that took the last such message (R207). -/
def launchRound (ws : List Word) (last : Option Nat) : List Nat :=
  let all := ((setBits (wordAt ws 9).toNat 0 64).map fun q => quadCores (launchDie ws * 64 + q)).flatten
  match last with
  | none => all
  | some l => all.filter (fun c => decide (quadOrder c > quadOrder l)) ++ all.filter fun c => decide (quadOrder c ≤ quadOrder l)

/-! ## Expansion (R206, R207) -/

/-- Read record i of a ring. -/
def State.readRecord (s : State) (d : Nat) (r : RingBlock) (i : Nat) : Option (List Word) :=
  match s.devGrans (dieCore d) false .load (gransUp (r.entry i) launchSize) with
  | .error _ => none
  | .ok ls => ls.mapM fun l => s.mem.readGran l.phys

/-- The choice of a Launch Unit (R381 kind 8) (entry 29, DEDUCED). -/
def State.launchChoice (s : State) (d key i c : Nat) : Choice := mkChoice d (dieCore d) 4 0 0 8 [key % 16, i, (s.core c).rank]

/-- The core a message goes to: fixed, or of a MODE 2 record the first in its round whose deque has room and which the log allows. -/
def State.launchTarget (s : State) (d key i n : Nat) (ws : List Word) : Option Nat :=
  if launchMode ws ≠ 2 then some (launchCore ws n)
  else
    let last := ((s.die d).lastMode2.find? fun e => e.1 == launchDie ws).map (·.2)
    let open_ := (launchRound ws last).filter fun c => decide ((s.core c).deque.length < dequeCap)
    (if s.forcing (dieCore d) 8 then open_.find? fun c => s.choiceOpen (s.launchChoice d key i c) else none) <|> open_.head?

/-- Deliver a message of a record (R207): to an inbox or deque, or, where the context is switched out, into the fabric, which holds it (R126). One that
finds no room in its inbox waits in its core's interface (R208). None where it must wait at the Launch Unit. -/
def State.launchPut (s : State) (d c : Nat) (mode2 : Bool) (m : Msg) : Option State :=
  if s.switchedOut c (s.ctxOf d) then
    some (s.post (homeKey (.bridge (s.gdie d))) (.core (s.gcore c)) true (if mode2 then .deque m else .message m))
  else if mode2 then s.dequeIn c m
  else if (s.core c).door.isSome then none
  else some ((s.inboxPut c m s.clock).getD (s.shutDoor c
    ⟨homeKey (.bridge (s.gdie d)), .core (s.gcore c), true, false, s.clock, s.ctxOf d, none, false, false, false, none, .message m⟩ s.clock))

/-- Deliver messages of a record from n on, at most a number of them: the state and the next message. -/
def State.launchGroup (s : State) (d key i : Nat) (ws : List Word) (n : Nat) : Nat → State × Nat
  | 0 => (s, n)
  | fuel + 1 =>
    if n ≥ launchCount ws then (s, n) else
    match s.launchTarget d key i n ws with
    | none => (s, n)
    | some c =>
      let x := s.launchChoice d key i c
      if !s.choiceOpen x then (s.holdChoice x, n) else
      match (s.noteChoice x).launchPut d c (launchMode ws == 2) (launchMsg ws n) with
      | none => (s, n)
      | some s =>
        let s := if launchMode ws = 2 then s.modDie d fun k => { k with lastMode2 := k.lastMode2.set (launchDie ws) c } else s
        State.launchGroup s d key i ws (n + 1) fuel

/-- HEAD moves past a record. -/
def State.advanceHead (s : State) (r : RingBlock) : State := s.putGran (r.locs.headD ⟨0, false, none⟩).phys (r.head + 1)

/-- The effective class of a record (R206). -/
def State.launchClass (s : State) (d : Nat) (ws : List Word) : Nat :=
  let t := launchTemplate ws
  min 3 (max t.prio (if launchDecl ws then s.inheritedOf (dieCore d) t.w3 else 0))

/-- A ring of the running context with a record to expand: its key, block, record and class. -/
structure Ready where
  key : Nat
  blk : RingBlock
  ws  : List Word
  cls : Nat
  deriving DecidableEq, Repr

/-- What a ring offers: nothing, a record, or that it is invalid. -/
inductive Offer where
  | none
  | bad
  | ready (r : Ready)
  deriving DecidableEq, Repr

/-- What a ring of a die offers. -/
def State.offer (s : State) (d key : Nat) : Offer :=
  let k := s.launchRing d key
  if k.block = 0 || k.invalid then .none else
  match s.launchBlock d k.block with
  | none => .bad
  | some b =>
    if ofN k.tail = b.head then .none
    else match s.readRecord d b b.head.toNat with
      | none => .bad
      | some ws => .ready ⟨key, b, ws, s.launchClass d ws⟩

/-- The record of the highest class, the lower ring on a tie. -/
def bestReady : List Ready → Option Ready
  | [] => none
  | x :: rest => match bestReady rest with | some y => if y.cls > x.cls then some y else some x | none => some x

/-- The keys of the running context's rings. -/
def State.ringKeys (s : State) (d : Nat) : List Nat := (upFrom 0 16).map (ringKey (s.ctxOf d))

/-- The records that could be expanded next. -/
def State.readies (s : State) (d : Nat) : List Ready :=
  (s.ringKeys d).filterMap fun k => match s.offer d k with | .ready r => some r | _ => none

/-- Choose the next record (R206): in replay, the one its next log record names. -/
def State.chooseRecord (s : State) (d : Nat) : Option Ready :=
  let rs := s.readies d
  if s.forcing (dieCore d) 8 && ((s.nextCrumb d (crumbKey 4 0 0 8)).isSome || !s.replayEmpty d) then
    rs.find? fun r =>
      match s.launchTarget d r.key r.blk.head.toNat 0 r.ws with
      | some c => launchBad r.ws || s.choiceOpen (s.launchChoice d r.key r.blk.head.toNat c)
      | none => launchBad r.ws
  else bestReady rs

/-- Expand the record under way from message n on: up to 256 messages are delivered at once; after the last, HEAD moves and DONE is added
to. -/
def State.expandFrom (s : State) (d : Nat) (r : Ready) (n : Nat) : Option State :=
  let i := r.blk.head.toNat
  let (s', n') := s.launchGroup d r.key i r.ws n 256
  if n' = n ∧ n < launchCount r.ws then some s'
  else if n' < launchCount r.ws then some (s'.modDie d fun k => { k with expansion := some (r.key, i, n') })
  else
    let s' := (s'.modDie d fun k => { k with expansion := none }).advanceHead r.blk
    some (if wordAt r.ws 11 = 0 then s' else s'.deviceAdd (dieCore d) (wordAt r.ws 11) 1 2)

/-- One step of a Launch Unit: a ring found invalid, the record under way, or the next record. None where nothing is to be done. -/
def State.expand (s : State) (d : Nat) : Option State :=
  if !s.dieRuns d then none else
  match (s.ringKeys d).find? fun k => s.offer d k == .bad with
  | some key => some ((s.ringUnfit d key).modDie d fun k => { k with expansion := match k.expansion with | some e => if e.1 = key then none else some e | none => none })
  | none =>
    match (s.die d).expansion with
    | some (key, i, n) =>
      (match s.offer d key with
       | .ready r => if r.blk.head.toNat = i then s.expandFrom d r n else some (s.modDie d fun k => { k with expansion := none })
       | _ => some (s.modDie d fun k => { k with expansion := none }))
    | none =>
      match s.chooseRecord d with
      | none => (bestReady (s.readies d)).bind fun r =>
          (s.launchTarget d r.key r.blk.head.toNat 0 r.ws).map fun c => s.holdChoice (s.launchChoice d r.key r.blk.head.toNat c)
      | some r =>
        if launchBad r.ws then some ((s.launchError d (s.launchRing d r.key).block r.blk.head.toNat).advanceHead r.blk)
        else s.expandFrom d r 0

/-- LAUNCH_EXPANSION (R206, R207): pick.a the die. -/
def execLaunchExpansion (s : State) : Out := s.orStay (s.expand s.pick.a)

end Sys2Proof.Machine
end

