-- ==== Sys2Proof/Machine/View.lean ====
section
/-! DEFINITION. The census image of a die (R389, R390): the words of each element of the state tables of R105, R161, R184, R204, R253, R278, R313,
R328, R348 and R368, as the running context has them (entry 10, DESIGN CHOICE, for what R390 leaves open). -/

namespace Sys2Proof.Machine

/-! ## Words -/

/-- The rows of each class's state table. -/
def censusRows : Nat → Nat
  | 1 => 11 | 2 => 10 | 3 => 8 | 4 => 11 | 5 => 4 | 6 => 11 | 7 => 7 | 8 => 10 | 9 => 5 | 10 => 6 | 11 => 1 | 12 => 12 | 13 => 1 | _ => 0

/-- Word w of count items of n bits each, packed from bit 0 of word 0 upward (R390). -/
def packedWord (n count : Nat) (item : Nat → Nat) (w : Nat) : Word :=
  let lo := 64 * w / n
  let v := (upFrom lo ((64 * w + 63) / n + 1 - lo)).foldl (fun v i => v + (if i < count then item i % 2 ^ n else 0) * 2 ^ (n * (i - lo))) 0
  ofN (v / 2 ^ (64 * w - n * lo) % 2 ^ 64)

/-- The words of registers: s0 to s31, v0 to v31, m0 to m7. -/
def Regs.viewWord (r : Regs) (w : Nat) : Word :=
  if h : w < 32 then r.s[w]
  else if h : w < 544 then ofN (elemOf (r.v[(w - 32) / 16]'(by omega)).toNat 64 (w % 16))
  else if h : w < 548 then ofN ((r.m[2 * (w - 544)]'(by omega)).toNat + (r.m[2 * (w - 544) + 1]'(by omega)).toNat * 2 ^ 32)
  else 0

/-- The words of a strand's registers and its pc. -/
def strandWord (t : Strand) (w : Nat) : Word := if w = 548 then t.pc else t.regs.viewWord w

/-- The words of a strand's shadow bank: registers, checkpoint pc, ctl.status. -/
def shadowWord (x : Shadow) (w : Nat) : Word := if w = 548 then x.pc else if w = 549 then x.status.word else x.regs.viewWord w

/-- The words of a region buffer: the bits of its entries; their addresses and masks have no layout. -/
def regionWord (t : Strand) (w : Nat) : Option Word := if w < 512 then some (match t.region[w]? with | some e => e.bits | none => 0) else none

/-- A word of a slot's element; none where the layout is open. -/
def slotWord (x : Slot) (e w : Nat) : Option Word :=
  if e = 5 then some (if w < 16 then ofN (elemOf x.value.toNat 64 w) else 0)
  else if e = 6 ∨ e = 9 then none
  else if w ≠ 0 then some 0
  else match e with
    | 0 => some (ofN (x.state.code + 8 * b2n x.drop))
    | 1 => some (ofN x.kind.code)
    | 2 => some (ofN (x.width.code + 16 * b2n x.sx))
    | 3 => some x.addr
    | 4 => some x.faultAddr
    | 7 => some (ofN x.cause)
    | _ => some (ofN (b2n x.gen))

/-- A word of an item held at the freeze; none where its layout is open. -/
def itemWord (p : Packet) (w : Nat) : Option Word :=
  match p.body with
  | .message m => some (wordAt m.words w)
  | .deque m => some (wordAt m.words w)
  | .capsule _ ws _ => some (wordAt ws w)
  | _ => none

/-- The words of messages at eight words each; 0 past the last. -/
def msgsWord (ms : List QMsg) (w : Nat) : Word := (msgsAt ms w).getD 0

/-- The words of a core's inbox rings: 256 places a class. -/
def Core.inboxWord (k : Core) (w : Nat) : Word := if w / 2048 < 4 then msgsWord (k.ringOf (w / 2048)) (w % 2048) else 0

/-- The arrival stamp of a place of the inbox rings. -/
def Core.stampWord (k : Core) (n : Nat) : Word := match (k.ringOf (n / 256))[n % 256]? with | some m => ofN m.stamp | none => 0

/-- The steal state: next direction, pending request, cycles left of a back-off. -/
def stealWord (x : Steal) (clock : Nat) : Word :=
  ofN (x.next % 4 + 4 * b2n x.pending + 8 * (match x.backoff with | some t => (t - clock) % 512 | none => 0))

/-- The words of a stream: the bound flag, then its descriptor. -/
def streamWord (x : Option Stream) (w : Nat) : Word :=
  match x with
  | some y => ofN ((1 + 2 * joinWords y.desc) / 2 ^ (64 * w) % 2 ^ 64)
  | none => 0

/-- The words of an operand slot's rows. -/
def OpSlot.rowWord (x : OpSlot) (w : Nat) : Word := ofN (x.row (w / 256) / 2 ^ (64 * (w % 256)) % 2 ^ 64)

/-- The words of an operand slot's zero points: 256 of each row. -/
def OpSlot.zpWord (x : OpSlot) (w : Nat) : Word := packedWord 8 16384 (fun i => x.zp (i / 256) (i % 256)) w

/-- The words of a tile queue's records, from its head; none for a walker. -/
def queueWord (l : List TqEntry) (w : Nat) : Option Word :=
  match l[w / 8]? with
  | some (.task t) => some (wordAt t.rec_ (w % 8))
  | some (.walker _) => none
  | none => some 0

/-- The words of mailboxes: 16 places a token. -/
def Core.mailWord (k : Core) (w : Nat) : Word := (k.mailAt w).getD 0

/-- The words of an inheritance table: of each of 256 entries the counter's granule and its class (R204). -/
def inheritWord (l : List (Nat × Nat)) (w : Nat) : Word :=
  match l[w / 2]? with | some e => if w % 2 = 0 then ofN e.1 else ofN e.2 | none => 0

/-- The expansion position: one more than the ring, 0 for none; the record; the message (R204). -/
def expansionWord (x : Option (Nat × Nat × Nat)) (w : Nat) : Word :=
  match x with
  | some (key, i, n) => if w = 0 then ofN (1 + key % 16) else if w = 1 then ofN i else ofN n
  | none => 0

/-- The words of a barrier (R215): whether it is configured, the three words of its descriptor that it keeps, the phase, then for each member its lead
counter and in the bits above how many of its signals have come. -/
def Barrier.word (b : Barrier) (w : Nat) : Word :=
  match w with
  | 0 => ofN (b2n b.configured)
  | 1 => b.word0
  | 2 => ofN b.pcoff
  | 3 => b.word2
  | 4 => ofN b.phase
  | w => ofN (b.leads.getD (w - 5) 0 + 4 * b.arrived.getD (w - 5) 0)

/-- The barrier of a die's running context by an instance: its scope and, of its node and id, the number on the die (R204, R234). -/
def State.barrierAt (s : State) (d inst : Nat) : Barrier :=
  let sc := inst / 4096 % 8
  let node := if sc = 0 then d * 256 + inst / 16 % 256 else if sc = 1 then d * 64 + inst / 16 % 64 else if sc = 2 then d else 0
  s.bars.get (((s.ctxOf d * 8 + sc) * 4096 + node) * 16 + inst % 16) Barrier.init

/-- The words of a quad's staging areas: 12 areas of 64 by 32 cells of 40 bits, each half's in the order in which they were taken (R278, R390). -/
def Quad.stagingWord (q : Quad) (w : Nat) : Word :=
  packedWord 40 (12 * 2048) (fun i =>
    match q.halves[i / 2048]? with | some h => (h.cells.getD (i % 2048 / 32) []).getD (i % 32) 0 | none => 0) w

/-- A word of a reduction cell in progress: its context, group, place, number and match, then each member's contribution in its place. -/
def RedCell.word (y : RedCell) (w : Nat) : Word :=
  match w with
  | 0 => ofN (y.ctx + 16 * y.group)
  | 1 => ofN y.place
  | 2 => ofN y.cell
  | w => if w < 7 then wordAt y.words (w - 3)
    else ofN (((y.got.find? fun e => e.1 == (w - 7) / 32).map fun e => e.2 / 2 ^ (64 * ((w - 7) % 32))).getD 0 % 2 ^ 64)

/-- The stream of a source's records of a kind by the source's instance (R397): a strand, a core, a quad, or the die; of kind 4 a core, and from 256 on an
HBM slice. -/
def State.sourceKey (s : State) (d kind inst : Nat) : Nat :=
  match kind with
  | 1 | 2 | 9 => crumbKey 1 ((s.core (d * 256 + inst / 8 % 256)).rank) (inst % 8) kind
  | 4 => if inst < 256 then crumbKey 0 (s.core (d * 256 + inst)).rank 0 kind else crumbKey 2 (inst % 16) 0 kind
  | 7 => crumbKey 3 inst 0 kind
  | 8 => crumbKey 4 0 0 kind
  | 10 => crumbKey 5 0 0 kind
  | _ => crumbKey 0 (s.core (d * 256 + inst % 256)).rank 0 kind

/-- The registers of R106 each strand, core, quad or die has one of, by the Per column: the strand whose reading shows an instance. -/
def ctlReader (d n inst : Nat) : Nat :=
  if [0x000, 0x010, 0x011, 0x012, 0x014, 0x021, 0x022, 0x061].contains n then d * 2048 + inst % 2048
  else if [0x032, 0x033, 0x035, 0x043, 0x050].contains n then quadMember (d * 64 + inst % 64) 0 * 8
  else if [0x013, 0x023, 0x030, 0x031, 0x034, 0x044].contains n then dieCore d * 8
  else (d * 256 + inst % 256) * 8

/-- A control register in the census image. -/
def State.censusCtl (s : State) (d n inst : Nat) : Word := ({ s with cur := ctlReader d n inst }).ctlRead n

/-- A word of the census image: class, element, instance and word. None where the spec leaves an element's layout open (entry 10, DESIGN CHOICE). -/
def State.censusView (s : State) (d cls e inst w : Nat) : Option Word :=
  let c := d * 256 + inst % 256
  let k := s.core c
  let t := s.strand (d * 2048 + inst % 2048)
  let q := s.quad (d * 64 + inst % 64)
  let one := fun (x : Word) => some (if w = 0 then x else 0)
  let below := fun (n : Nat) (x : Word) => some (if w < n then x else 0)
  match cls, e with
  | 1, 0 => some (strandWord t w)
  | 1, 1 => some (shadowWord t.shadow w)
  | 1, 2 => regionWord t w
  | 1, 10 => below 2048 (wordAt k.dirtyLog w)
  | 2, e => slotWord ((s.strand (d * 2048 + inst / 64 % 2048)).slots[inst % 64]'(Nat.mod_lt _ (by decide))) e w
  | 3, 2 => below 16 (packedWord 32 32 (fun i => k.bankCtr.get i 0) w)
  | 3, 3 => one k.bankhash
  | 3, 6 => below 8 (packedWord 2 256 (fun i => q.predictor.get i 0) w)
  | 4, 0 => some (k.inboxWord w)
  | 4, 1 => one ((s.core (d * 256 + inst / 1024 % 256)).stampWord (inst % 1024))
  | 4, 2 => some 0
  | 4, 3 => below 2048 (msgsWord k.deque w)
  | 4, 4 => one (stealWord k.steal s.clock)
  | 4, 5 => below 512 (inheritWord (s.die d).inherit w)
  | 4, 6 => below 16 (s.launchRing d (ringKey (s.ctxOf d) w)).block
  | 4, 7 => below 3 (expansionWord (s.die d).expansion w)
  | 4, 8 => below 2053 ((s.barrierAt d inst).word w)
  | 4, 9 => one (ofN k.tracePos)
  | 4, 10 => one (ofN (b2n k.park))
  | 5, 0 => below 9 (streamWord ((s.strand (d * 2048 + inst / 8 % 2048)).streams.getD (inst % 8) none) w)
  | 5, 1 => one (match (s.strand (d * 2048 + inst / 8 % 2048)).streams.getD (inst % 8) none with | some x => ofN x.pos | none => 0)
  | 5, 2 => some (if w = 0 then ofN t.tail.q else if w = 1 then ofN (t.tail.iter % 2 ^ 24) else 0)
  | 6, 0 => below (2 ^ 20) ((s.slot (d * 64 + inst % 64) (w / 16384)).rowWord (w % 16384))
  | 6, 1 => below 64 (s.slot (d * 64 + inst % 64) w).word
  | 6, 2 => below 2048 ((s.slot (d * 64 + inst / 64 % 64) (inst % 64)).zpWord w)
  | 6, 3 => below 245760 (packedWord 40 (96 * 4096) (fun i => (s.tile (d * 64 + inst % 64) (i / 4096)).getD (i % 4096) 0) w)
  | 6, 4 => below 15360 (q.stagingWord w)
  | 6, 5 => if w < 2048 then queueWord (q.queue (w / 512)) (w % 512) else some 0
  | 6, 6 => some (if w = 0 then packedWord 16 4 (fun i => q.skips.get i 0) 0 else if w = 1 then ofN (q.quantum % 2 ^ 16) else 0)
  | 6, 9 => one q.mxflags
  | 6, 10 => one q.pairtmo
  | 7, 1 => one (ofN (s.eng (d * 256 + inst / 4 % 256) (inst % 4)).seq)
  | 7, 2 => one (ofN (s.eng (d * 256 + inst / 4 % 256) (inst % 4)).tl)
  | 7, 5 => some 0
  | 7, 6 => one (ofN (b2n (s.die d).wsPhase))
  | 8, 1 => below 128 (wordAt (k.tables.get (w / 8) []) (w % 8))
  | 8, 2 => some (ofN (k.sift.getD w 0))
  | 8, 5 => below 3 (match k.binding with | some b => wordAt b w | none => 0)
  | 8, 6 => some 0
  | 8, 7 => below 4 (match k.topk with | some b => wordAt b w | none => 0)
  | 8, 8 => below 8192 (k.mailWord w)
  | 8, 9 => below 64 (ofN (elemOf (s.die d).dead 64 w))
  | 9, 0 => below 8192 ((s.mem.readGran (localAddr (s.gcore c) (blockOff 0 + 64 * w))).getD 0)
  | 9, 1 => some (match t.capsule with | some h => wordAt (h.words.take 24) w | none => 0)
  | 9, 2 => one (match t.capsule with | some h => ofN (blockOff h.block) | none => 0)
  | 9, 3 => one (ofN k.capSeq)
  | 9, 4 => some 0
  | 10, 1 => below 32768 (packedWord 32 65536 (fun i => k.groups.get i 0) w)
  | 10, 2 => some (match s.redCells[inst]? with | some y => y.word w | none => 0)
  | 10, 4 => some (if w < 5 then ofN (s.fab.get w 0) else if w = 5 then ofN s.ports else 0)
  | 10, 5 => one (ofN s.ports)
  | 11, _ => some (if (ctlInfo w).isSome then s.censusCtl d w inst else 0)
  | 12, kind => if kind = 0 ∨ kind > 11 then some (BitVec.allOnes 64) else one (ofN ((s.die d).crumbSeq.get (s.sourceKey d kind inst) 0))
  | 13, _ => (match (s.die d).items[inst]? with | some p => itemWord p w | none => some 0)
  | _, _ => none

/-! ## The image that a save writes (R125) -/

/-- The instances of an element and the words of each, where the state tables fix both. -/
def elemShape (cls e : Nat) : Option (Nat × Nat) :=
  match cls, e with
  | 1, 0 => some (2048, 549)
  | 1, 1 => some (2048, 550)
  | 1, 10 => some (256, 2048)
  | 2, 5 => some (131072, 16)
  | 2, 6 | 2, 9 => none
  | 2, _ => some (131072, 1)
  | 3, 2 => some (256, 16)
  | 3, 3 => some (256, 1)
  | 3, 6 => some (64, 8)
  | 4, 0 => some (256, 8192)
  | 4, 1 => some (262144, 1)
  | 4, 3 => some (256, 2048)
  | 4, 5 => some (1, 512)
  | 4, 7 => some (1, 3)
  | 4, 9 | 4, 10 => some (256, 1)
  | 5, 0 => some (16384, 9)
  | 5, 1 => some (16384, 1)
  | 5, 2 => some (2048, 2)
  | 6, 0 => some (64, 1048576)
  | 6, 1 => some (64, 64)
  | 6, 2 => some (4096, 2048)
  | 6, 3 => some (64, 245760)
  | 6, 4 => some (64, 15360)
  | 6, 5 => some (64, 2048)
  | 6, 6 => some (64, 2)
  | 6, 9 | 6, 10 => some (64, 1)
  | 7, 1 | 7, 2 => some (1024, 1)
  | 8, 1 => some (256, 128)
  | 8, 2 => some (256, 6)
  | 8, 5 => some (256, 3)
  | 8, 7 => some (256, 4)
  | 8, 8 => some (256, 8192)
  | 8, 9 => some (1, 64)
  | 9, 0 => some (256, 8192)
  | 9, 1 => some (2048, 24)
  | 9, 2 => some (2048, 1)
  | 9, 3 => some (256, 1)
  | 10, 1 => some (256, 32768)
  | _, _ => none

/-- The instances of an element and the words of each. -/
def shapeOf (cls e : Nat) : Nat × Nat := (elemShape cls e).getD (Config.elemShape cls e)

/-- The elements of the image, class by class, in table order (R125). -/
def imageElems : List (Nat × Nat) := ((upFrom 1 13).map fun cls => (upFrom 0 (censusRows cls)).map fun e => (cls, e)).flatten

/-- The words of an element of a die's image, instance by instance, from a place on; `n` numbers the save. -/
def State.elemWords (s : State) (d n place cls e : Nat) : List Word :=
  let x := shapeOf cls e
  (upFrom 0 (x.1 * x.2)).map fun i => (s.censusView d cls e (i / x.2) (i % x.2)).getD (Config.imageWord n (place + i))

/-- The words of a die's census image. -/
def State.censusWords (s : State) (d n : Nat) : List Word :=
  imageElems.foldl (fun ws x => ws ++ s.elemWords d n ws.length x.1 x.2) []

/-- The words of a local memory. -/
def localWordCount : Nat := 524288

/-- The words of the local memories of a die, core by core. -/
def State.dieLocals (s : State) (d : Nat) : List Word :=
  ((coresOfDie d).map fun c => (upFrom 0 localWordCount).map fun i => (s.readAt (localAddr (s.gcore c) (64 * i))).getD 0).flatten

/-- The first bit of the save image of a context of a die, where its runtime has set ctl.ctxarea (R125). -/
def State.imagePlace (s : State) (d ctx : Nat) : Option Nat :=
  ((s.die d).ctxarea.find? fun e => e.1 == ctx).map fun e => hbmAddr (s.gdie d) (e.2.toNat + 2 ^ 29)

/-- The save image of a die's running context is written to its context area: the census image, then the local memories (R125). -/
def State.writeImage (s : State) (d : Nat) : State :=
  match s.imagePlace d (s.ctxOf d) with
  | none => s
  | some g => { s with mem := s.mem.writeWords g (s.censusWords d s.free ++ s.dieLocals d), free := s.free + 1 }

/-- The bits of the census image. -/
def imageBits : Nat := imageElems.foldl (fun n x => n + (shapeOf x.1 x.2).1 * (shapeOf x.1 x.2).2) 0 * 64

/-- The local memories of a die are read back from the save image of a context. -/
def State.readImageOf (s : State) (d ctx : Nat) : State :=
  match s.imagePlace d ctx with
  | none => s
  | some g =>
    (coresOfDie d).foldl (fun s c =>
      let at_ := g + imageBits + c % 256 * 2 ^ 25
      { s with mem := s.mem.writeWords (localAddr (s.gcore c) 0) ((upFrom 0 localWordCount).map fun i => (s.mem.readGran (at_ + 64 * i)).getD 0) }) s

end Sys2Proof.Machine
end

