-- ==== Sys2Proof/Machine/Switch.lean ====
section
/-! DEFINITION. Pre-emption: a context switch asked for, the halt, the save and the restore (R121 to R126, R158, R167, R219, R293, R323). -/

namespace Sys2Proof.Machine

/-! ## The request and the halt (R121) -/

/-- Whether a die serves a request that waits for others of CTXSW, CENSUS and CKPT (R388). -/
def State.servesRequest (s : State) (d : Nat) : Bool := (s.die d).switch.isNone && (s.die d).frozen == 0 && s.ckpt.isNone

/-- The dies a request reaches. -/
def reachedDies (d : Nat) (wide : Bool) : List Nat := if wide then upFrom 0 8 else [d % 8]

/-- A switch to a context is asked for, on one die or the package. None while another request is served. -/
def State.askSwitch (s : State) (d : Nat) (w : Word) : Option State :=
  let ds := reachedDies d (wbit w 4)
  if !ds.all s.servesRequest then none
  else some (ds.foldl (fun s k => s.modDie k fun x => { x with switch := some ⟨wfld w 0 4, wbit w 4, 0, 0⟩, ctxDone := false }) s)

/-- The switch of a die and the dies that take part in it. -/
def State.switchOf (s : State) (d : Nat) : Option (Switch × List Nat) := (s.die d).switch.map fun w => (w, reachedDies d w.wide)

/-- Change the phase of a switch on its dies. -/
def State.setPhase (s : State) (ds : List Nat) (phase : Nat) : State :=
  ds.foldl (fun s k => s.modDie k fun x => { x with switch := x.switch.map fun w => { w with phase := phase } }) s

/-- An access none of whose parts has been sent. -/
def Access.unsent (a : Access) : Access :=
  { a with parts := a.parts.map fun p => { p with sent := false, valued := false, done := false, sysDone := false, bad := false } }

/-- Whether a request is the wait, or the cancel of it, of an access of an activation. -/
def Req.waitsFor (r : Req) (c act seq : Nat) : Bool :=
  r.core == c && r.act == act && r.seq == seq && r.owner == .strand && (match r.op with | .wait _ | .cancel => true | _ => false)

/-- A home without the wait of an access of a core, g among the cores of the pod: its request, its cancel, its waiter. -/
def Home.unwait (h : Home) (c g act seq : Nat) : Home :=
  { h with arrivals := h.arrivals.filter fun r => !r.waitsFor c act seq, replay := h.replay.filter fun r => !r.1.waitsFor c act seq,
           watch := h.watch.filter fun w => match w.kind with | .waiter k x n _ => !(k == g && x == act && n == seq) | _ => true }

/-- Whether a packet belongs to a wait that is withdrawn: its request, or the notice that its waiter stands. -/
def State.ofWait (s : State) (c act seq : Nat) (p : Packet) : Bool :=
  match p.body, p.dst with
  | .req r, _ => r.waitsFor c act seq
  | .resp x n _ r, .core g => g == s.gcore c && x == act && n == seq && r.kind == .accepted
  | _, _ => false

/-- Whether the value of a wait is on its way to its strand. -/
def State.waitAnswered (s : State) (c act seq : Nat) : Bool :=
  s.flight.any fun p => match p.body, p.dst with
    | .resp x n _ r, .core g => g == s.gcore c && x == act && n == seq && r.kind != .accepted
    | _, _ => false

/-- The homes of a saved context without the wait of an access, and its held packets. -/
def Saved.unwait (x : Saved) (s : State) (c act seq : Nat) : Saved :=
  { x with homes := x.homes.mapV fun h => h.unwait c (s.gcore c) act seq, held := x.held.filter fun p => !s.ofWait c act seq p }

/-- A strand's counter wait that is not answered is withdrawn at the halt, to be sent again at restore (R223). -/
def State.withdrawWait (s : State) (sid : Nat) : State :=
  let t := s.strand sid
  let c := coreOf sid
  match t.block with
  | some (.cwait seq dl _) =>
    if s.waitAnswered c t.act seq || !(t.out.any fun a => a.seq == seq && !a.written) then s
    else
      let s := { s with homes := s.homes.mapV fun h => h.unwait c (s.gcore c) t.act seq, flight := s.flight.filter fun p => !s.ofWait c t.act seq p,
                        saved := s.saved.mapV fun x => x.unwait s c t.act seq }
      s.modStrand sid fun t => { t with block := some (.cwait seq dl false), out := t.out.map fun a => if a.seq = seq then a.unsent else a }
  | _ => s

/-- The halt is confirmed: every strand is at an instruction boundary, and its counter wait is withdrawn. -/
def State.confirmHalt (s : State) (d : Nat) : Option State :=
  match s.switchOf d with
  | some (w, ds) =>
    if w.phase ≠ 0 then none
    else
      let s := ds.foldl (fun s k => s.modDie k fun x => { x with switch := x.switch.map fun w => { w with phase := 1, at_ := s.clock } }) s
      some (((s.strands.map (·.1)).filter fun sid => ds.contains (sid / 2048)).foldl State.withdrawWait s)
  | none => none

/-- HALT_CONFIRM (R121): pick.a a die of the switch. -/
def execHaltConfirm (s : State) : Out := s.orStay (s.confirmHalt s.pick.a)

/-! ## What the save waits for (R122, R184, R219, R293, R295, R323, R347, R375) -/

/-- Whether a home has nothing waiting and nothing in progress. -/
def Home.quiet (h : Home) : Bool := h.arrivals.isEmpty && h.replay.isEmpty && h.holds.isEmpty

/-- The die, of the own package, of a home; 8 for another package's. -/
def State.ownDie (s : State) (h : HomeId) : Nat := if homeDie h / 8 = s.pkg then homeDie h % 8 else 8

/-- Whether a home is a core home unit or a quad's atomic unit, which belong to the context of their die. -/
def homeOfCtx : HomeId → Bool
  | .core _ | .quadUnit _ => true
  | .slice _ _ | .bank _ _ | .bridge _ => false

/-- Whether a packet must have arrived before a die is saved: a request, capsule, batch or score sent to the die before the halt, or forwarded to it by
the old core of its rank, but for what no room or the log holds, and a cell or row that a core of the die sent. -/
def State.mustArrive (s : State) (d halt : Nat) (p : Packet) : Bool :=
  let here := homeOfCtx p.dst && s.ownDie p.dst == d && (p.fwd || decide (p.since ≤ halt)) && p.ctx == s.ctxOf d && !s.doorShut p
  let core := match s.homeCore p.dst with | some c => c | none => 0
  match p.body with
  | .req _ => here
  | .capsule _ ws srank => here && s.spillRoom core (SpillItem.capsule ws srank).entries
  | .keyed _ => here && !s.forcing core 5
  | .score _ => here && !s.forcing core 11
  | .cell x => dieOf x.core == d
  | .tokenRow r => dieOf r.core == d && !s.doorShut p
  | _ => false

/-- Whether a core's engines have finished what a halt lets them finish. -/
def State.coreSettled (s : State) (c : Nat) : Bool :=
  let k := s.core c
  (s.home (.core (s.gcore c))).quiet && k.mrun.isEmpty && (k.keyed.isEmpty || s.forcing c 5) &&
  (upFrom 0 4).all fun e => !((s.eng c e).run.any fun x => s.overlaps c x)

/-- Whether a quad has finished what a halt lets it finish: its tasks in flight, and pairs both of whose halves are complete. -/
def State.quadSettled (s : State) (q : Nat) : Bool :=
  let k := s.quad q
  (s.home (.quadUnit (s.pkg * 512 + q))).quiet && k.arrays.all (·.isNone) &&
  !(k.halves.any fun h => h.full && (match s.otherHalf q h.task.rec_ with | some o => o.full | none => false))

/-- Whether everything the halt lets finish on a die has finished. -/
def State.settled (s : State) (d : Nat) : Bool :=
  let halt := match (s.die d).switch with | some w => w.at_ | none => 0
  ((coresOfDie d).all s.coreSettled) && ((upFrom (d * 64) 64).all s.quadSettled) && !(s.flight.any (s.mustArrive d halt))

/-! ## The image (R122, R123, R161, R167) -/

/-- Whether a synchronous or vector load, or a load of the strand's own instruction, is not answered (R122). -/
def Access.loadDue (a : Access) : Bool :=
  !a.written && (match a.dest with | .sreg _ _ _ | .vreg _ _ | .got _ => true | _ => false)

/-- A load that has not been answered is sent again at restore (R122). -/
def Access.unsend (a : Access) : Access := if a.loadDue then a.unsent else a

/-- Whether an access is a tagged load, which its slot in Reissue stands for. -/
def Access.tagged (a : Access) : Bool := match a.dest with | .slot _ _ => true | _ => false

/-- A slot in an image (R167): an SFU slot keeps its generation until its result has come. -/
def Slot.saved (x : Slot) : Slot := if x.state = .pending ∧ x.kind ≠ .sfu then { x with state := .reissue } else x

/-- Whether an access loads for the strand's own instruction. -/
def Access.forInstr (a : Access) : Bool := match a.dest with | .got _ => true | _ => false

/-- A strand in an image; what it has learnt of pages is forgotten, and what its instruction has loaded is loaded afresh (R257), but for one that
has committed. -/
def Strand.saved (t : Strand) : Strand :=
  { t with slots := t.slots.map Slot.saved, out := (t.out.filter fun a => !a.tagged && (t.gate || !a.forInstr)).map Access.unsend, walked := [],
           got := if t.gate then t.got else [], fpAt := if t.gate then t.fpAt else none }

/-- Whether a request reads for an access that an image sends again. -/
def Strand.resends (t : Strand) (seq : Nat) : Bool :=
  match t.out.find? fun a => a.seq == seq with
  | some a => a.tagged || a.loadDue
  | none => false

/-- Whether the request of an activation's access of a die is forgotten: a load that will be sent again. -/
def State.forgets (s : State) (d c act seq : Nat) : Bool :=
  dieOf c == d && (match s.getAct c act with | some t => t.resends seq | none => true)

/-- Whether a unit is a copy command or walker of a die's context: it reads its sources afresh after a restore (R294, R323). -/
def State.rereads (s : State) (d key : Nat) : Bool :=
  dieOf (unitCore key) == d && unitCtx key == s.ctxOf d && (decide (unitKind key < 4) || unitKind key == 8)

/-- Whether a request is forgotten with the loads of a saved die. -/
def State.forgetReq (s : State) (d : Nat) (r : Req) : Bool :=
  r.op == .read && (match r.owner with
    | .strand => s.forgets d r.core r.act r.seq
    | .unit key _ _ => s.rereads d key
    | .device _ _ _ | .post _ | .head _ _ _ => false)

/-- Whether a packet is forgotten with the loads of a saved die. -/
def State.forgetPacket (s : State) (d : Nat) (p : Packet) : Bool :=
  match p.body, p.dst with
  | .req r, _ => s.forgetReq d r
  | .resp act seq _ r, .core g => r.kind == .full && g / 2048 == s.pkg && s.forgets d (g % 2048) act seq
  | .unitResp key _ _ false _, _ => s.rereads d key
  | _, _ => false

/-- What a unit has under way, as its die is saved. -/
def State.savedIo (s : State) (d key : Nat) (x : Io) : Io :=
  if s.rereads d key then x.forgotten
  else if dieOf (unitCore key) = d ∧ unitCtx key = s.ctxOf d then { x with need := [], walked := [] }
  else x

/-- Forget the loads of a die that will be sent again. -/
def State.forgetLoads (s : State) (d : Nat) : State :=
  { s with
    flight := s.flight.filter fun p => !s.forgetPacket d p,
    homes := s.homes.mapV fun h =>
      { h with arrivals := h.arrivals.filter fun r => !s.forgetReq d r, replay := h.replay.filter fun r => !s.forgetReq d r.1 },
    ios := s.ios.map fun (e : Nat × Io) => (e.1, s.savedIo d e.1 e.2) }

/-- The loads of a core go back into its strands' images. -/
def Core.saved (k : Core) : Core := { k with images := k.images.map Strand.saved, ended := k.ended.map Strand.saved }

/-- A walker in an image: the loads for a chunk that has not run are not saved (R294). -/
def TqEntry.saved (x : TqEntry) : TqEntry :=
  match x with
  | .task t => .task t
  | .walker w => .walker { w with runs := w.runs.map fun g => { g with loaded := false } }

/-- A quad in an image: no walk waits, no line is leased, TLB and predictor start anew, and the SFU stays with the die (R105, R167, R184). -/
def Quad.saved (q : Quad) : Quad :=
  { q with tlb := [], walks := [], predictor := [], leases := [], sfu := [], sfuNext := 0, tq := q.tq.mapV fun l => l.map TqEntry.saved }

/-- What stays of a quad: its SFU, which completes what it has taken (R167). -/
def Quad.stays (q : Quad) : Quad := { Quad.init with sfu := q.sfu, sfuNext := q.sfuNext }

/-- Whether a byte of memory, or one that says what check bits do, is of a local memory of a die. -/
def State.localOf (s : State) (d key : Nat) : Bool := decide ((if key < 2 ^ 59 then key else (key - 2 ^ 59) * 8) / 2 ^ 22 / 256 = s.gdie d)

/-- Return the leases of a die's quads to their homes, and those of other quads on lines of its local memories. -/
def State.returnLeases (s : State) (d : Nat) : State :=
  let back := fun (q : Nat) (l : Lease) => q / 64 == d || s.localOf d (l.line * 64)
  s.quads.foldl (fun s e => (e.2.leases.filter (back e.1)).foldl (fun s l => s.returnLease e.1 l.line) s) s

/-- The numbers of the homes that belong to a die's context. -/
def State.ctxHomeKeys (s : State) (d : Nat) : List Nat :=
  ((coresOfDie d).map fun c => homeKey (.core (s.gcore c))) ++ (upFrom (d * 64) 64).map fun q => homeKey (.quadUnit (s.pkg * 512 + q))

/-- Packets of a context for cores of its die that have not arrived: they are held for it. -/
def State.leftOver (s : State) (d ctx : Nat) (p : Packet) : Bool :=
  p.ctx == ctx && s.ownDie p.dst == d && homeOfCtx p.dst &&
  (match p.body with | .resp _ _ _ _ | .unitResp _ _ _ _ _ | .cell _ => false | .tokenRow r => !r.sent | _ => true)

/-- The bank-conflict counters of a core stay with it (R184). -/
def Core.counters (k : Core) : Core := { Core.init with bankCtr := k.bankCtr }

/-- The state of a context leaves its die, for its save image (R123), which is written to its context area (R125) (entry 36, DESIGN CHOICE). -/
def State.saveDie (s : State) (d : Nat) : State :=
  let ctx := s.ctxOf d
  let s := (coresOfDie d).foldl (fun s c => if (s.core c).dirtyLog.isEmpty then s else s.mergeLog c) s
  let s := (s.returnLeases d).forgetLoads d
  let s := { s with strands := s.strands.map fun (e : Nat × Strand) => if e.1 / 2048 = d then (e.1, e.2.saved) else e }.writeImage d
  let s := { s.withdrawHeads (fun q _ => q / 64 == d) with marks := s.marks.filter fun m => !(m.2.1 == d && m.2.2 / 16 == ctx) }
  let (cs, cr) := splitDie s.cores 256 d
  let (ts, tr) := splitDie s.strands 2048 d
  let (qs, qr) := splitDie s.quads 64 d
  let keys := s.ctxHomeKeys d
  let image : Saved :=
    { cores := cs.mapV Core.saved, strands := ts, quads := qs.mapV Quad.saved,
      homes := s.homes.filter fun e => keys.contains e.1, die := s.die d, mem := s.mem.filter fun b => s.localOf d b.1,
      clock := (match (s.die d).switch with | some w => w.at_ | none => s.clock),
      held := (s.flight.filter (s.leftOver d ctx)).map Packet.spilled, unrun := false }
  let image := { image with die := { image.die with switch := image.die.switch.map fun w => { w with phase := 2 } } }
  { s with
    cores := joinMap cr (cs.mapV Core.counters), strands := tr, quads := joinMap qr (qs.mapV Quad.stays),
    homes := s.homes.filter fun e => !keys.contains e.1,
    mem := s.mem.filter fun b => !s.localOf d b.1, flight := s.flight.filter fun p => !s.leftOver d ctx p,
    saved := s.saved.set (savedKey ctx d) image,
    dies := s.dies.set d { (s.die d).takeCtx Die.init with ctxDone := true } }

/-- The contexts of a switch are saved. None where something is still to finish. -/
def State.saveSwitch (s : State) (d : Nat) : Option State :=
  match s.switchOf d with
  | some (w, ds) => if w.phase ≠ 1 ∨ !(ds.all s.settled) then none else some ((ds.foldl State.saveDie s).setPhase ds 2)
  | none => none

/-- CONTEXT_SAVE_COMPLETE (R123): pick.a a die of the switch. -/
def execContextSaveComplete (s : State) : Out := s.orStay (s.saveSwitch s.pick.a)

/-! ## The restore (R124) -/

/-- Whether an answer that goes into an image is still due: of an access that has been sent, but for the loads sent again (R122). -/
def Access.due (a : Access) : Bool :=
  !a.written && (a.parts.any (·.sent)) && (match a.dest with | .amo _ _ _ | .stat _ | .count _ | .wait _ _ => true | _ => false)

/-- Whether a saved strand still awaits what must reach its image first (R122, R158, R167). -/
def Strand.awaits (t : Strand) : Bool :=
  (t.out.any Access.due) || t.block == some .package ||
  t.anySlot (BitVec.allOnes 64) fun x => x.state == .pending && x.kind == .sfu

/-- A cycle count moved by the time saved. -/
def later (dt t : Nat) : Nat := t + dt

/-- The slots' generations are 0 after a restore (R161). -/
def Strand.regen (t : Strand) : Strand := { t with slots := t.slots.map fun (x : Slot) => { x with gen := false } }

/-- A strand whose times are moved, so that they keep their ages. -/
def Strand.moved (t : Strand) (dt : Nat) : Strand :=
  match t.block with
  | some (.yield n) => { t with block := some (.yield (later dt n)) }
  | some (.recv n sc) => { t with block := some (.recv (later dt n) sc) }
  | some (.cwait seq (some dl) c) => { t with block := some (.cwait seq (some (later dt dl)) c) }
  | _ => t

/-- What a restored strand waits for: a yield is over (R230). -/
def Strand.restored (t : Strand) (dt : Nat) : Strand :=
  match t.block with
  | some (.yield _) => { t with block := none, status := { t.status with state := .ready } }
  | _ => t.moved dt

/-- A spilled item with its age kept. -/
def SpillItem.restored (x : SpillItem) (dt : Nat) : SpillItem :=
  match x with
  | .message m => .message { m with stamp := later dt m.stamp }
  | .rank p => .rank p
  | .capsule ws r => .capsule ws r

/-- A core whose times are moved, so that what waits keeps its age. -/
def Core.moved (k : Core) (dt : Nat) : Core :=
  let age := fun (m : QMsg) => { m with stamp := later dt m.stamp }
  { k with inbox := k.inbox.map age, deque := k.deque.map age, spill := k.spill.map fun x => x.restored dt,
           resume := k.resume.map fun r => (r.1, later dt r.2), door := k.door.map fun x => (x.1, later dt x.2),
           steal := { k.steal with backoff := k.steal.backoff.map (later dt) } }

/-- A core after a restore (R105, R204, R219). -/
def Core.restored (k : Core) (dt : Nat) : Core :=
  { k.moved dt with order := upFrom 0 8, itlb := [], dtlb := [], steal := ⟨0, false, 0, false, none⟩, bankBusy := [] }

/-- A quad after a restore: a parked half's time-out has not counted the time saved (R293). -/
def Quad.restored (q : Quad) (dt : Nat) : Quad := { q with halves := q.halves.map fun h => { h with start := later dt h.start } }

/-- Join cells of two memories that have no key in common. -/
def joinMem (a b : Mem) : Mem := b.foldl (fun m c => m.writeByte c.1 c.2) a

/-- Send again what a restored die's strands have to send, loads in Reissue first (R167), and the waits of its tile queues. -/
def State.resend (s : State) (d : Nat) : State :=
  let at_ := s.cur
  let sids := (s.strands.filter fun e => e.1 / 2048 == d && e.2.bound).map (·.1)
  let s := sids.foldl (fun (s : State) sid => ({ s with cur := sid }).reissue) s
  let s := ((s.cores.map (·.1)).filter fun c => dieOf c == d).foldl State.pumpCore s
  let qs := (s.quads.filter fun e => e.1 / 64 == d).map (·.1)
  let s := qs.foldl (fun s q => (upFrom 0 4).foldl (fun s k =>
    match (s.quad q).queue k with
    | .task t :: _ => if (s.quad q).waited.contains t.stamp then s else s.headWait q k ((s.quad q).queue k).length
    | _ => s) s) s
  { s with cur := at_ }

/-- A packet that was held, to be delivered before new traffic. -/
def Packet.asHeld (p : Packet) : Packet := { p with held := true }

/-- A context comes back to its die, or starts there for the first time with cleared local memories (R125) (entry 36, DESIGN CHOICE). -/
def State.restoreDie (s : State) (d ctx : Nat) (wide : Bool) : State :=
  let word := ofN (b2n wide * 16 + ctx)
  let key := savedKey ctx d
  match s.saved.find? fun e => e.1 == key with
  | none =>
    let s := s.modDie d fun k => { k with ctx := word, switch := none, rowCache := [] }
    (s.ringKeys d).foldl (fun s k => s.openRing d k) s
  | some (_, x) =>
    let dt := s.clock - x.clock
    let s :=
      { s with
        cores := joinMap s.cores (x.cores.map fun (e : Nat × Core) => (e.1, { e.2.restored dt with bankCtr := (s.core e.1).bankCtr, images := e.2.images.map Strand.regen })),
        strands := joinMap s.strands (x.strands.mapV fun t => t.regen.restored dt),
        quads := joinMap s.quads (x.quads.map fun (e : Nat × Quad) =>
          (e.1, { e.2.restored dt with sfu := (s.quad e.1).sfu, sfuNext := (s.quad e.1).sfuNext })),
        homes := joinMap s.homes x.homes, mem := joinMem s.mem x.mem,
        dies := s.dies.set d { (s.die d).takeCtx x.die with ctx := word, switch := none, rowCache := [] },
        flight := x.held.map Packet.asHeld ++ s.flight, saved := s.saved.erase key }
    let s := if x.unrun then s else s.readImageOf d ctx
    ((s.ringKeys d).foldl (fun s k => s.openRing d k) s).resend d

/-- Whether a die's context to run awaits nothing more: nothing for its image, and no request of it in a shared SFU (R161, R167). -/
def State.imageReady (s : State) (d ctx : Nat) : Bool :=
  ((upFrom (d * 64) 64).all fun q => (s.quad q).sfu.all fun r => r.ctx != ctx) &&
  match s.saved.find? fun e => e.1 == savedKey ctx d with
  | none => true
  | some (_, x) => !((x.strands.any fun e => e.2.bound && e.2.awaits) || x.cores.any fun e => e.2.images.any Strand.awaits)

/-- The context of a switch runs on its dies. -/
def State.restoreSwitch (s : State) (d : Nat) : Option State :=
  match s.switchOf d with
  | some (w, ds) =>
    if w.phase ≠ 2 ∨ !(ds.all fun k => s.imageReady k w.ctx) then none else some (ds.foldl (fun s k => s.restoreDie k w.ctx w.wide) s)
  | none => none

/-- CONTEXT_RESTORE (R124, R126): pick.a a die of the switch. -/
def execContextRestore (s : State) : Out := s.orStay (s.restoreSwitch s.pick.a)

end Sys2Proof.Machine
end

