-- ==== Sys2Proof/Machine/HostSteps.lean ====
section
/-! DEFINITION. What the host does to the device: its accesses to device memory, the configuration window, parking, boot, attestation and the
life log (R218, R379, R387, R388, R393 to R395). -/

namespace Sys2Proof.Machine

/-! ## Memory (R387) -/

/-- The die of the own package a physical bit address belongs to, if it is device memory of this package. -/
def State.hostDie (s : State) (p : Nat) : Option Nat :=
  match spaceOf p with
  | 0 => if p / 2 ^ 36 = s.pkg then some (p / 2 ^ 25 % 2048 / 256) else none
  | 1 => if p % 2 ^ 60 / 2 ^ 42 = s.pkg then some (p % 2 ^ 60 / 2 ^ 39 % 8) else none
  | 2 => if p % 2 ^ 60 / 2 ^ 35 < 8 then some (p % 2 ^ 60 / 2 ^ 35) else none
  | _ => none

/-- A refused host write is counted (R395). -/
def State.refuseHost (s : State) : State := s.lifeAdd lifeRefused 1

/-- The unit number of a die's bridge for the accesses of the host. -/
def bridgeKey (d : Nat) : Nat := unitNum 15 0 (dieCore d)

/-- The bridge of a die takes up an access of the host (R387). None where the die does not own the memory, or a write is not of whole bytes. -/
def State.hostTake (s : State) (d : Nat) (write : Bool) (p : Nat) (bs : List Byte) : Option State :=
  let n := if write then 8 * bs.length else 64
  if n = 0 ∨ p % (if write then 8 else 64) ≠ 0 ∨ s.hostDie p ≠ some d ∨ s.hostDie (p + n - 1) ≠ some d then none
  else some (s.modDie d fun k => { k with hostq := k.hostq ++ [⟨write, p, bs, false⟩] })

/-- The masked writes of an access of the host. -/
def HostAcc.entries (x : HostAcc) : List BufEntry :=
  let n := 8 * x.bytes.length
  storeEntries 0 8 none x.at_ n (joinBytes x.bytes) ((gransOf x.at_ n).map fun g => ⟨g, false, none⟩)

/-- A die's bridge sends one request of an access of the host to a granule's home. -/
def State.hostSend (s : State) (d g addr : Nat) (op : ReqOp) : State :=
  s.route ⟨0, 0, 0, dieCore d, g, [g], op, false, false, homeKey (.bridge (s.gdie d)), false, false, !op.writes, .unit (bridgeKey d) addr true, 0⟩

/-- The oldest access of the host at a die's bridge goes to its homes: a write granule by granule; one to a weight store that is not in write phase is
refused (R325, R387). -/
def State.hostStart (s : State) (d : Nat) (x : HostAcc) (rest : List HostAcc) : State :=
  let key := bridgeKey d
  let sent := fun (s : State) => s.modDie d fun k => { k with hostq := { x with sent := true } :: rest }
  if x.write then
    let es := x.entries
    if es.any fun e => isWs e.gran && s.wsClosed (e.gran % 2 ^ 60 / 2 ^ 35) then (s.modDie d fun k => { k with hostq := rest }).refuseHost
    else es.foldl (fun s e => (s.modIo key fun y => { y with puts := y.puts ++ [e.gran] }).hostSend d e.gran e.addr.toNat (.write e.mask e.bits)) (sent s)
  else ((sent s).modIo key fun y => { y with asked := y.asked ++ [x.at_] }).hostSend d x.at_ x.at_ .read

/-- An answer to the host. -/
def State.tellHost (s : State) (w : Word) : State := { s with reads := s.reads ++ [w] }

/-- An answer the spec gives no value for (entry 7, DESIGN CHOICE). -/
def State.tellFree (s : State) : State := let (k, s) := s.fresh; s.tellHost (Config.freeWord k)

/-- The access of the host that a die's bridge has sent is over once its home has answered: a write refused on a watched granule is counted (R21, R395); of
a read that finds uncorrectable data the value is open. None where an answer is still due. -/
def State.hostEnd (s : State) (d : Nat) (x : HostAcc) (rest : List HostAcc) : Option State :=
  let io := s.io (bridgeKey d)
  let t := { s.modDie d fun k => { k with hostq := rest } with ios := s.ios.erase (bridgeKey d) }
  if x.write then
    (if !io.puts.isEmpty then none else some (match io.bad with | some (code, _) => if code = cCTRSTORE then t.refuseHost else t | none => t))
  else match io.got.find? fun y => y.1 == x.at_ with
    | some (_, some w) => some (t.tellHost w)
    | some (_, none) => some t.tellFree
    | none => none

/-- A step of the accesses of the host at a die's bridge, one at a time in the order it received them (R387), so that a read comes after every earlier
write (entry 40, DEDUCED). None is sent while a census cut holds them (R389), nor to a local memory while its die's context is switched. -/
def State.hostStep (s : State) (d : Nat) : Option State :=
  match (s.die d).hostq with
  | [] => none
  | x :: rest =>
    if x.sent then s.hostEnd d x rest
    else if (s.die d).frozen ≠ 0 ∨ (spaceOf x.at_ = 0 ∧ (s.die d).switch.isSome = true) then none
    else some (s.hostStart d x rest)

/-- A store of the host's processor to host memory: of bytes, at any time, between the read and the write of a locked read-modify-write too
(R193). -/
def State.hostOwn (s : State) (p : Nat) (bs : List Byte) : Option State :=
  if isHost p && p % 8 == 0 then some { s with mem := s.mem.writeBytes (p / 8) bs } else none

/-- HOST_WRITE (R193, R387): pick.a the die, pick.b the physical bit address, pick.bytes what is written; with no bytes a step of the accesses at the
die's bridge; with pick.flag the host's processor writes host memory. -/
def execHostWrite (s : State) : Out :=
  let p := s.pick
  s.orStay (if p.flag then s.hostOwn p.b p.bytes else if p.bytes.isEmpty then s.hostStep p.a else s.hostTake p.a true p.b p.bytes)

/-! ## The configuration window (R388) -/

/-- CTXSEL. -/
def State.ctxsel (s : State) (d : Nat) : Nat := wfld (s.die d).ctxsel 0 4

/-- A read of a register of the configuration window but for CDATA; of DETSET, PARK and CKPT it gives what was last written (entry 40, DEDUCED). -/
def State.configRead (s : State) (d off : Nat) : State :=
  let k := s.die d
  let sel := s.ctxsel d
  if off < 0x400 ∧ off % 64 = 0 then s.tellHost (s.launchRing d (ringKey sel (off / 64))).block
  else match off with
    | 0x400 => s.tellHost (ofN sel)
    | 0x480 => s.tellHost (k.crumb.get sel 0)
    | 0x4C0 => s.tellHost (s.wsref d)
    | 0x500 => s.tellHost (ofN (b2n k.ctxDone))
    | 0x540 => s.tellHost (ofN (b2n (k.frozen == 2) + 2 * b2n s.ckpt.isSome))
    | 0x600 => s.tellHost s.boot
    | 0x640 => s.tellHost (k.replayRing.get sel 0)
    | 0x680 => s.tellHost k.caddr
    | 0x440 | 0x580 | 0x5C0 => s.tellHost (k.cfg.get off 0)
    | _ => s.tellHost 0

/-- What was written to a register of the configuration window that only starts something. -/
def State.keepWrite (s : State) (d off : Nat) (w : Word) : State := s.modDie d fun k => { k with cfg := k.cfg.set off w }

/-- A write of a register of the configuration window that only holds its value: CTXSEL, CRUMB, REPLAYRING and CADDR. -/
def State.configWrite (s : State) (d off : Nat) (w : Word) : State :=
  let sel := s.ctxsel d
  match off with
  | 0x400 => s.modDie d fun k => { k with ctxsel := ofN (wfld w 0 4) }
  | 0x480 => s.modDie d fun k => { k with crumb := k.crumb.set sel w }
  | 0x640 => s.modDie d fun k => { k with replayRing := k.replayRing.set sel w }
  | 0x680 => s.modDie d fun k => { k with caddr := w }
  | _ => s

/-- CONFIG_REGISTER_WRITE (R388): pick.a the die, pick.b the offset, pick.w the value. -/
def execConfigRegisterWrite (s : State) : Out := .next (s.configWrite s.pick.a s.pick.b s.pick.w)

/-- Write ctl.det of every core of a context on a die (R379), which starts recording there when none of its cores recorded before (R381). -/
def State.detSet (s : State) (d ctx : Nat) (v : Word) : State :=
  if wbit v 1 && !wbit v 0 then s
  else if ctx = s.ctxOf d then (coresOfDie d).foldl (fun s c => s.setDet c v) s
  else
    let x := s.saved.get (savedKey ctx d) { Saved.init with clock := s.clock }
    let before := x.cores.any fun e => wbit e.2.det 0
    let cores := (coresOfDie d).foldl (fun m c => m.set c { m.get c Core.init with det := v }) x.cores
    let die := if before || !wbit v 0 then x.die else { x.die with recFrom := s.clock }
    { s with saved := s.saved.set (savedKey ctx d) { x with cores := cores, die := die } }

/-- DETSET (R379, R388): pick.a the die, pick.w the value. -/
def execDetset (s : State) : Out := .next ((s.keepWrite s.pick.a 0x440 s.pick.w).detSet s.pick.a (s.ctxsel s.pick.a) (ofN (wfld s.pick.w 0 3)))

/-- Park or unpark a core (R218). -/
def State.setPark (s : State) (c : Nat) (on : Bool) : State := s.modCore c fun k => { k with park := on }

/-- PARK (R218, R388): pick.a the die, pick.w the value. -/
def execPark (s : State) : Out := .next ((s.keepWrite (s.pick.a % 8) 0x580 s.pick.w).setPark (s.pick.a % 8 * 256 + wfld s.pick.w 0 8) (wbit s.pick.w 8))

/-! ## Boot and attestation (R393, R394) -/

/-- Verify one image: accepted, its digest is appended to the attestation log; failing, the device stays in recovery with the first such
image's index (entry 41, DEDUCED). -/
def State.bootImage (s : State) (k : Nat) (x : FirmwareImage) : State :=
  let digest := Config.sha3 x.bytes
  if Config.verifies digest x.signature then { s with attest := Config.sha3 (s.attest ++ digest), attested := s.attested + 1 }
  else if s.boot = 0 then { s with boot := ofN (1 + k % 256 * 256) } else s

/-- Power-up: the device is as at reset; the life log, host memory and what the outside has asked for stay. -/
def State.powerUp (s : State) : State :=
  { State.reset with pkg := s.pkg, life := s.life, agenda := s.agenda, free := s.free, mem := s.mem.filter fun b => spaceOf (b.1 * 8) == 3,
                     tier := s.tier, ports := s.ports }

/-- POWER_UP_BOOT (R393): pick.images what the boot ROM finds, in order. -/
def execPowerUpBoot (s : State) : Out :=
  let xs := s.pick.images
  .next ((xs.zip (upFrom 0 xs.length)).foldl (fun s x => s.bootImage x.2 x.1) s.powerUp)

/-- ATTESTATION_QUOTE (R394): pick.bytes the host's nonce (entry 41, DEDUCED). -/
def execAttestationQuote (s : State) : Out :=
  .next { s with quotes := s.quotes ++ [Config.sign (s.pick.bytes ++ s.attest ++ splitBytes s.attested 8)] }

/-! ## The life log (R395) -/

/-- The life-log key of powered hours (entry 42, DESIGN CHOICE). -/
def lifeHours : Nat := 0
/-- The life-log key of supply droops. -/
def lifeDroop : Nat := 9
/-- The life-log key of the calendar month. -/
def lifeMonth : Nat := 20
/-- The life-log key of a temperature bin in a month. -/
def lifeBin (month bin : Nat) : Nat := 1000 + month * 8 + bin % 8

/-- POWERED_HOUR (R395): pick.a the temperature bin, pick.flag that a calendar month of powered time has begun. -/
def execPoweredHour (s : State) : Out :=
  let s := if s.pick.flag then s.lifeAdd lifeMonth 1 else s
  .next ((s.lifeAdd lifeHours 1).lifeAdd (lifeBin (s.life.get lifeMonth 0) s.pick.a) 1)

/-- SUPPLY_DROOP_EVENT (R395). -/
def execSupplyDroopEvent (s : State) : Out := .next (s.lifeAdd lifeDroop 1)

/-- ILLEGAL_WORD (R96): pick.w the word; a precise ILL. -/
def execIllegalWord (s : State) : Out := .next (s.trap cILL s.pick.w)

end Sys2Proof.Machine
end

