-- ==== Sys2Proof/Machine/Census.lean ====
section
/-! DEFINITION. The census: freezing and thawing a die, its image, and checkpoints (R389 to R392). -/

namespace Sys2Proof.Machine

/-! ## Freeze and thaw (R389, R391) -/

/-- The homes of a die other than its cores' and quads'. -/
def State.dieHomes (s : State) (d : Nat) : List HomeId :=
  let g := s.gdie d
  (.bridge g) :: (((upFrom 0 16).map fun k => .slice g k) ++ ((upFrom 0 32).map fun k => .bank g k))

/-- Whether a home performs or holds something for a core of a die. -/
def Home.worksFor (h : Home) (d : Nat) : Bool :=
  (h.arrivals.any fun r => dieOf r.core == d) || (h.replay.any fun r => dieOf r.1.core == d) || h.holds.any fun x => dieOf x.req.core == d

/-- Whether adaptive traffic of a die has drained, to its homes and from it, its tasks in flight are complete, and what its engines finish at a halt is
finished (R389). -/
def State.drained (s : State) (d : Nat) : Bool :=
  !(s.flight.any fun p => !p.ordered && (s.ownDie p.dst == d || srcDie p.src == s.gdie d)) && ((coresOfDie d).all s.coreSettled) &&
  ((s.dieHomes d).all fun h => (s.home h).quiet) && (s.die d).locks.isEmpty && !(s.homes.any fun e => e.2.worksFor d) &&
  ((upFrom (d * 64) 64).all s.quadSettled)

/-- The cut of a die is taken: the ordered items on their way to it are recorded, in their order. -/
def State.takeCut (s : State) (d : Nat) : State :=
  let mine := fun (p : Packet) => p.ordered && s.ownDie p.dst == d
  { s with flight := s.flight.filter fun p => !mine p }.modDie d fun k => { k with frozen := 2, items := s.flight.filter mine }

/-- The cut of a freeze that has started is taken once its die has drained; for a checkpoint the whole package's, once every die has. -/
def State.freeze (s : State) (d : Nat) : Option State :=
  if (s.die d).frozen ≠ 1 then none
  else if s.ckpt.isSome then (if (upFrom 0 8).all s.drained then some ((upFrom 0 8).foldl State.takeCut s) else none)
  else if s.drained d then some (s.takeCut d) else none

/-- A die thaws: the recorded items are delivered in their order, and its cores resume. -/
def State.thawDie (s : State) (d : Nat) : State :=
  let items := (s.die d).items
  let s := { s with flight := items ++ s.flight }.modDie d fun k => { k with frozen := 0, items := [] }
  ((s.cores.filter fun e => dieOf e.1 == d).map (·.1)).foldl State.pumpCore s

/-! ## Checkpoints (R390, R392) -/

/-- The eight words of a descriptor in host memory. -/
def State.hostWords (s : State) (a n : Nat) : List Word := (upFrom 0 n).map fun k => (s.mem.readGran (hostAddr (a + 64 * k))).getD 0

/-- Write STATUS of a descriptor. -/
def State.putStatus (s : State) (ws : List Word) (w : Nat) : State :=
  { s with mem := s.mem.writeGran (hostAddr ((wordAt ws 2).toNat / 64 * 64)) (ofN w) }

/-- A checkpoint or restore starts: one whose window is too small is refused; otherwise the package freezes. None while another request
is served; a descriptor address that is no multiple of 512 names none. -/
def State.askCkpt (s : State) (a : Word) : Option State :=
  if !(upFrom 0 8).all s.servesRequest then none
  else if !aligned a 512 then some s
  else
    let ws := s.hostWords a.toNat 8
    if (wordAt ws 1).toNat < Config.imageBytes then some (s.putStatus ws 2)
    else
      let s := (upFrom 0 8).foldl (fun s d => s.modDie d fun k => { k with frozen := 1 }) s
      some { s with ckpt := some ⟨ws⟩ }

/-! ## Requests in their order (R388, R391) -/

/-- Serve a request of CTXSW, CENSUS or CKPT on a die, by its offset and value; none where it must wait for the one that is served. A freeze is served
when its cut is taken, and a thaw waits for that. -/
def State.serveAsk (s : State) (d : Nat) (x : Nat × Word) : Option State :=
  let f := (s.die d).frozen
  match x.1 with
  | 0x500 => s.askSwitch d x.2
  | 0x540 =>
    if s.ckpt.isSome ∨ f = 1 then none
    else if wbit x.2 0 then
      (if f ≠ 0 then some s else if s.servesRequest d then some (s.modDie d fun k => { k with frozen := 1 }) else none)
    else some (if f = 0 then s else s.thawDie d)
  | 0x5C0 => s.askCkpt x.2
  | _ => some s

/-- Serve the next request that waits on a die: the oldest, but that while the die is frozen requests of CENSUS come first, since nothing else could be
completed (entry 40, DEDUCED). -/
def State.serveNext (s : State) (d : Nat) : Option State :=
  let l := (s.die d).asked
  let k := if (s.die d).frozen = 2 then (listFind (fun (x : Nat × Word) => x.1 == 0x540) l).getD 0 else 0
  (l[k]?).bind fun x => (s.serveAsk d x).map fun s => s.modDie d fun y => { y with asked := listDel y.asked k }

/-- A request is received, and served at once where none is before it. -/
def State.ask (s : State) (d off : Nat) (w : Word) : State :=
  let s := s.modDie d fun k => { k with asked := k.asked ++ [(off, w)] }
  (s.serveNext d).getD s

/-- CONTEXT_SWITCH (R121, R388): pick.a the die, pick.w the value written to CTXSW; with pick.flag the next request that waits there is served. -/
def execContextSwitch (s : State) : Out :=
  if s.pick.flag then s.orStay (s.serveNext s.pick.a) else .next (s.ask s.pick.a 0x500 s.pick.w)

/-- CENSUS_FREEZE (R389): pick.a the die; with pick.flag the cut of a freeze that has started. -/
def execCensusFreeze (s : State) : Out :=
  if s.pick.flag then s.orStay (s.freeze s.pick.a) else .next (s.ask s.pick.a 0x540 1)

/-- CENSUS_THAW (R391): pick.a the die. -/
def execCensusThaw (s : State) : Out := .next (s.ask s.pick.a 0x540 0)

/-- CKPT (R390, R392): pick.a the die, pick.w the descriptor's address. -/
def execCkpt (s : State) : Out := .next ((s.keepWrite s.pick.a 0x5C0 s.pick.w).ask s.pick.a 0x5C0 s.pick.w)

/-! ## A context's view of the state -/

/-- The state as the cores of a context of a die hold it: the running one's, a saved one's, or one that has never run. -/
def State.asCtx (s : State) (d ctx : Nat) : State :=
  if ctx = s.ctxOf d then s
  else if s.saved.any fun e => e.1 == savedKey ctx d then s.exchange (savedKey ctx d)
  else
    let s := { s with saved := s.saved.set (savedKey ctx d) Saved.init }.exchange (savedKey ctx d)
    s.modDie d fun k => { k with ctx := ofN ctx }

/-! ## The image in the safe tier (R390, R392) -/

/-- The cut of the package (entry 43, DESIGN CHOICE). -/
def State.snapshot (s : State) : Snapshot :=
  { mem := s.mem.filter (fun b => spaceOf (b.1 * 8) != 3), strands := s.strands, cores := s.cores, quads := s.quads, dies := s.dies,
    homes := s.homes, ctxs := s.ctxs, ranks := s.ranks, bars := s.bars, flight := s.flight, pendings := s.pendings, marks := s.marks,
    saved := s.saved, ios := s.ios, fab := s.fab, ports := s.ports, redCells := s.redCells, clock := s.clock }

/-- The cut is reproduced: host memory, the clock, and the counters of free values and activations stay; ages are kept (R124, R391)
(entry 43, DESIGN CHOICE). -/
def State.reproduce (s : State) (x : Snapshot) : State :=
  let dt := s.clock - x.clock
  { s with mem := joinMem (s.mem.filter fun b => spaceOf (b.1 * 8) == 3) x.mem, strands := x.strands.mapV fun t => t.moved dt,
           cores := x.cores.mapV fun k => k.moved dt, quads := x.quads.mapV fun q => q.restored dt, dies := x.dies,
           homes := x.homes, ctxs := x.ctxs, ranks := x.ranks, bars := x.bars, flight := x.flight, pendings := x.pendings, marks := x.marks,
           saved := x.saved.mapV fun y => { y with clock := later dt y.clock }, ios := x.ios, fab := x.fab, ports := x.ports, redCells := x.redCells }

/-- The package thaws after a checkpoint. -/
def State.thawAll (s : State) : State := (upFrom 0 8).foldl State.thawDie { s with ckpt := none }

/-- A word of a safe-tier image, with the granule of memory that it holds, if it holds one. -/
abbrev ImageItem := Word × Option Nat

/-- A section of an image: its header of 512 bits, then its data (R390). -/
def imageSection (kind d : Nat) (xs : List ImageItem) : List ImageItem :=
  ([kind, d, 8 * xs.length, 0, 0, 0, 0, 0].map fun n => (ofN n, none)) ++ xs

/-- The census section of a die, in the order of CADDR: class, context, element, instance, word. -/
def State.censusSection (s : State) (d n : Nat) : List ImageItem :=
  let elems := fun (cls ctx : Nat) => ((upFrom 0 (censusRows cls)).map fun e => (s.asCtx d ctx).elemWords d n 0 cls e).flatten
  imageSection 1 d ((((upFrom 1 13).map fun cls => ((upFrom 0 16).map (elems cls)).flatten).flatten).map fun w => (w, none))

/-- The words of granules of memory; an uncorrectable one gives a word that the spec leaves open. -/
def State.memItems (s : State) (n : Nat) (gs : List Nat) : List ImageItem := gs.map fun g => ((s.readAt g).getD (Config.imageWord n g), some g)

/-- The memory sections of a die in the order of their kinds: local memories, operand slots and tiles, weight store, HBM. -/
def State.memSections (s : State) (d n : Nat) : List ImageItem :=
  imageSection 2 d (s.memItems n ((coresOfDie d).map fun c => (upFrom 0 localWordCount).map fun i => localAddr (s.gcore c) (64 * i)).flatten) ++
  imageSection 3 d ((s.elemWords d n 0 6 0 ++ s.elemWords d n 0 6 3).map fun w => (w, none)) ++
  imageSection 4 d (s.memItems n ((upFrom 0 (2 ^ 29)).map fun i => wsAddr d (64 * i))) ++
  imageSection 5 d (s.memItems n ((upFrom 0 (2 ^ 33)).map fun i => hbmAddr (s.gdie d) (64 * i)))

/-- The image of the package (R390): the census sections, then die by die its memories. -/
def State.imageItems (s : State) (n : Nat) : List ImageItem :=
  ((upFrom 0 8).map fun d => s.censusSection d n).flatten ++ ((upFrom 0 8).map fun d => s.memSections d n).flatten

/-- The image is written to the tier's receive window, whose bytes are Config.imageBytes. -/
def State.writeTier (s : State) (win : Nat) : State :=
  { s with mem := s.mem.writeWords (hostAddr win) (((s.imageItems s.free).map (·.1)).take (Config.imageBytes / 8)), free := s.free + 1 }

/-- Memory is read back from the tier's receive window, granule by granule; what was uncorrectable stays so. -/
def State.readTier (s : State) (win : Nat) : State :=
  let xs := s.imageItems 0
  (xs.zip (upFrom 0 xs.length)).foldl (fun s x =>
    match x.1.2 with
    | some g => if (s.mem.readGran g).isSome then { s with mem := s.mem.writeGran g ((s.mem.readGran (hostAddr (win + 64 * x.2))).getD 0) } else s
    | none => s) s

/-- The copy of a checkpoint ends: with a tier error, or complete once every die is cut. A restore reads memory from the window and everything else as the
cut was kept (entry 43, DESIGN CHOICE). -/
def State.endCkpt (s : State) (err : Bool) : Option State :=
  match s.ckpt with
  | none => none
  | some k =>
    let ws := k.desc
    let win := (wordAt ws 0).toNat
    let done := Config.imageBytes * 4 + 1
    if err then some (s.thawAll.putStatus ws 2)
    else if !(upFrom 0 8).all fun d => (s.die d).frozen == 2 then none
    else if !wbit (wordAt ws 3) 0 then some (({ s with tier := s.tier.set win s.snapshot }.writeTier win).thawAll.putStatus ws done)
    else match s.tier.find? fun e => e.1 == win with
      | some (_, x) => some (((s.reproduce x).readTier win).thawAll.putStatus ws done)
      | none => some (s.thawAll.putStatus ws 2)

/-- CHECKPOINT_COMPLETE (R390, R392): pick.flag a tier error. -/
def execCheckpointComplete (s : State) : Out := s.orStay (s.endCkpt s.pick.flag)

/-! ## The census image (R390) -/

/-- A read of CDATA (R390): a word of the image at CADDR while the die is frozen; in an unassigned class or row, the life log's where the image shows it
(R395). -/
def State.cdataRead (s : State) (d : Nat) : State :=
  let a := (s.die d).caddr
  let cls := wfld a 56 8
  let e := wfld a 44 8
  if (s.die d).frozen ≠ 2 then s.tellHost (BitVec.allOnes 64)
  else if e ≥ censusRows cls then s.tellHost (match Config.lifeAt a with | 0 => BitVec.allOnes 64 | n + 1 => ofN (s.life.get n 0))
  else match (s.asCtx d (wfld a 52 4)).censusView d cls e (wfld a 20 24) (wfld a 0 20) with
    | some w => s.tellHost w
    | none => if wfld a 0 20 < (shapeOf cls e).2 then s.tellFree else s.tellHost 0

/-- HOST_READ (R387, R388): pick.a the die, pick.b the physical bit address of a granule, or with pick.flag an offset of the configuration
window. -/
def execHostRead (s : State) : Out :=
  let d := s.pick.a
  if s.pick.flag then .next (if s.pick.b = 0x6C0 then s.cdataRead d else s.configRead d s.pick.b) else s.orStay (s.hostTake d false s.pick.b [])

/-- CDATA_READ (R390): pick.a the die. -/
def execCdataRead (s : State) : Out := .next (s.cdataRead s.pick.a)

/-- A stopped strand is freed: its activation, buffered stores and slots are discarded, and its capsule is dead-lettered (R356, R390). -/
def State.discardStrand (s : State) (sid : Nat) : State :=
  let c := coreOf sid
  match (s.strand sid).capsule with
  | some h => (((s.freeBlocks c h.block).deadLetter c h.words 4).freeStrand sid)
  | none => s.freeStrand sid

/-- Do something as a context of a die sees the state. -/
def State.inCtx (s : State) (d ctx : Nat) (f : State → State) : State :=
  if ctx = s.ctxOf d then f s
  else if s.saved.any fun e => e.1 == savedKey ctx d then (f (s.exchange (savedKey ctx d))).exchange (savedKey ctx d)
  else s

/-- A write of CDATA (R390): freeing a stopped strand, or a park bit; any other is ignored. -/
def State.cdataWrite (s : State) (d : Nat) (v : Word) : State :=
  let a := (s.die d).caddr
  let inst := wfld a 20 24
  let word := wfld a 0 20
  if (s.die d).frozen ≠ 2 ∨ word ≠ 0 then s
  else match wfld a 56 8, wfld a 44 8 with
    | 11, 0 =>
      let sid := d * 2048 + inst
      if inst ≥ 2048 ∨ v ≠ 0 then s
      else s.inCtx d (wfld a 52 4) fun s => if (s.strand sid).status.state = .stopped then s.discardStrand sid else s
    | 4, 10 => if inst ≥ 256 ∨ v.toNat > 1 then s else s.inCtx d (wfld a 52 4) fun s => s.setPark (d * 256 + inst) (v == 1)
    | _, _ => s

/-- CDATA_WRITE (R390): pick.a the die, pick.w the value. -/
def execCdataWrite (s : State) : Out := .next (s.cdataWrite s.pick.a s.pick.w)

end Sys2Proof.Machine
end

