-- ==== Sys2Proof/Machine/Control.lean ====
section
/-! DEFINITION. Control flow: majors 0x10 to 0x13 but for LOOPS (R142 to R145). -/

namespace Sys2Proof.Machine

/-- Whether a branch condition holds (R142). -/
def condHolds (c : Cond) (a b : Word) : Bool :=
  match c with
  | .eq => a == b
  | .ne => a != b
  | .lt => decide (a.toInt < b.toInt)
  | .ge => decide (b.toInt ≤ a.toInt)
  | .ltn => decide (a.toNat < b.toNat)
  | .gen => decide (b.toNat ≤ a.toNat)
  | .bset => wbit a (b.toNat % 64)
  | .bclr => !wbit a (b.toNat % 64)

/-- The target of a pc-relative branch: an offset in halfwords of 16 bits (R142 to R144). -/
def State.target (s : State) {n : Nat} (off : BitVec n) : Word := s.me.pc + sextI off * 16

/-- BRC (R142). -/
def execBrc (c : Cond) (a b : Reg) (off : BitVec 12) (s : State) : Out :=
  if condHolds c (s.rd a) (s.rd b) then .next (s.jump (s.target off)) else .next (s.retire 32)

/-- JAL (R143). -/
def execJal (d : Reg) (off : BitVec 20) (s : State) : Out := .next ((s.wr d (s.me.pc + 32)).jump (s.target off))

/-- JR (R143). -/
def execJr (a : Reg) (s : State) : Out := .next (s.jump (s.rd a))

/-- JALR (R143): a is read before d is written. -/
def execJalr (d a : Reg) (s : State) : Out := .next ((s.wr d (s.me.pc + 32)).jump (s.rd a))

/-- LOOP (R144). -/
def execLoop (c : Reg) (off : BitVec 14) (s : State) : Out :=
  if s.rd c = 0 then .next (s.retire 32)
  else if s.rd c - 1 = 0 then .next ((s.wr c 0).retire 32)
  else .next ((s.wr c (s.rd c - 1)).jump (s.target off))

end Sys2Proof.Machine
end

