-- ==== Sys2Proof/Machine/Deque.lean ====
section
/-! DEFINITION. The deque instructions: major 0x22 (R233). -/

namespace Sys2Proof.Machine

/-- The first granule of a core's work deque in its system region (R37), which names the deque at its home unit. -/
def State.dequeGran (s : State) (c : Nat) : Nat := localAddr (s.gcore c) 0x1C80000

/-- DQPUSH (R233): the record is read and stamped as R8 gives, with KIND 3. -/
def execDqpush (_sc : Scope) (d a : Reg) (s : State) : Out :=
  if !aligned (s.rd a) 64 then .next (s.trap cALIGN (s.rd a)) else
  s.readDesc (s.rd a) 8 fun ws s =>
    let m := Msg.ofWords ws
    if !aligned m.w0 16 then .next (s.trap cALIGN m.w0)
    else
      let m := { m with w1 := s.ownHeader s.ci 3 m.w1 }
      s.atCommit [] fun s =>
        (s.issue { mkOpAccess (s.rd a) (s.dequeGran s.ci) false (.dqpush m) (.stat d) with ordered := true }).retire 32

/-- DQPOP (R233): its destination granules are checked as a store's are. -/
def execDqpop (_sc : Scope) (d a : Reg) (s : State) : Out :=
  let addr := s.rd a
  if !aligned addr 64 then .next (s.trap cALIGN addr) else
  State.checkedAt (s.resolve s.ci s.user .store addr 512) fun ls s =>
    s.deviceOnly addr ls fun s =>
      let own := (ls.map (·.phys)).zip ((gransUp addr.toNat 8).map ofN)
      let acc := { mkOpAccess addr (s.dequeGran s.ci) false (.dqpop addr (ls.headD ⟨0, false, none⟩).phys s.user) (.stat d) with
        ordered := true, grans := s.dequeGran s.ci :: ls.map (·.phys) }
      s.atCommit own fun s => (s.issue acc).retire 32

/-- DQCOUNT (R233). -/
def execDqcount (_sc : Scope) (d : Reg) (s : State) : Out :=
  let acc := { mkOpAccess 0 (s.dequeGran s.ci) false .dqcount (.sreg d 64 false) with ordered := true, elems := [[⟨0, 0, 64⟩]] }
  .next ((s.issue acc).retire 32)

end Sys2Proof.Machine
end

