-- ==== Sys2Proof/Machine/HomeSteps.lean ====
section
/-! DEFINITION. The steps of the ordering machine and of the units that answer strands, one event each: Drain, Deliver, Perform and Answer
(R47), bridges, banks, leases, walkers, the SFU, and waits that end (R58, R61, R113, R168, R185, R186, R192, R215, R223, R230). -/

namespace Sys2Proof.Machine

/-- DRAIN (R47): pick.a the core, pick.b the activation, pick.c the committed store. -/
def execDrain (s : State) : Out := .next (s.drainStore s.pick.a s.pick.b s.pick.c)

/-- DELIVER (R47): pick.a the packet. -/
def execDeliver (s : State) : Out := s.orStay (s.deliverAt s.pick.a)

/-- The error that is said to be in a granule. -/
def Pick.errors (p : Pick) : Nat := if !p.flag then 0 else if p.v = 0 then 1 else 2

/-- PERFORM (R47): pick.home the home; pick.b 0 for the oldest request that may be performed, with pick.flag where its granule has a single-bit
error, or with pick.v a two-bit error (R189), or 1 more than the number of an operation in progress there that goes on (R193, R203). -/
def execPerform (s : State) : Out :=
  s.orStay (match s.pick.b with
    | 0 => s.performAt s.pick.home s.pick.errors
    | k + 1 => s.homeStep s.pick.home k)

/-- ANSWER (R47): pick.a the packet, for a strand or a unit. -/
def execAnswer (s : State) : Out :=
  s.orStay (match s.flight[s.pick.a]? with
    | some ⟨_, _, _, _, _, _, _, _, _, _, _, .unitResp _ _ _ _ _⟩ => s.unitAnswerAt s.pick.a
    | _ => s.answerAt s.pick.a)

/-- POSTED_WRITE_FLUSH (R61): pick.a the die, pick.b the entry. -/
def execPostedWriteFlush (s : State) : Out := s.orStay (s.flushAt s.pick.a s.pick.b)

/-- BANK_REPLAY_RETRY (R186): pick.a the core, pick.b the replayed request, and its granule's error as for PERFORM. -/
def execBankReplayRetry (s : State) : Out := s.orStay (s.replayAt s.pick.a s.pick.b s.pick.errors)

/-- The die cycles a bank hash rewrite takes (R185). -/
def rewriteCycles : Nat := 32768

/-- A rewrite that a write of ctl.bankhash asked for begins (R185): the home performs nothing from the write on, so that what has arrived since
waits for its end. -/
def State.startRewrite (s : State) (c : Nat) : Option State :=
  let h : HomeId := .core (s.gcore c)
  if (s.home h).rewrite then
    some (s.modHome h fun y => { y with rewrite := false, busyTo := s.clock + rewriteCycles })
  else none

/-- BANKHASH_REWRITE (R185): pick.a the core. -/
def execBankhashRewrite (s : State) : Out := s.orStay (s.startRewrite s.pick.a)

/-- The core at whose router a packet of a source waits: the source's own, or the one that stands for its die. -/
def routerOf (src : Nat) : Nat := if src % 8 = 0 then src / 8 % 2048 else dieCore (srcDie src % 8)

/-- An adaptive packet that has waited for ctl.escwait cycles moves onto the escape channel (R58). -/
def State.toEscape (s : State) (k : Nat) : Option State :=
  match s.flight[k]? with
  | none => none
  | some p =>
    if p.ordered || p.escape || decide (s.clock < p.since + (s.core (routerOf p.src)).escwait.toNat) then none
    else some { s with flight := listSet s.flight k { p with escape := true } }

/-- ESCAPE_CHANNEL_ENTRY (R58): pick.a the packet (entry 45, DEDUCED). -/
def execEscapeChannelEntry (s : State) : Out := s.orStay (s.toEscape s.pick.a)

/-- LEASE_GRANT (R192): pick.a the quad, pick.b the line. -/
def execLeaseGrant (s : State) : Out := s.orStay (s.grantLease s.pick.a s.pick.b)

/-- LEASE_RECALL (R192): pick.a the quad, pick.b the line. -/
def execLeaseRecall (s : State) : Out := s.orStay (s.recallLease s.pick.a s.pick.b)

/-- LEASE_IDLE_RETURN (R192): pick.a the quad, pick.b the line. -/
def execLeaseIdleReturn (s : State) : Out := s.orStay (s.idleLease s.pick.a s.pick.b)

/-- PAGE_WALK_COMPLETE (R113, R164): pick.a the quad, pick.b the walk. -/
def execPageWalkComplete (s : State) : Out := s.orStay (s.walkDone s.pick.a s.pick.b)

/-- SFU_RESULT (R168): pick.a the quad, pick.b the request. -/
def execSfuResult (s : State) : Out := s.orStay (s.sfuDone s.pick.a s.pick.b)

/-- A yielding strand goes on once its time is over (R230). -/
def State.endYield (s : State) (sid : Nat) : Option State :=
  match (s.strand sid).block with
  | some (.yield t) =>
    if t > s.clock then none
    else some (s.modStrand sid fun x => { x with block := none, status := { x.status with state := .ready } })
  | _ => none

/-- YIELD_EXPIRY (R230): pick.a the strand. -/
def execYieldExpiry (s : State) : Out := s.orStay (s.endYield s.pick.a)

/-- CWAITT_TIMEOUT (R223): pick.a the strand. -/
def execCwaittTimeout (s : State) : Out := s.orStay (s.cancelWait s.pick.a)

/-- Whether every member of a barrier runs its context now (R126). -/
def State.membersRun (s : State) (key : Nat) : Bool :=
  (barMembers (barScope key) (barNodeOf key) (s.bars.get key Barrier.init).word0).all fun m =>
    let d := dieOf (memberCore (barScope key) m)
    s.ctxOf d == key / 16 / 4096 / 8 && s.dieRuns d

/-- BARRIER_PHASE_COMPLETE (R215): pick.a the barrier's key; pick.flag, for `.pod`, every other package of its range has signalled. -/
def execBarrierPhaseComplete (s : State) : Out :=
  s.orStay (if s.membersRun s.pick.a then s.phaseComplete s.pick.a s.pick.flag else none)

end Sys2Proof.Machine
end

