-- ==== Sys2Proof/Machine/Int.lean ====
section
/-! DEFINITION. Integer operations: majors 0x01 to 0x09 (R128 to R132). -/

namespace Sys2Proof.Machine

/-- ADD (R128). -/
def execAdd (d a b : Reg) (s : State) : Out := s.setReg d (s.rd a + s.rd b)

/-- SUB (R128). -/
def execSub (d a b : Reg) (s : State) : Out := s.setReg d (s.rd a - s.rd b)

/-- MUL (R128). -/
def execMul (d a b : Reg) (s : State) : Out := s.setReg d (s.rd a * s.rd b)

/-- MULH (R128). -/
def execMulh (d a b : Reg) (s : State) : Out := s.setReg d (BitVec.ofInt 64 ((s.rd a).toInt * (s.rd b).toInt / 2 ^ 64))

/-- MULHN (R128). -/
def execMulhn (d a b : Reg) (s : State) : Out := s.setReg d (ofN ((s.rd a).toNat * (s.rd b).toNat / 2 ^ 64))

/-- DIV (R128, R129). -/
def execDiv (d a b : Reg) (s : State) : Out := s.setReg d (divSigned (s.rd a) (s.rd b))

/-- DIVN (R128, R129). -/
def execDivn (d a b : Reg) (s : State) : Out := s.setReg d (divUnsigned (s.rd a) (s.rd b))

/-- REM (R128, R129). -/
def execRem (d a b : Reg) (s : State) : Out := s.setReg d (remSigned (s.rd a) (s.rd b))

/-- REMN (R128, R129). -/
def execRemn (d a b : Reg) (s : State) : Out := s.setReg d (remUnsigned (s.rd a) (s.rd b))

/-- AND (R128). -/
def execAnd (d a b : Reg) (s : State) : Out := s.setReg d (s.rd a &&& s.rd b)

/-- OR (R128). -/
def execOr (d a b : Reg) (s : State) : Out := s.setReg d (s.rd a ||| s.rd b)

/-- XOR (R128). -/
def execXor (d a b : Reg) (s : State) : Out := s.setReg d (s.rd a ^^^ s.rd b)

/-- ANDN (R128). -/
def execAndn (d a b : Reg) (s : State) : Out := s.setReg d (s.rd a &&& ~~~(s.rd b))

/-- SHL (R128). -/
def execShl (d a b : Reg) (s : State) : Out := s.setReg d (s.rd a <<< amount (s.rd b))

/-- SHR (R128). -/
def execShr (d a b : Reg) (s : State) : Out := s.setReg d (s.rd a >>> amount (s.rd b))

/-- SRA (R128). -/
def execSra (d a b : Reg) (s : State) : Out := s.setReg d ((s.rd a).sshiftRight (amount (s.rd b)))

/-- ROL (R128). -/
def execRol (d a b : Reg) (s : State) : Out := s.setReg d ((s.rd a).rotateLeft (amount (s.rd b)))

/-- MIN (R128). -/
def execMin (d a b : Reg) (s : State) : Out := s.setReg d (if (s.rd b).toInt < (s.rd a).toInt then s.rd b else s.rd a)

/-- MAX (R128). -/
def execMax (d a b : Reg) (s : State) : Out := s.setReg d (if (s.rd a).toInt < (s.rd b).toInt then s.rd b else s.rd a)

/-- MINN (R128). -/
def execMinn (d a b : Reg) (s : State) : Out := s.setReg d (if (s.rd b).toNat < (s.rd a).toNat then s.rd b else s.rd a)

/-- MAXN (R128). -/
def execMaxn (d a b : Reg) (s : State) : Out := s.setReg d (if (s.rd a).toNat < (s.rd b).toNat then s.rd b else s.rd a)

/-- SLT (R128). -/
def execSlt (d a b : Reg) (s : State) : Out := s.setReg d (boolWord (decide ((s.rd a).toInt < (s.rd b).toInt)))

/-- SLTN (R128). -/
def execSltn (d a b : Reg) (s : State) : Out := s.setReg d (boolWord (decide ((s.rd a).toNat < (s.rd b).toNat)))

/-- SEQ (R128). -/
def execSeq (d a b : Reg) (s : State) : Out := s.setReg d (boolWord (s.rd a == s.rd b))

/-- CMOV (R128): d keeps its value when b is zero. -/
def execCmov (d a b : Reg) (s : State) : Out := s.setReg d (if s.rd b = 0 then s.rd d else s.rd a)

/-- CLZ (R128). -/
def execClz (d a : Reg) (s : State) : Out := s.setReg d (ofN (leadingZeros (s.rd a)))

/-- CTZ (R128). -/
def execCtz (d a : Reg) (s : State) : Out := s.setReg d (ofN (firstSet (s.rd a).toNat 64))

/-- POPC (R128). -/
def execPopc (d a : Reg) (s : State) : Out := s.setReg d (ofN (popCount (s.rd a).toNat 64))

/-- ADDI (R130). -/
def execAddi (d a : Reg) (i : BitVec 15) (s : State) : Out := s.setReg d (s.rd a + sextI i)

/-- ANDI (R130). -/
def execAndi (d a : Reg) (i : BitVec 15) (s : State) : Out := s.setReg d (s.rd a &&& sextI i)

/-- ORI (R130). -/
def execOri (d a : Reg) (i : BitVec 15) (s : State) : Out := s.setReg d (s.rd a ||| sextI i)

/-- XORI (R130). -/
def execXori (d a : Reg) (i : BitVec 15) (s : State) : Out := s.setReg d (s.rd a ^^^ sextI i)

/-- SLTI (R130). -/
def execSlti (d a : Reg) (i : BitVec 15) (s : State) : Out := s.setReg d (boolWord (decide ((s.rd a).toInt < (sextI i).toInt)))

/-- SHLI (R131). -/
def execShli (d a : Reg) (n : Fin 64) (s : State) : Out := s.setReg d (s.rd a <<< n.val)

/-- SHRI (R131). -/
def execShri (d a : Reg) (n : Fin 64) (s : State) : Out := s.setReg d (s.rd a >>> n.val)

/-- SRAI (R131). -/
def execSrai (d a : Reg) (n : Fin 64) (s : State) : Out := s.setReg d ((s.rd a).sshiftRight n.val)

/-- ROLI (R131). -/
def execRoli (d a : Reg) (n : Fin 64) (s : State) : Out := s.setReg d ((s.rd a).rotateLeft n.val)

/-- LIMM (R132). -/
def execLimm (d : Reg) (i : BitVec 20) (s : State) : Out := s.setReg d (sextI i)

/-- LIMMH (R132). -/
def execLimmh (d : Reg) (i : BitVec 20) (s : State) : Out := s.setReg d ((s.rd d <<< 20) ||| i.zeroExtend 64)

end Sys2Proof.Machine
end

