-- ==== Sys2Proof/Machine/Lane.lean ====
section
/-! DEFINITION. The lane engine's element operations: the shared frame of a lane instruction (R248, R249, R258, R259),
majors 0x26 to 0x28 and the Q forms (R87, R260 to R267). -/

namespace Sys2Proof.Machine

/-! ## Activity (R248, R249) -/

/-- Whether mask bits let element e of width w through. -/
def maskLets (m : Mask) (w e : Nat) : Bool :=
  m.toNat / 2 ^ (if w = 64 then 2 * e else e * w / 32) % 2 == 1

/-- The mask register of an MSEL (R94). -/
def mselReg : MSel → Option MReg
  | .none => none | .m0 => some 0 | .m1 => some 1 | .m2 => some 2

/-- Whether element e of width w is active under an MSEL. -/
def State.isActive (s : State) (m : MSel) (w e : Nat) : Bool :=
  s.enabled e && (match mselReg m with | none => true | some r => maskLets (s.rdM r) w e)

/-! ## The frame of a lane instruction -/

/-- Where a lane instruction's result goes: elements of a vector register, a whole vector register that is no stream, a
scalar or a mask register. -/
inductive LaneDst where
  | vec (d : Reg) (w : Nat)
  | whole (d : Reg)
  | scalar (d : Reg)
  | mask (d : MReg)
  deriving DecidableEq, Repr

/-- A result: elements in order (none: inactive), or a value; and the flags. -/
structure LaneRes where
  elems : List (Option Nat)
  value : Nat
  flags : Nat
  deriving DecidableEq, Repr

/-- The stream check of one operand (R257, R259): the register to report, if it fails. -/
def State.streamBad (s : State) (r : Reg) (w : Nat) (write : Bool) : Bool :=
  match s.boundStream r with
  | none => false
  | some x => x.lane.bits != w || x.isWrite != write || decide (x.pos ≥ x.total)

/-- The distinct bound registers among source operands. -/
def State.boundSrcs (s : State) : List (Reg × Nat) → List (Reg × Stream)
  | [] => []
  | (r, _) :: rest =>
    match s.boundStream r with
    | some x => (r, x) :: (State.boundSrcs s rest).filter fun p => p.1 != r
    | none => State.boundSrcs s rest

/-- The value of a vector operand: popped, or the register. -/
def State.laneVal (s : State) (ps : List Popped) (r : Reg) : Nat :=
  match ps.find? fun p => p.reg == r with
  | some p => p.value
  | none => (s.rdV r).toNat

/-- The flags pops raise for active elements (R255). -/
def popFlags (ps : List Popped) (act : Nat → Bool) : Nat :=
  ps.foldl (fun fl p => ((upFrom 0 p.flags.length).filter act).foldl (fun fl e => orFlags fl (p.flags.getD e 0)) fl) 0

/-- Elements written over an old value, from element e on; the bits beyond them are kept. -/
def mergeElems (w old : Nat) (elems : List (Option Nat)) : Nat :=
  let n := elems.length
  let vals := (elems.zip (upFrom 0 n)).map fun p => match p.1 with | some v => v | none => elemOf old w p.2
  joinElems w vals + old / 2 ^ (w * n) * 2 ^ (w * n)

/-- The registers a lane instruction may not have bound (R259). -/
def State.boundIn (s : State) (rs : List Reg) : Option Reg := rs.find? fun r => s.isBound r

/-- A lane instruction (R258, R259): the operands that may not be bound, the sources with their widths, the destination, the
activity of elements, and the result from the source values. Every check comes before any pop; a trap changes nothing. -/
def State.laneOp (s : State) (len : Nat) (unbound : List Reg) (srcs : List (Reg × Nat)) (dst : LaneDst)
    (act : Nat → Bool) (f : (Reg → Nat) → LaneRes) : Out :=
  match s.boundIn unbound with
  | some r => s.streamTrap r
  | none =>
    let badSrc := (srcs.find? fun p => s.streamBad p.1 p.2 false).map (·.1)
    let badDst := match dst with | .vec d w => if s.streamBad d w true then some d else none | _ => none
    match badSrc.orElse fun _ => badDst with
    | some r => s.streamTrap r
    | none =>
      let bound := s.boundSrcs srcs
      match s.popAll bound with
      | (.stop e, s) => .next (s.stop e)
      | (.wait, s) => .next s
      | (.ok ps, s) =>
        let r := f (s.laneVal ps)
        let fin := fun (s : State) =>
          ((bound.foldl (fun s p => s.advance p.1) s).addFlags (orFlags r.flags (popFlags ps act))).retire len
        match dst with
        | .vec d w =>
          (match s.boundStream d with
           | some x => s.push d x r.elems fin
           | none => .next (fin (s.wrV d (BitVec.ofNat 1024 (mergeElems w (s.rdV d).toNat r.elems)))))
        | .whole d => .next (fin (s.wrV d (BitVec.ofNat 1024 r.value)))
        | .scalar d => .next (fin (s.wr d (ofN r.value)))
        | .mask d => .next (fin (s.wrM d (BitVec.ofNat 32 r.value)))

/-- Compute each active element of n: values and the union of flags. -/
def laneElems (n : Nat) (act : Nat → Bool) (f : Nat → Nat × Nat) : LaneRes :=
  let xs := (upFrom 0 n).map fun e => if act e then some (f e) else none
  ⟨xs.map fun x => x.map (·.1), 0, xs.foldl (fun fl x => match x with | some p => orFlags fl p.2 | none => fl) 0⟩

/-- The number of elements of width w (R248). -/
def laneCount (w : Nat) : Nat := 1024 / w

/-! ## Element functions (R260) -/

/-- An element function: FP environment, LaneWord, operands; value and flags. -/
abbrev LaneFn := FpEnv → Nat → Nat → Nat → Nat × Nat

/-- A difference modulo 2^w. -/
def subMod (w a b : Nat) : Nat := (a + (2 ^ w - b % 2 ^ w)) % 2 ^ w

/-- VADD. -/
def laneAdd (t : LTy) : LaneFn := fun fp l a b => if t.isFp then fadd (laneTy t) fp l a b else ((a + b) % 2 ^ t.bits, 0)
/-- VSUB. -/
def laneSub (t : LTy) : LaneFn := fun fp l a b => if t.isFp then fsub (laneTy t) fp l a b else (subMod t.bits a b, 0)
/-- VMUL. -/
def laneMul (t : LTy) : LaneFn := fun fp l a b => if t.isFp then fmul (laneTy t) fp l a b else (a * b % 2 ^ t.bits, 0)

/-- Whether an integer element is below another, by the type's signedness. -/
def laneLt (t : LTy) (a b : Nat) : Bool :=
  if t.isSigned then decide (toSigned t.bits a < toSigned t.bits b) else decide (a < b)

/-- VMIN and VMAX. -/
def laneMinMax (t : LTy) (isMax : Bool) : LaneFn := fun fp _ a b =>
  if t.isFp then (fminmax (laneTy t) fp.nanm isMax a b, 0)
  else (if laneLt t a b = isMax then b else a, 0)

/-- VABS. -/
def laneAbs (t : LTy) : LaneFn := fun fp _ a _ =>
  if t.isFp then
    (match fdecode (laneTy t) fp.nanm a with | .nan => canonNan (laneTy t) fp.nanm | _ => a % signBit (laneTy t), 0)
  else (if a ≥ 2 ^ (t.bits - 1) then subMod t.bits 0 a else a, 0)

/-- VNEG. -/
def laneNeg (t : LTy) : LaneFn := fun fp _ a _ =>
  if t.isFp then
    (match fdecode (laneTy t) fp.nanm a with | .nan => canonNan (laneTy t) fp.nanm | _ => Nat.xor a (signBit (laneTy t)), 0)
  else (subMod t.bits 0 a, 0)

/-- VAND. -/
def laneAnd : LaneFn := fun _ _ a b => (Nat.land a b, 0)
/-- VOR. -/
def laneOr : LaneFn := fun _ _ a b => (Nat.lor a b, 0)
/-- VXOR. -/
def laneXor : LaneFn := fun _ _ a b => (Nat.xor a b, 0)
/-- VSHL. -/
def laneShl (t : LTy) : LaneFn := fun _ _ a b => (a * 2 ^ (b % t.bits) % 2 ^ t.bits, 0)
/-- VSHR. -/
def laneShr (t : LTy) : LaneFn := fun _ _ a b => (a / 2 ^ (b % t.bits), 0)
/-- VSRA. -/
def laneSra (t : LTy) : LaneFn := fun _ _ a b => (ofSigned t.bits (toSigned t.bits a / 2 ^ (b % t.bits)), 0)

/-- A member of major 0x26 with two sources (R260). -/
def State.lane2 (s : State) (len : Nat) (t : LTy) (m : MSel) (d a b : Reg) (f : LaneFn) : Out :=
  let w := t.bits
  let fp := s.laneEnv
  let act := fun e => s.isActive m w e
  s.laneOp len [] [(a, w), (b, w)] (.vec d w) act fun v =>
    laneElems (laneCount w) act fun e => f fp (s.laneL fp e) (elemOf (v a) w e) (elemOf (v b) w e)

/-- A member with one source. -/
def State.lane1 (s : State) (len : Nat) (t : LTy) (m : MSel) (d a : Reg) (f : LaneFn) : Out :=
  let w := t.bits
  let fp := s.laneEnv
  let act := fun e => s.isActive m w e
  s.laneOp len [] [(a, w)] (.vec d w) act fun v =>
    laneElems (laneCount w) act fun e => f fp (s.laneL fp e) (elemOf (v a) w e) 0

/-- VADD (R260). -/
def execVadd (t : LTy) (m : MSel) (d a b : Reg) (s : State) : Out := s.lane2 32 t m d a b (laneAdd t)
/-- VSUB (R260). -/
def execVsub (t : LTy) (m : MSel) (d a b : Reg) (s : State) : Out := s.lane2 32 t m d a b (laneSub t)
/-- VMUL (R260). -/
def execVmul (t : LTy) (m : MSel) (d a b : Reg) (s : State) : Out := s.lane2 32 t m d a b (laneMul t)
/-- VMIN (R260). -/
def execVmin (t : LTy) (m : MSel) (d a b : Reg) (s : State) : Out := s.lane2 32 t m d a b (laneMinMax t false)
/-- VMAX (R260). -/
def execVmax (t : LTy) (m : MSel) (d a b : Reg) (s : State) : Out := s.lane2 32 t m d a b (laneMinMax t true)
/-- VABS (R260). -/
def execVabs (t : LTy) (m : MSel) (d a : Reg) (s : State) : Out := s.lane1 32 t m d a (laneAbs t)
/-- VNEG (R260). -/
def execVneg (t : LTy) (m : MSel) (d a : Reg) (s : State) : Out := s.lane1 32 t m d a (laneNeg t)
/-- VAND (R260). -/
def execVand (t : LTy) (m : MSel) (d a b : Reg) (s : State) : Out := s.lane2 32 t m d a b laneAnd
/-- VOR (R260). -/
def execVor (t : LTy) (m : MSel) (d a b : Reg) (s : State) : Out := s.lane2 32 t m d a b laneOr
/-- VXOR (R260). -/
def execVxor (t : LTy) (m : MSel) (d a b : Reg) (s : State) : Out := s.lane2 32 t m d a b laneXor
/-- VSHL (R260). -/
def execVshl (t : LTy) (m : MSel) (d a b : Reg) (s : State) : Out := s.lane2 32 t m d a b (laneShl t)
/-- VSHR (R260). -/
def execVshr (t : LTy) (m : MSel) (d a b : Reg) (s : State) : Out := s.lane2 32 t m d a b (laneShr t)
/-- VSRA (R260). -/
def execVsra (t : LTy) (m : MSel) (d a b : Reg) (s : State) : Out := s.lane2 32 t m d a b (laneSra t)

/-- A compare of VCMP (R261). -/
def laneCompare (t : LTy) (c : VCond) (fp : FpEnv) (a b : Nat) : Bool × Nat :=
  if t.isFp then
    match c with
    | .eq => fcompare (laneTy t) fp.nanm false true a b
    | .ne => let r := fcompare (laneTy t) fp.nanm false true a b; (!r.1, r.2)
    | .lt => fcompare (laneTy t) fp.nanm true false a b
    | .le => fcompare (laneTy t) fp.nanm true true a b
  else
    match c with
    | .eq => (a == b, 0) | .ne => (a != b, 0) | .lt => (laneLt t a b, 0) | .le => (!laneLt t b a, 0)

/-- The mask VCMP writes from the results of the enabled elements (R261). -/
def compareMask (w : Nat) (res : List (Option Bool)) : Nat :=
  ((upFrom 0 32).filter fun j =>
    let es := if w = 64 then [j / 2] else upFrom (32 * j / w) (max 1 (32 / w))
    let rs := es.filterMap fun e => res.getD e none
    !rs.isEmpty && rs.all id).foldl (fun m j => m + 2 ^ j) 0

/-- VCMP (R261). -/
def execVcmp (t : LTy) (c : VCond) (d : MReg) (a b : Reg) (s : State) : Out :=
  let w := t.bits
  let fp := s.laneEnv
  let act := fun e => s.enabled e
  s.laneOp 32 [] [(a, w), (b, w)] (.mask d) act fun v =>
    let rs := (upFrom 0 (laneCount w)).map fun e =>
      if act e then some (laneCompare t c fp (elemOf (v a) w e) (elemOf (v b) w e)) else none
    ⟨[], compareMask w (rs.map fun r => r.map (·.1)),
      rs.foldl (fun fl r => match r with | some p => orFlags fl p.2 | none => fl) 0⟩

/-- VSEL (R262): the mask chooses, and only the tail mask makes an element inactive. -/
def execVsel (t : LTy) (m : MSel) (d a b : Reg) (s : State) : Out :=
  let w := t.bits
  let act := fun e => s.enabled e
  match mselReg m with
  | none => s.ill (.vsel t m d a b)
  | some r =>
    s.laneOp 32 [] [(a, w), (b, w)] (.vec d w) act fun v =>
      laneElems (laneCount w) act fun e => (elemOf (if maskLets (s.rdM r) w e then v a else v b) w e, 0)

/-! ## The Q forms (R87) -/

/-- The MSEL of a Q form. -/
def qSel (m : Bool) : MSel := if m then .m0 else .none

/-- vadd.f32 vd, vd, vb (R87). -/
def execVaddF32Q (m : Bool) (d b : Reg) (s : State) : Out := s.lane2 16 .f32 (qSel m) d d b (laneAdd .f32)
/-- vsub.f32 vd, vd, vb (R87). -/
def execVsubF32Q (m : Bool) (d b : Reg) (s : State) : Out := s.lane2 16 .f32 (qSel m) d d b (laneSub .f32)
/-- vmul.f32 vd, vd, vb (R87). -/
def execVmulF32Q (m : Bool) (d b : Reg) (s : State) : Out := s.lane2 16 .f32 (qSel m) d d b (laneMul .f32)
/-- vmax.f32 vd, vd, vb (R87). -/
def execVmaxF32Q (m : Bool) (d b : Reg) (s : State) : Out := s.lane2 16 .f32 (qSel m) d d b (laneMinMax .f32 true)
/-- vmin.f32 vd, vd, vb (R87). -/
def execVminF32Q (m : Bool) (d b : Reg) (s : State) : Out := s.lane2 16 .f32 (qSel m) d d b (laneMinMax .f32 false)
/-- vadd.i32 vd, vd, vb (R87). -/
def execVaddI32Q (m : Bool) (d b : Reg) (s : State) : Out := s.lane2 16 .i32 (qSel m) d d b (laneAdd .i32)
/-- vsub.i32 vd, vd, vb (R87). -/
def execVsubI32Q (m : Bool) (d b : Reg) (s : State) : Out := s.lane2 16 .i32 (qSel m) d d b (laneSub .i32)
/-- vmul.i32 vd, vd, vb (R87). -/
def execVmulI32Q (m : Bool) (d b : Reg) (s : State) : Out := s.lane2 16 .i32 (qSel m) d d b (laneMul .i32)
/-- vand.b32 vd, vd, vb (R87). -/
def execVandB32Q (m : Bool) (d b : Reg) (s : State) : Out := s.lane2 16 .b32 (qSel m) d d b laneAnd
/-- vor.b32 vd, vd, vb (R87). -/
def execVorB32Q (m : Bool) (d b : Reg) (s : State) : Out := s.lane2 16 .b32 (qSel m) d d b laneOr
/-- vxor.b32 vd, vd, vb (R87). -/
def execVxorB32Q (m : Bool) (d b : Reg) (s : State) : Out := s.lane2 16 .b32 (qSel m) d d b laneXor
/-- vshl.i32 vd, vd, vb (R87). -/
def execVshlI32Q (m : Bool) (d b : Reg) (s : State) : Out := s.lane2 16 .i32 (qSel m) d d b (laneShl .i32)
/-- vsra.i32 vd, vd, vb (R87). -/
def execVsraI32Q (m : Bool) (d b : Reg) (s : State) : Out := s.lane2 16 .i32 (qSel m) d d b (laneSra .i32)
/-- vmov vd, vb (R87): VOR.b32 vd, vb, vb. -/
def execVmovQ (m : Bool) (d b : Reg) (s : State) : Out := s.lane2 16 .b32 (qSel m) d b b laneOr
/-- vneg.f32 vd, vb (R87). -/
def execVnegF32Q (m : Bool) (d b : Reg) (s : State) : Out := s.lane1 16 .f32 (qSel m) d b (laneNeg .f32)
/-- vabs.f32 vd, vb (R87). -/
def execVabsF32Q (m : Bool) (d b : Reg) (s : State) : Out := s.lane1 16 .f32 (qSel m) d b (laneAbs .f32)

/-! ## Fused multiply-add (R263) -/

/-- The type of a VFMA. -/
def vfmaTy : VfmaTy → Ty
  | .f32 => .f32 | .bf16 => .bf16 | .f16 => .f16

/-- A member of major 0x27. -/
def State.laneFma (s : State) (t : VfmaTy) (m : Bool) (d a b c : Reg) (negP negX : Bool) : Out :=
  let ty := vfmaTy t
  let w := ty.bits
  let fp := s.laneEnv
  let act := fun e => s.isActive (qSel m) w e
  s.laneOp 32 [] [(a, w), (b, w), (c, w)] (.vec d w) act fun v =>
    laneElems (laneCount w) act fun e =>
      ffma ty fp (s.laneL fp e) negP negX (elemOf (v a) w e) (elemOf (v b) w e) (elemOf (v c) w e)

/-- VFMA (R263). -/
def execVfma (t : VfmaTy) (m : Bool) (d a b c : Reg) (s : State) : Out := s.laneFma t m d a b c false false
/-- VFMS (R263). -/
def execVfms (t : VfmaTy) (m : Bool) (d a b c : Reg) (s : State) : Out := s.laneFma t m d a b c false true
/-- VFNMA (R263). -/
def execVfnma (t : VfmaTy) (m : Bool) (d a b c : Reg) (s : State) : Out := s.laneFma t m d a b c true false

/-! ## Conversions and packing (R265 to R267) -/

/-- VCVT (R265). -/
def execVcvt (t src : Ty) (m : MSel) (d a : Reg) (s : State) : Out :=
  let w := max src.bits t.bits
  let fp := s.laneEnv
  let act := fun e => s.isActive m w e
  s.laneOp 32 [] [(a, src.bits)] (.vec d t.bits) act fun v =>
    laneElems (laneCount w) act fun e => fconvert t src fp (s.laneL fp e) (elemOf (v a) src.bits e)

/-- The wide side of VPACK and VUNPACK (R266). -/
def wideTy (t : Ty) : Ty := if t.isFp then .f32 else .i32

/-- The slot of VPACK and VUNPACK (R266). -/
def packSlot (t : Ty) (b : Word) : Nat := b.toNat % (1024 / (32 * t.bits))

/-- Replace the 32 fields of a slot in a container; an inactive field is kept. -/
def putFields (old w base : Nat) (fs : List (Option Nat)) : Nat :=
  (fs.zip (upFrom 0 fs.length)).foldl (fun acc p =>
    match p.1 with
    | some v =>
      let lo := base + p.2 * w
      acc - acc / 2 ^ lo % 2 ^ w * 2 ^ lo + v % 2 ^ w * 2 ^ lo
    | none => acc) old

/-- VPACK (R266): the container vd is no stream. -/
def execVpack (t : Ty) (m : MSel) (d a b : Reg) (s : State) : Out :=
  let fp := s.laneEnv
  let act := fun e => s.isActive m 32 e
  s.laneOp 32 [d] [(a, 32)] (.whole d) act fun v =>
    let r := laneElems 32 act fun e => fconvert t (wideTy t) fp (s.laneL fp e) (elemOf (v a) 32 e)
    ⟨[], putFields (s.rdV d).toNat t.bits (32 * t.bits * packSlot t (s.rd b)) r.elems, r.flags⟩

/-- Widen a packed field exactly (R266). -/
def widenField (t : Ty) (fp : FpEnv) (x : Nat) : Nat :=
  if t.isFp then (cvtFF .f32 t fp 0 x).1 else if t.isSigned then ofSigned 32 (toSigned t.bits x) else x

/-- VUNPACK (R266): the container va is no stream. -/
def execVunpack (t : Ty) (m : MSel) (d a b : Reg) (s : State) : Out :=
  let fp := s.laneEnv
  let act := fun e => s.isActive m 32 e
  let base := 32 * t.bits * packSlot t (s.rd b)
  s.laneOp 32 [a] [] (.vec d 32) act fun _ =>
    laneElems 32 act fun e => (widenField t fp ((s.rdV a).toNat / 2 ^ (base + e * t.bits) % 2 ^ t.bits), 0)

/-- The scale and zero point of a lane of vb (R267). -/
def laneScale (fp : FpEnv) (w x : Nat) : FVal × Nat := (fdecode .f16 fp.nanm (x % 2 ^ 16), x / 2 ^ 16 % 2 ^ w)

/-- VQUANT (R267): the container vd is no stream. -/
def execVquant (t : Ty) (m : MSel) (d a b : Reg) (s : State) : Out :=
  let fp := s.laneEnv
  let act := fun e => s.isActive m 32 e
  s.laneOp 32 [d] [(a, 32), (b, 32)] (.whole d) act fun v =>
    let r := laneElems 32 act fun e =>
      let (sc, z) := laneScale fp t.bits (elemOf (v b) 32 e)
      quantize fp (s.laneL fp e) t.bits (fdecode .f32 fp.nanm (elemOf (v a) 32 e)) sc z
    ⟨[], putFields (s.rdV d).toNat t.bits 0 r.elems, r.flags⟩

/-- VDEQ (R267): the container va is no stream. -/
def execVdeq (t : Ty) (m : MSel) (d a b : Reg) (s : State) : Out :=
  let fp := s.laneEnv
  let act := fun e => s.isActive m 32 e
  s.laneOp 32 [a] [(b, 32)] (.vec d 32) act fun v =>
    laneElems 32 act fun e =>
      let (sc, z) := laneScale fp t.bits (elemOf (v b) 32 e)
      dequantize .f32 fp (s.laneL fp e) ((s.rdV a).toNat / 2 ^ (e * t.bits) % 2 ^ t.bits) sc z

end Sys2Proof.Machine
end

