-- ==== Sys2Proof/Machine/LanePerm.lean ====
section
/-! DEFINITION. The lane engine's permutes (R268), reductions and scan (R83, R84, R269, R270), mask instructions (R271)
and vector immediates (R272). -/

namespace Sys2Proof.Machine

/-! ## Permutes (R268) -/

/-- A permute: each enabled element e takes the value of `f`. -/
def State.lanePerm (s : State) (t : LTy) (d : Reg) (srcs : List Reg) (f : (Reg → Nat) → Nat → Nat) : Out :=
  let w := t.bits
  let act := fun e => s.enabled e
  s.laneOp 32 [] (srcs.map fun r => (r, w)) (.vec d w) act fun v => laneElems (laneCount w) act fun e => (f v e, 0)

/-- VPERM. -/
def execVperm (t : LTy) (d a b : Reg) (s : State) : Out :=
  s.lanePerm t d [a, b] fun v e => elemOf (v a) t.bits (elemOf (v b) t.bits e % laneCount t.bits)

/-- VBCAST. -/
def execVbcast (t : LTy) (d a : Reg) (s : State) : Out := s.lanePerm t d [] fun _ _ => (s.rd a).toNat % 2 ^ t.bits

/-- An element in a scalar register: sign-extended for i types, zero-extended otherwise (R268, R269). -/
def laneExtend (t : LTy) (x : Nat) : Nat := if t.isSigned then (sextW t.bits x).toNat else x % 2 ^ t.bits

/-- VEXT: the tail mask does not apply. -/
def execVext (t : LTy) (d a b : Reg) (s : State) : Out :=
  s.laneOp 32 [] [(a, t.bits)] (.scalar d) (fun _ => true) fun v =>
    ⟨[], laneExtend t (elemOf (v a) t.bits ((s.rd b).toNat % laneCount t.bits)), 0⟩

/-- VINS: vd is no stream (R259). -/
def execVins (t : LTy) (d a b : Reg) (s : State) : Out :=
  let w := t.bits
  let k := (s.rd b).toNat % laneCount w
  let act := fun e => s.enabled e && e == k
  s.laneOp 32 [d] [] (.vec d w) act fun _ => laneElems (laneCount w) act fun _ => ((s.rd a).toNat % 2 ^ w, 0)

/-- VSLIDE. -/
def execVslide (t : LTy) (d a b : Reg) (s : State) : Out :=
  s.lanePerm t d [a] fun v e =>
    let i : Int := (e : Int) + (s.rd b).toInt
    if 0 ≤ i ∧ i < laneCount t.bits then elemOf (v a) t.bits i.toNat else 0

/-- VSHUF. -/
def execVshuf (t : LTy) (d a b : Reg) (s : State) : Out :=
  s.lanePerm t d [a, b] fun v e => elemOf (v (if e % 2 = 0 then a else b)) t.bits (e / 2)

/-! ## Reductions (R83, R269) -/

/-- The tree of R83 over 2^fuel elements from element e on: the sum, if any is active, and the flags. -/
def sumTree (fp : FpEnv) (lane : Nat → Nat) (xs : Nat → Option Nat) (e : Nat) : Nat → Option Nat × Nat
  | 0 => (xs e, 0)
  | k + 1 =>
    let l := sumTree fp lane xs e k
    let r := sumTree fp lane xs (e + 2 ^ k) k
    match l.1, r.1 with
    | some a, some b => let c := fadd .f32 fp (lane e) a b; (some c.1, orFlags c.2 (orFlags l.2 r.2))
    | some a, none => (some a, orFlags l.2 r.2)
    | none, y => (y, orFlags l.2 r.2)

/-- An element of a reduction: FP32, or the integer extended to 64 bits. -/
def redElem (t : LTy) (fp : FpEnv) (x : Nat) : Nat :=
  if t.isFp then (cvtFF .f32 (laneTy t) fp 0 x).1 else laneExtend t x

/-- The elements of a reduction, none where inactive. -/
def redElems (t : LTy) (fp : FpEnv) (act : Nat → Bool) (v : Nat) : List (Option Nat) :=
  (upFrom 0 (laneCount t.bits)).map fun e => if act e then some (redElem t fp (elemOf v t.bits e)) else none

/-- The levels of the tree over the elements of a width. -/
def treeLevels (w : Nat) : Nat := (laneCount w).log2

/-- A reduction (R269). -/
def State.laneRed (s : State) (t : LTy) (m : MSel) (d a : Reg) (f : FpEnv → List (Option Nat) → Nat × Nat) : Out :=
  let w := t.bits
  let fp := s.laneEnv
  let act := fun e => s.isActive m w e
  s.laneOp 32 [] [(a, w)] (.scalar d) act fun v => let r := f fp (redElems t fp act (v a)); ⟨[], r.1, r.2⟩

/-- VREDADD. -/
def execVredadd (t : LTy) (m : MSel) (d a : Reg) (s : State) : Out :=
  s.laneRed t m d a fun fp xs =>
    if t.isFp then
      let r := sumTree fp (s.laneL fp) (fun e => xs.getD e none) 0 (treeLevels t.bits)
      (r.1.getD 0, r.2)
    else ((xs.foldl (fun n x => n + x.getD 0) 0) % 2 ^ 64, 0)

/-- What a maximum or minimum of no element is (R269). -/
def redEmpty (t : LTy) (isMax : Bool) : Nat :=
  if t.isFp then (if isMax then 0xFF800000 else 0x7F800000)
  else match isMax, t.isSigned with
    | true, true => laneExtend t (2 ^ (t.bits - 1))
    | true, false => 0
    | false, true => 2 ^ (t.bits - 1) - 1
    | false, false => 2 ^ t.bits - 1

/-- The greater or smaller of two reduction elements: FMAX and FMIN of FP32 (R139), or 64-bit integers. -/
def redPick (t : LTy) (fp : FpEnv) (isMax : Bool) (a b : Nat) : Nat :=
  if t.isFp then fminmax .f32 fp.nanm isMax a b
  else
    let lt := if t.isSigned then decide (toSigned 64 a < toSigned 64 b) else decide (a < b)
    if lt = isMax then b else a

/-- The maximum or minimum of the active elements. -/
def redExtreme (t : LTy) (fp : FpEnv) (isMax : Bool) (xs : List (Option Nat)) : Nat :=
  match xs.filterMap id with
  | [] => redEmpty t isMax
  | x :: rest => rest.foldl (redPick t fp isMax) (redPick t fp isMax x x)

/-- VREDMAX. -/
def execVredmax (t : LTy) (m : MSel) (d a : Reg) (s : State) : Out := s.laneRed t m d a fun fp xs => (redExtreme t fp true xs, 0)
/-- VREDMIN. -/
def execVredmin (t : LTy) (m : MSel) (d a : Reg) (s : State) : Out := s.laneRed t m d a fun fp xs => (redExtreme t fp false xs, 0)

/-! ## Scan (R84, R270) -/

/-- An element as a result: a NaN is the canonical one of its format (R66, R258). -/
def laneResult (t : LTy) (nanm : Bool) (x : Nat) : Nat :=
  if t.isFp && fdecode (laneTy t) nanm x == .nan then canonNan (laneTy t) nanm else x

/-- The inclusive scan from element e on, with the running value; `first` makes the first active element a result (entry 62, DEDUCED). -/
def scanFrom (first : Nat → Nat) (add : Nat → Nat → Nat → Nat × Nat) (e : Nat) (run : Option Nat) :
    List (Option Nat) → List (Option Nat) × Nat
  | [] => ([], 0)
  | none :: rest => let r := scanFrom first add (e + 1) run rest; (none :: r.1, r.2)
  | some x :: rest =>
    let y := match run with | some p => add e p x | none => (first x, 0)
    let r := scanFrom first add (e + 1) (some y.1) rest
    (some y.1 :: r.1, orFlags y.2 r.2)

/-- VSCAN. -/
def execVscan (t : LTy) (m : MSel) (d a : Reg) (s : State) : Out :=
  let w := t.bits
  let fp := s.laneEnv
  let act := fun e => s.isActive m w e
  s.laneOp 32 [] [(a, w)] (.vec d w) act fun v =>
    let xs := (upFrom 0 (laneCount w)).map fun e => if act e then some (elemOf (v a) w e) else none
    let r := scanFrom (laneResult t fp.nanm) (fun e p x => laneAdd t fp (s.laneL fp e) p x) 0 none xs
    ⟨r.1, 0, r.2⟩

/-! ## Mask instructions (R271) -/

/-- MAND. -/
def execMand (d a b : MReg) (s : State) : Out := .next ((s.wrM d (s.rdM a &&& s.rdM b)).retire 32)
/-- MOR. -/
def execMor (d a b : MReg) (s : State) : Out := .next ((s.wrM d (s.rdM a ||| s.rdM b)).retire 32)
/-- MNOT. -/
def execMnot (d a : MReg) (s : State) : Out := .next ((s.wrM d (~~~(s.rdM a))).retire 32)
/-- MPOPC. -/
def execMpopc (d : Reg) (a : MReg) (s : State) : Out := .next ((s.wr d (ofN (popCount (s.rdM a).toNat 32))).retire 32)
/-- MFIRST. -/
def execMfirst (d : Reg) (a : MReg) (s : State) : Out := .next ((s.wr d (ofN (firstSet (s.rdM a).toNat 32))).retire 32)
/-- MSET. -/
def execMset (d : MReg) (a : Reg) (s : State) : Out := .next ((s.wrM d (BitVec.ofNat 32 (s.rd a).toNat)).retire 32)

/-! ## Vector immediates (R272) -/

/-- A vector immediate: each enabled element from the source element. -/
def State.laneImm (s : State) (t : LTy) (d : Reg) (srcs : List Reg) (f : Nat → Nat) : Out :=
  s.lanePerm t d srcs fun v e => f (match srcs with | a :: _ => elemOf (v a) t.bits e | [] => 0)

/-- VADDI. -/
def execVaddi (t : LTy) (d a : Reg) (i : BitVec 9) (s : State) : Out :=
  s.laneImm t d [a] fun x => (x + ofSigned t.bits i.toInt) % 2 ^ t.bits

/-- VSHLI: an amount outside 0 to w - 1 raises ILL. -/
def execVshli (t : LTy) (d a : Reg) (i : BitVec 9) (s : State) : Out :=
  if i.toInt < 0 ∨ i.toInt ≥ t.bits then s.ill (.vshli t d a i)
  else s.laneImm t d [a] fun x => x * 2 ^ i.toNat % 2 ^ t.bits

/-- The value VMOVI writes. -/
def immValue (t : LTy) (i : BitVec 9) : Nat :=
  if t.isFp then (roundTo (laneTy t) false 0 0 (decide (i.toInt < 0)) i.toInt.natAbs 0 false).1 else ofSigned t.bits i.toInt

/-- VMOVI. -/
def execVmovi (t : LTy) (d : Reg) (i : BitVec 9) (s : State) : Out := s.laneImm t d [] fun _ => immValue t i

end Sys2Proof.Machine
end

