-- ==== Sys2Proof/Machine/Replay.lean ====
section
/-! DEFINITION. The steps of replay: reading a recorded log ahead, and departures (R382 to R384, R397). -/

namespace Sys2Proof.Machine

/-- The core of a die with a rank. -/
def State.coreOfRank (s : State) (d rank : Nat) : Option Nat := (coresOfDie d).find? fun c => (s.core c).rank % 2 ^ 24 == rank

/-- The fields of a record: UNIT, source, strand and kind (R380, R397). -/
structure CrumbId where
  unit   : Nat
  src    : Nat
  strand : Nat
  kind   : Nat
  deriving DecidableEq, Repr

/-- The stream a record belongs to. -/
def crumbIdOf (ws : List Word) : CrumbId :=
  let u := wfld (wordAt ws 3) 60 4
  ⟨u, wfld (wordAt ws 0) 32 24, if u = 1 then wfld (wordAt ws 3) 0 3 else 0, wfld (wordAt ws 0) 56 8⟩

/-- Whether a unit makes choices of a kind (R397). -/
def unitMakes (u kind : Nat) : Bool :=
  match u with
  | 0 => [3, 4, 5, 6, 11].contains kind
  | 1 => [1, 2, 9].contains kind
  | 2 => kind == 4
  | 3 => kind == 7
  | 4 => kind == 8
  | 5 => kind == 10
  | _ => false

/-- Whether a record's source exists on a die (R383). -/
def State.sourceExists (s : State) (d : Nat) (r : CrumbId) : Bool :=
  unitMakes r.unit r.kind &&
  (match r.unit with
   | 0 | 1 => (s.coreOfRank d r.src).isSome
   | 2 => decide (r.src < 16)
   | 3 => decide (r.src < 64)
   | _ => r.src == 0)

/-- The core whose ctl.det decides for a source: the source's own, or for units of the die any that replays. -/
def State.sourceCore (s : State) (d : Nat) (r : CrumbId) : Nat :=
  match r.unit with
  | 0 | 1 => (s.coreOfRank d r.src).getD (dieCore d)
  | _ => ((coresOfDie d).find? fun c => wbit (s.core c).det 1).getD (dieCore d)

/-- Whether a core replays or binds. -/
def State.readsLog (s : State) (c : Nat) : Bool := wbit (s.core c).det 1 || wbit (s.core c).det 2

/-- Read one record of a die's replay ring ahead and sort it to its stream (R383). None where there is nothing to read. -/
def State.readAhead (s : State) (d : Nat) : Option State :=
  let block := s.replayBlock d
  if !(coresOfDie d).any s.readsLog || s.replayEmpty d || s.crumbFull d then none else
  match s.ringRead (dieCore d) false .load block.toNat with
  | .error _ => none
  | .ok r =>
    match s.devGrans (dieCore d) false .load (gransUp (r.entry r.head.toNat) 4) with
    | .error _ => none
    | .ok ls =>
      match ls.mapM fun l => s.mem.readGran l.phys with
      | none => none
      | some ws =>
        let id := crumbIdOf ws
        let s := s.putGran (r.locs.headD ⟨0, false, none⟩).phys (r.head + 1)
        if !s.sourceExists d id then some (s.depart d id.unit id.src id.strand id.kind)
        else if id.kind = 10 || !s.forcing (s.sourceCore d id) id.kind then some s
        else
          let key := crumbKey id.unit id.src id.strand id.kind
          some (s.modDie d fun k => { k with replay := k.replay.set key (k.replay.get key [] ++ [(wordAt ws 1, wordAt ws 2)]) }).wakeLogs

/-- REPLAY_RING_READ (R383): pick.a the die. -/
def execReplayRingRead (s : State) : Out := s.orStay (s.readAhead s.pick.a)

/-- The cycles a source holds a choice before it departs (R384). -/
def departAfter : Nat := 2 ^ 24

/-- A source departs: it has held a choice too long, or the candidate its next record names cannot arise (entry 44, DEDUCED). -/
def State.departAt (s : State) (d key : Nat) (never : Bool) : Option State :=
  let id : CrumbId := ⟨key / 16 / 8 / 2 ^ 24, key / 16 / 8 % 2 ^ 24, key / 16 % 8, key % 16⟩
  let c := s.sourceCore d id
  let held := match (s.die d).waitFrom.find? fun e => e.1 == key with | some e => decide (s.clock ≥ e.2 + departAfter) | none => false
  if s.forcing c id.kind && (s.nextCrumb d key).isSome && (held || never) && !s.crumbFull d then
    some (s.depart d id.unit id.src id.strand id.kind) else none

/-- REPLAY_DEPARTURE (R384): pick.a the die, pick.b the stream's key, pick.flag that the candidate its next record names cannot arise. -/
def execReplayDeparture (s : State) : Out := s.orStay (s.departAt s.pick.a s.pick.b s.pick.flag)

end Sys2Proof.Machine
end

