-- ==== Sys2Proof/Machine/ScalarFp.lean ====
section
/-! DEFINITION. Scalar floating point: majors 0x0C and 0x0D (R137 to R141). -/

namespace Sys2Proof.Machine

/-- The LaneWord of a scalar rounding (R74). -/
def scalarLane (fp : FpEnv) : Nat := envLane fp 0 0

/-- Write an FP result, zero-extended, and OR its flags into ctl.fflags (R79, R137). -/
def State.setFp (s : State) (d : Reg) (r : Nat × Nat) : Out := (s.addFlags r.2).setReg d (ofN r.1)

/-- The scalar environment of the running strand. -/
def State.myFp (s : State) : FpEnv := s.fpEnv s.ci

/-- The low bits of a register that an FP type reads (R137). -/
def State.rdFp (s : State) (t : Ty) (a : Reg) : Nat := (s.rd a).toNat % 2 ^ t.bits

/-- FADD (R138). -/
def execFadd (t : Ty) (d a b : Reg) (s : State) : Out :=
  s.setFp d (fadd t s.myFp (scalarLane s.myFp) (s.rdFp t a) (s.rdFp t b))

/-- FSUB (R138). -/
def execFsub (t : Ty) (d a b : Reg) (s : State) : Out :=
  s.setFp d (fsub t s.myFp (scalarLane s.myFp) (s.rdFp t a) (s.rdFp t b))

/-- FMUL (R138). -/
def execFmul (t : Ty) (d a b : Reg) (s : State) : Out :=
  s.setFp d (fmul t s.myFp (scalarLane s.myFp) (s.rdFp t a) (s.rdFp t b))

/-- FDIV (R138). -/
def execFdiv (t : Ty) (d a b : Reg) (s : State) : Out :=
  s.setFp d (fdiv t s.myFp (scalarLane s.myFp) (s.rdFp t a) (s.rdFp t b))

/-- FSQRT (R138). -/
def execFsqrt (t : Ty) (d a : Reg) (s : State) : Out := s.setFp d (fsqrt t s.myFp (scalarLane s.myFp) (s.rdFp t a))

/-- FMIN (R139). -/
def execFmin (t : Ty) (d a b : Reg) (s : State) : Out :=
  s.setReg d (ofN (fminmax t s.myFp.nanm false (s.rdFp t a) (s.rdFp t b)))

/-- FMAX (R139). -/
def execFmax (t : Ty) (d a b : Reg) (s : State) : Out :=
  s.setReg d (ofN (fminmax t s.myFp.nanm true (s.rdFp t a) (s.rdFp t b)))

/-- A compare writes its truth and its flag (R139). -/
def State.setCmp (s : State) (d : Reg) (r : Bool × Nat) : Out := (s.addFlags r.2).setReg d (boolWord r.1)

/-- FCMPEQ (R139). -/
def execFcmpeq (t : Ty) (d a b : Reg) (s : State) : Out :=
  s.setCmp d (fcompare t s.myFp.nanm false true (s.rdFp t a) (s.rdFp t b))

/-- FCMPLT (R139). -/
def execFcmplt (t : Ty) (d a b : Reg) (s : State) : Out :=
  s.setCmp d (fcompare t s.myFp.nanm true false (s.rdFp t a) (s.rdFp t b))

/-- FCMPLE (R139). -/
def execFcmple (t : Ty) (d a b : Reg) (s : State) : Out :=
  s.setCmp d (fcompare t s.myFp.nanm true true (s.rdFp t a) (s.rdFp t b))

/-- FCLASS (R139). -/
def execFclass (t : Ty) (d a : Reg) (s : State) : Out := s.setReg d (ofN (fclass t s.myFp.nanm (s.rdFp t a)))

/-- A converted value in a scalar register: sign-extended for signed integer types, zero-extended otherwise (R140). -/
def placeScalar (t : Ty) (x : Nat) : Word := if t.isSigned then sextW t.bits x else ofN x

/-- FCVT (R140). -/
def execFcvt (t src : Ty) (d a : Reg) (s : State) : Out :=
  let r := fconvert t src s.myFp (scalarLane s.myFp) (s.rdFp src a)
  (s.addFlags r.2).setReg d (placeScalar t r.1)

/-- The scalar type of an FMA. -/
def fmaTy : FmaTy → Ty
  | .f32 => .f32
  | .f40 => .f40

/-- FMA (R141). -/
def execFma (t : FmaTy) (d a b c : Reg) (s : State) : Out :=
  s.setFp d (ffma (fmaTy t) s.myFp (scalarLane s.myFp) false false (s.rdFp (fmaTy t) a) (s.rdFp (fmaTy t) b) (s.rdFp (fmaTy t) c))

end Sys2Proof.Machine
end

