-- ==== Sys2Proof/Machine/Dispatch.lean ====
section
/-! DEFINITION. The dispatch of an instruction or event to its meaning: one arm for each constructor of Instr. -/

namespace Sys2Proof.Machine

/-- The meaning of an instruction for the strand State.cur, or of an event with the operands State.pick. -/
def exec (i : Instr) (s : State) : Host.Outcome State Fault Refusal :=
  match i with
  | .add d a b => Sys2Proof.Machine.execAdd d a b s
  | .sub d a b => Sys2Proof.Machine.execSub d a b s
  | .mul d a b => Sys2Proof.Machine.execMul d a b s
  | .mulh d a b => Sys2Proof.Machine.execMulh d a b s
  | .mulhn d a b => Sys2Proof.Machine.execMulhn d a b s
  | .div d a b => Sys2Proof.Machine.execDiv d a b s
  | .divn d a b => Sys2Proof.Machine.execDivn d a b s
  | .rem d a b => Sys2Proof.Machine.execRem d a b s
  | .remn d a b => Sys2Proof.Machine.execRemn d a b s
  | .and d a b => Sys2Proof.Machine.execAnd d a b s
  | .or d a b => Sys2Proof.Machine.execOr d a b s
  | .xor d a b => Sys2Proof.Machine.execXor d a b s
  | .andn d a b => Sys2Proof.Machine.execAndn d a b s
  | .shl d a b => Sys2Proof.Machine.execShl d a b s
  | .shr d a b => Sys2Proof.Machine.execShr d a b s
  | .sra d a b => Sys2Proof.Machine.execSra d a b s
  | .rol d a b => Sys2Proof.Machine.execRol d a b s
  | .min d a b => Sys2Proof.Machine.execMin d a b s
  | .max d a b => Sys2Proof.Machine.execMax d a b s
  | .minn d a b => Sys2Proof.Machine.execMinn d a b s
  | .maxn d a b => Sys2Proof.Machine.execMaxn d a b s
  | .slt d a b => Sys2Proof.Machine.execSlt d a b s
  | .sltn d a b => Sys2Proof.Machine.execSltn d a b s
  | .seq d a b => Sys2Proof.Machine.execSeq d a b s
  | .cmov d a b => Sys2Proof.Machine.execCmov d a b s
  | .clz d a => Sys2Proof.Machine.execClz d a s
  | .ctz d a => Sys2Proof.Machine.execCtz d a s
  | .popc d a => Sys2Proof.Machine.execPopc d a s
  | .addi d a i_ => Sys2Proof.Machine.execAddi d a i_ s
  | .andi d a i_ => Sys2Proof.Machine.execAndi d a i_ s
  | .ori d a i_ => Sys2Proof.Machine.execOri d a i_ s
  | .xori d a i_ => Sys2Proof.Machine.execXori d a i_ s
  | .slti d a i_ => Sys2Proof.Machine.execSlti d a i_ s
  | .shli d a n => Sys2Proof.Machine.execShli d a n s
  | .shri d a n => Sys2Proof.Machine.execShri d a n s
  | .srai d a n => Sys2Proof.Machine.execSrai d a n s
  | .roli d a n => Sys2Proof.Machine.execRoli d a n s
  | .limm d i_ => Sys2Proof.Machine.execLimm d i_ s
  | .limmh d i_ => Sys2Proof.Machine.execLimmh d i_ s
  | .bpadd w d a b => Sys2Proof.Machine.execBpadd w d a b s
  | .bpdiff w d a b => Sys2Proof.Machine.execBpdiff w d a b s
  | .bcrd d a b => Sys2Proof.Machine.execBcrd d a b s
  | .brel d a b => Sys2Proof.Machine.execBrel d a b s
  | .bstripe d a b => Sys2Proof.Machine.execBstripe d a b s
  | .b2byte d a => Sys2Proof.Machine.execB2byte d a s
  | .byte2b d a => Sys2Proof.Machine.execByte2b d a s
  | .bwin s_ d a => Sys2Proof.Machine.execBwin s_ d a s
  | .balign w d a => Sys2Proof.Machine.execBalign w d a s
  | .bpaddi w d a i_ => Sys2Proof.Machine.execBpaddi w d a i_ s
  | .fadd t d a b => Sys2Proof.Machine.execFadd t d a b s
  | .fsub t d a b => Sys2Proof.Machine.execFsub t d a b s
  | .fmul t d a b => Sys2Proof.Machine.execFmul t d a b s
  | .fdiv t d a b => Sys2Proof.Machine.execFdiv t d a b s
  | .fsqrt t d a => Sys2Proof.Machine.execFsqrt t d a s
  | .fmin t d a b => Sys2Proof.Machine.execFmin t d a b s
  | .fmax t d a b => Sys2Proof.Machine.execFmax t d a b s
  | .fcmpeq t d a b => Sys2Proof.Machine.execFcmpeq t d a b s
  | .fcmplt t d a b => Sys2Proof.Machine.execFcmplt t d a b s
  | .fcmple t d a b => Sys2Proof.Machine.execFcmple t d a b s
  | .fcvt t s_ d a => Sys2Proof.Machine.execFcvt t s_ d a s
  | .fclass t d a => Sys2Proof.Machine.execFclass t d a s
  | .fma t d a b c => Sys2Proof.Machine.execFma t d a b c s
  | .brc c a b o => Sys2Proof.Machine.execBrc c a b o s
  | .jal d o => Sys2Proof.Machine.execJal d o s
  | .jr a => Sys2Proof.Machine.execJr a s
  | .jalr d a => Sys2Proof.Machine.execJalr d a s
  | .loop c o => Sys2Proof.Machine.execLoop c o s
  | .loops o => Sys2Proof.Machine.execLoops o s
  | .ld w x d a o => Sys2Proof.Machine.execLd w x d a o s
  | .st w d a o => Sys2Proof.Machine.execSt w d a o s
  | .ldv w d a o => Sys2Proof.Machine.execLdv w d a o s
  | .stv w d a o => Sys2Proof.Machine.execStv w d a o s
  | .ldvx w d a i_ => Sys2Proof.Machine.execLdvx w d a i_ s
  | .stvx w d a i_ => Sys2Proof.Machine.execStvx w d a i_ s
  | .ldAcq w x s_ d a o => Sys2Proof.Machine.execLdAcq w x s_ d a o s
  | .stRel w s_ d a o => Sys2Proof.Machine.execStRel w s_ d a o s
  | .ldt w x t a i_ => Sys2Proof.Machine.execLdt w x t a i_ s
  | .ldtv w t a i_ => Sys2Proof.Machine.execLdtv w t a i_ s
  | .take d a => Sys2Proof.Machine.execTake d a s
  | .takem d a b => Sys2Proof.Machine.execTakem d a b s
  | .taket d a b => Sys2Proof.Machine.execTaket d a b s
  | .lsq d a => Sys2Proof.Machine.execLsq d a s
  | .lsreissue a => Sys2Proof.Machine.execLsreissue a s
  | .lsclr a => Sys2Proof.Machine.execLsclr a s
  | .lswait a => Sys2Proof.Machine.execLswait a s
  | .sfuExp2 t a => Sys2Proof.Machine.execSfuExp2 t a s
  | .sfuLog2 t a => Sys2Proof.Machine.execSfuLog2 t a s
  | .sfuRcp t a => Sys2Proof.Machine.execSfuRcp t a s
  | .sfuRsq t a => Sys2Proof.Machine.execSfuRsq t a s
  | .sfuSin t a => Sys2Proof.Machine.execSfuSin t a s
  | .sfuCos t a => Sys2Proof.Machine.execSfuCos t a s
  | .sfuTanh t a => Sys2Proof.Machine.execSfuTanh t a s
  | .sfuErf t a => Sys2Proof.Machine.execSfuErf t a s
  | .amoAdd y w d a b => Sys2Proof.Machine.execAmoAdd y w d a b s
  | .amoAnd y w d a b => Sys2Proof.Machine.execAmoAnd y w d a b s
  | .amoOr y w d a b => Sys2Proof.Machine.execAmoOr y w d a b s
  | .amoXor y w d a b => Sys2Proof.Machine.execAmoXor y w d a b s
  | .amoMin y w d a b => Sys2Proof.Machine.execAmoMin y w d a b s
  | .amoMax y w d a b => Sys2Proof.Machine.execAmoMax y w d a b s
  | .amoMinn y w d a b => Sys2Proof.Machine.execAmoMinn y w d a b s
  | .amoMaxn y w d a b => Sys2Proof.Machine.execAmoMaxn y w d a b s
  | .amoSwap y w d a b => Sys2Proof.Machine.execAmoSwap y w d a b s
  | .amoCas y w d a b => Sys2Proof.Machine.execAmoCas y w d a b s
  | .amoFadd y d a b => Sys2Proof.Machine.execAmoFadd y d a b s
  | .redAdd y w a b => Sys2Proof.Machine.execRedAdd y w a b s
  | .redAnd y w a b => Sys2Proof.Machine.execRedAnd y w a b s
  | .redOr y w a b => Sys2Proof.Machine.execRedOr y w a b s
  | .redXor y w a b => Sys2Proof.Machine.execRedXor y w a b s
  | .redMin y w a b => Sys2Proof.Machine.execRedMin y w a b s
  | .redMax y w a b => Sys2Proof.Machine.execRedMax y w a b s
  | .redMinn y w a b => Sys2Proof.Machine.execRedMinn y w a b s
  | .redMaxn y w a b => Sys2Proof.Machine.execRedMaxn y w a b s
  | .redFadd y a b => Sys2Proof.Machine.execRedFadd y a b s
  | .redFmax y a b => Sys2Proof.Machine.execRedFmax y a b s
  | .fence k s_ => Sys2Proof.Machine.execFence k s_ s
  | .enq s_ d a b => Sys2Proof.Machine.execEnq s_ d a b s
  | .deq s_ d a b => Sys2Proof.Machine.execDeq s_ d a b s
  | .ringstat s_ d a => Sys2Proof.Machine.execRingstat s_ d a s
  | .cadd r s_ a b => Sys2Proof.Machine.execCadd r s_ a b s
  | .cmax r s_ a b => Sys2Proof.Machine.execCmax r s_ a b s
  | .cwait s_ d a b => Sys2Proof.Machine.execCwait s_ d a b s
  | .cwaitt s_ d a b => Sys2Proof.Machine.execCwaitt s_ d a b s
  | .carm s_ d a b => Sys2Proof.Machine.execCarm s_ d a b s
  | .msg s_ d a b => Sys2Proof.Machine.execMsg s_ d a b s
  | .msgc s_ d a b => Sys2Proof.Machine.execMsgc s_ d a b s
  | .spawn s_ a b => Sys2Proof.Machine.execSpawn s_ a b s
  | .recv s_ => Sys2Proof.Machine.execRecv s_ s
  | .endAct s_ => Sys2Proof.Machine.execEndAct s_ s
  | .yield s_ a => Sys2Proof.Machine.execYield s_ a s
  | .rankmap s_ d a b => Sys2Proof.Machine.execRankmap s_ d a b s
  | .dqpush s_ d a => Sys2Proof.Machine.execDqpush s_ d a s
  | .dqpop s_ d a => Sys2Proof.Machine.execDqpop s_ d a s
  | .dqcount s_ d => Sys2Proof.Machine.execDqcount s_ d s
  | .barCfg s_ d a b => Sys2Proof.Machine.execBarCfg s_ d a b s
  | .barArr s_ d b => Sys2Proof.Machine.execBarArr s_ d b s
  | .barWait s_ d a b => Sys2Proof.Machine.execBarWait s_ d a b s
  | .barStat s_ d a b => Sys2Proof.Machine.execBarStat s_ d a b s
  | .capnew s_ d a b => Sys2Proof.Machine.execCapnew s_ d a b s
  | .capfwd s_ d a => Sys2Proof.Machine.execCapfwd s_ d a s
  | .capend s_ a => Sys2Proof.Machine.execCapend s_ a s
  | .caprd s_ d a b => Sys2Proof.Machine.execCaprd s_ d a b s
  | .capins s_ d a b => Sys2Proof.Machine.execCapins s_ d a b s
  | .capdel s_ d a => Sys2Proof.Machine.execCapdel s_ d a s
  | .capset s_ d a b => Sys2Proof.Machine.execCapset s_ d a b s
  | .vadd t m d a b => Sys2Proof.Machine.execVadd t m d a b s
  | .vsub t m d a b => Sys2Proof.Machine.execVsub t m d a b s
  | .vmul t m d a b => Sys2Proof.Machine.execVmul t m d a b s
  | .vmin t m d a b => Sys2Proof.Machine.execVmin t m d a b s
  | .vmax t m d a b => Sys2Proof.Machine.execVmax t m d a b s
  | .vabs t m d a => Sys2Proof.Machine.execVabs t m d a s
  | .vneg t m d a => Sys2Proof.Machine.execVneg t m d a s
  | .vcmp t c d a b => Sys2Proof.Machine.execVcmp t c d a b s
  | .vsel t m d a b => Sys2Proof.Machine.execVsel t m d a b s
  | .vand t m d a b => Sys2Proof.Machine.execVand t m d a b s
  | .vor t m d a b => Sys2Proof.Machine.execVor t m d a b s
  | .vxor t m d a b => Sys2Proof.Machine.execVxor t m d a b s
  | .vshl t m d a b => Sys2Proof.Machine.execVshl t m d a b s
  | .vshr t m d a b => Sys2Proof.Machine.execVshr t m d a b s
  | .vsra t m d a b => Sys2Proof.Machine.execVsra t m d a b s
  | .vaddF32Q m d b => Sys2Proof.Machine.execVaddF32Q m d b s
  | .vsubF32Q m d b => Sys2Proof.Machine.execVsubF32Q m d b s
  | .vmulF32Q m d b => Sys2Proof.Machine.execVmulF32Q m d b s
  | .vmaxF32Q m d b => Sys2Proof.Machine.execVmaxF32Q m d b s
  | .vminF32Q m d b => Sys2Proof.Machine.execVminF32Q m d b s
  | .vaddI32Q m d b => Sys2Proof.Machine.execVaddI32Q m d b s
  | .vsubI32Q m d b => Sys2Proof.Machine.execVsubI32Q m d b s
  | .vmulI32Q m d b => Sys2Proof.Machine.execVmulI32Q m d b s
  | .vandB32Q m d b => Sys2Proof.Machine.execVandB32Q m d b s
  | .vorB32Q m d b => Sys2Proof.Machine.execVorB32Q m d b s
  | .vxorB32Q m d b => Sys2Proof.Machine.execVxorB32Q m d b s
  | .vshlI32Q m d b => Sys2Proof.Machine.execVshlI32Q m d b s
  | .vsraI32Q m d b => Sys2Proof.Machine.execVsraI32Q m d b s
  | .vmovQ m d b => Sys2Proof.Machine.execVmovQ m d b s
  | .vnegF32Q m d b => Sys2Proof.Machine.execVnegF32Q m d b s
  | .vabsF32Q m d b => Sys2Proof.Machine.execVabsF32Q m d b s
  | .vfma t m d a b c => Sys2Proof.Machine.execVfma t m d a b c s
  | .vfms t m d a b c => Sys2Proof.Machine.execVfms t m d a b c s
  | .vfnma t m d a b c => Sys2Proof.Machine.execVfnma t m d a b c s
  | .vcvt t s_ m d a => Sys2Proof.Machine.execVcvt t s_ m d a s
  | .vpack t m d a b => Sys2Proof.Machine.execVpack t m d a b s
  | .vunpack t m d a b => Sys2Proof.Machine.execVunpack t m d a b s
  | .vquant t m d a b => Sys2Proof.Machine.execVquant t m d a b s
  | .vdeq t m d a b => Sys2Proof.Machine.execVdeq t m d a b s
  | .vperm t d a b => Sys2Proof.Machine.execVperm t d a b s
  | .vbcast t d a => Sys2Proof.Machine.execVbcast t d a s
  | .vext t d a b => Sys2Proof.Machine.execVext t d a b s
  | .vins t d a b => Sys2Proof.Machine.execVins t d a b s
  | .vslide t d a b => Sys2Proof.Machine.execVslide t d a b s
  | .vshuf t d a b => Sys2Proof.Machine.execVshuf t d a b s
  | .vredadd t m d a => Sys2Proof.Machine.execVredadd t m d a s
  | .vredmax t m d a => Sys2Proof.Machine.execVredmax t m d a s
  | .vredmin t m d a => Sys2Proof.Machine.execVredmin t m d a s
  | .vscan t m d a => Sys2Proof.Machine.execVscan t m d a s
  | .mand d a b => Sys2Proof.Machine.execMand d a b s
  | .mor d a b => Sys2Proof.Machine.execMor d a b s
  | .mnot d a => Sys2Proof.Machine.execMnot d a s
  | .mpopc d a => Sys2Proof.Machine.execMpopc d a s
  | .mfirst d a => Sys2Proof.Machine.execMfirst d a s
  | .mset d a => Sys2Proof.Machine.execMset d a s
  | .vaddi t d a i_ => Sys2Proof.Machine.execVaddi t d a i_ s
  | .vshli t d a i_ => Sys2Proof.Machine.execVshli t d a i_ s
  | .vmovi t d i_ => Sys2Proof.Machine.execVmovi t d i_ s
  | .strmCfg s_ d a => Sys2Proof.Machine.execStrmCfg s_ d a s
  | .strmEnd s_ d => Sys2Proof.Machine.execStrmEnd s_ d s
  | .strmPos s_ d a => Sys2Proof.Machine.execStrmPos s_ d a s
  | .opclaim s_ d a => Sys2Proof.Machine.execOpclaim s_ d a s
  | .oprel s_ a => Sys2Proof.Machine.execOprel s_ a s
  | .opload s_ a b => Sys2Proof.Machine.execOpload s_ a b s
  | .opstat s_ d a => Sys2Proof.Machine.execOpstat s_ d a s
  | .ttEnq s_ d a => Sys2Proof.Machine.execTtEnq s_ d a s
  | .ttGrp s_ d a => Sys2Proof.Machine.execTtGrp s_ d a s
  | .ttPair s_ d a => Sys2Proof.Machine.execTtPair s_ d a s
  | .ttAppend s_ d a b => Sys2Proof.Machine.execTtAppend s_ d a b s
  | .ttQcfg s_ a => Sys2Proof.Machine.execTtQcfg s_ a s
  | .accClr s_ a b => Sys2Proof.Machine.execAccClr s_ a b s
  | .accScale s_ a b => Sys2Proof.Machine.execAccScale s_ a b s
  | .accDrain s_ a b => Sys2Proof.Machine.execAccDrain s_ a b s
  | .accLoad s_ a b => Sys2Proof.Machine.execAccLoad s_ a b s
  | .cpy s_ d a b => Sys2Proof.Machine.execCpy s_ d a b s
  | .cpy2d s_ d a b => Sys2Proof.Machine.execCpy2d s_ d a b s
  | .cpyCvt s_ d a b => Sys2Proof.Machine.execCpyCvt s_ d a b s
  | .putSig s_ d a b => Sys2Proof.Machine.execPutSig s_ d a b s
  | .wsLoad s_ d a b => Sys2Proof.Machine.execWsLoad s_ d a b s
  | .siftCfg s_ d a b => Sys2Proof.Machine.execSiftCfg s_ d a b s
  | .gath s_ d a b => Sys2Proof.Machine.execGath s_ d a b s
  | .scat s_ d a b => Sys2Proof.Machine.execScat s_ d a b s
  | .siftStat s_ d a => Sys2Proof.Machine.execSiftStat s_ d a s
  | .kbind s_ d a b => Sys2Proof.Machine.execKbind s_ d a b s
  | .ksend s_ d a => Sys2Proof.Machine.execKsend s_ d a s
  | .kdrain s_ d a b => Sys2Proof.Machine.execKdrain s_ d a b s
  | .topkCfg s_ d a b => Sys2Proof.Machine.execTopkCfg s_ d a b s
  | .topkSend s_ d a b => Sys2Proof.Machine.execTopkSend s_ d a b s
  | .topkRd s_ d a b => Sys2Proof.Machine.execTopkRd s_ d a b s
  | .collRed s_ d a b => Sys2Proof.Machine.execCollRed s_ d a b s
  | .collBcast s_ d a b => Sys2Proof.Machine.execCollBcast s_ d a b s
  | .tokSend s_ d a b => Sys2Proof.Machine.execTokSend s_ d a b s
  | .fabStat s_ d a => Sys2Proof.Machine.execFabStat s_ d a s
  | .trap c => Sys2Proof.Machine.execTrap c s
  | .ctlrd d n => Sys2Proof.Machine.execCtlrd d n s
  | .ctlwr a n => Sys2Proof.Machine.execCtlwr a n s
  | .tlbinvPage a b => Sys2Proof.Machine.execTlbinvPage a b s
  | .tlbinvCtx b => Sys2Proof.Machine.execTlbinvCtx b s
  | .crumbMark a => Sys2Proof.Machine.execCrumbMark a s
  | .fenceI => Sys2Proof.Machine.execFenceI s
  | .commit => Sys2Proof.Machine.execCommit s
  | .eret => Sys2Proof.Machine.execEret s
  | .halt => Sys2Proof.Machine.execHalt s
  | .tlbinvAll => Sys2Proof.Machine.execTlbinvAll s
  | .harvest => Sys2Proof.Machine.execHarvest s
  | .dispatch => Sys2Proof.Machine.execDispatch s
  | .messageArrival => Sys2Proof.Machine.execMessageArrival s
  | .spillReinject => Sys2Proof.Machine.execSpillReinject s
  | .drain => Sys2Proof.Machine.execDrain s
  | .deliver => Sys2Proof.Machine.execDeliver s
  | .perform => Sys2Proof.Machine.execPerform s
  | .answer => Sys2Proof.Machine.execAnswer s
  | .postedWriteFlush => Sys2Proof.Machine.execPostedWriteFlush s
  | .bankReplayRetry => Sys2Proof.Machine.execBankReplayRetry s
  | .bankhashRewrite => Sys2Proof.Machine.execBankhashRewrite s
  | .escapeChannelEntry => Sys2Proof.Machine.execEscapeChannelEntry s
  | .leaseGrant => Sys2Proof.Machine.execLeaseGrant s
  | .leaseRecall => Sys2Proof.Machine.execLeaseRecall s
  | .leaseIdleReturn => Sys2Proof.Machine.execLeaseIdleReturn s
  | .pageWalkComplete => Sys2Proof.Machine.execPageWalkComplete s
  | .tlbinvComplete => Sys2Proof.Machine.execTlbinvComplete s
  | .faultRewalk => Sys2Proof.Machine.execFaultRewalk s
  | .harvestComplete => Sys2Proof.Machine.execHarvestComplete s
  | .dirtyLogMerge => Sys2Proof.Machine.execDirtyLogMerge s
  | .rankmapComplete => Sys2Proof.Machine.execRankmapComplete s
  | .sfuResult => Sys2Proof.Machine.execSfuResult s
  | .yieldExpiry => Sys2Proof.Machine.execYieldExpiry s
  | .cwaittTimeout => Sys2Proof.Machine.execCwaittTimeout s
  | .barrierPhaseComplete => Sys2Proof.Machine.execBarrierPhaseComplete s
  | .inheritanceNotice => Sys2Proof.Machine.execInheritanceNotice s
  | .stealRequest => Sys2Proof.Machine.execStealRequest s
  | .stealVictimReply => Sys2Proof.Machine.execStealVictimReply s
  | .stealBackoffExpiry => Sys2Proof.Machine.execStealBackoffExpiry s
  | .launchRingRegister => Sys2Proof.Machine.execLaunchRingRegister s
  | .tailNotice => Sys2Proof.Machine.execTailNotice s
  | .launchRingPoll => Sys2Proof.Machine.execLaunchRingPoll s
  | .launchExpansion => Sys2Proof.Machine.execLaunchExpansion s
  | .contextSwitch => Sys2Proof.Machine.execContextSwitch s
  | .haltConfirm => Sys2Proof.Machine.execHaltConfirm s
  | .contextSaveComplete => Sys2Proof.Machine.execContextSaveComplete s
  | .contextRestore => Sys2Proof.Machine.execContextRestore s
  | .tileTaskIssue => Sys2Proof.Machine.execTileTaskIssue s
  | .tileTaskComplete => Sys2Proof.Machine.execTileTaskComplete s
  | .pairCommit => Sys2Proof.Machine.execPairCommit s
  | .pairTimeout => Sys2Proof.Machine.execPairTimeout s
  | .groupStart => Sys2Proof.Machine.execGroupStart s
  | .groupFinish => Sys2Proof.Machine.execGroupFinish s
  | .matrixCommandStart => Sys2Proof.Machine.execMatrixCommandStart s
  | .matrixCommandComplete => Sys2Proof.Machine.execMatrixCommandComplete s
  | .copyCommandStart => Sys2Proof.Machine.execCopyCommandStart s
  | .copyChunk => Sys2Proof.Machine.execCopyChunk s
  | .copyCommandComplete => Sys2Proof.Machine.execCopyCommandComplete s
  | .engineFaultStop => Sys2Proof.Machine.execEngineFaultStop s
  | .wsBankRefresh => Sys2Proof.Machine.execWsBankRefresh s
  | .wsPhaseChange => Sys2Proof.Machine.execWsPhaseChange s
  | .sifterCommandComplete => Sys2Proof.Machine.execSifterCommandComplete s
  | .keyedBatch => Sys2Proof.Machine.execKeyedBatch s
  | .topkScore => Sys2Proof.Machine.execTopkScore s
  | .topkCfgComplete => Sys2Proof.Machine.execTopkCfgComplete s
  | .capsuleArrival => Sys2Proof.Machine.execCapsuleArrival s
  | .capsuleSpillLanding => Sys2Proof.Machine.execCapsuleSpillLanding s
  | .cellArrival => Sys2Proof.Machine.execCellArrival s
  | .reductionCellCombine => Sys2Proof.Machine.execReductionCellCombine s
  | .tokenRowArrival => Sys2Proof.Machine.execTokenRowArrival s
  | .portDown => Sys2Proof.Machine.execPortDown s
  | .cellLost => Sys2Proof.Machine.execCellLost s
  | .replayRingRead => Sys2Proof.Machine.execReplayRingRead s
  | .replayDeparture => Sys2Proof.Machine.execReplayDeparture s
  | .hostWrite => Sys2Proof.Machine.execHostWrite s
  | .hostRead => Sys2Proof.Machine.execHostRead s
  | .detset => Sys2Proof.Machine.execDetset s
  | .wsReadPhaseRequest => Sys2Proof.Machine.execWsReadPhaseRequest s
  | .wsWritePhaseRequest => Sys2Proof.Machine.execWsWritePhaseRequest s
  | .censusFreeze => Sys2Proof.Machine.execCensusFreeze s
  | .censusThaw => Sys2Proof.Machine.execCensusThaw s
  | .park => Sys2Proof.Machine.execPark s
  | .ckpt => Sys2Proof.Machine.execCkpt s
  | .checkpointComplete => Sys2Proof.Machine.execCheckpointComplete s
  | .cdataRead => Sys2Proof.Machine.execCdataRead s
  | .cdataWrite => Sys2Proof.Machine.execCdataWrite s
  | .configRegisterWrite => Sys2Proof.Machine.execConfigRegisterWrite s
  | .powerUpBoot => Sys2Proof.Machine.execPowerUpBoot s
  | .attestationQuote => Sys2Proof.Machine.execAttestationQuote s
  | .illegalWord => Sys2Proof.Machine.execIllegalWord s
  | .routerCommandComplete => Sys2Proof.Machine.execRouterCommandComplete s
  | .linkRetrain => Sys2Proof.Machine.execLinkRetrain s
  | .poweredHour => Sys2Proof.Machine.execPoweredHour s
  | .supplyDroopEvent => Sys2Proof.Machine.execSupplyDroopEvent s

end Sys2Proof.Machine
end

