-- ==== Sys2Proof/Machine/Issue.lean ====
section
/-! DEFINITION. The issue conditions of a strand (R49, R50, R53 to R56, R109, R148, R156, R232) and the fetch of its next instruction
(R86, R96, R145, R199). -/

namespace Sys2Proof.Machine

/-! ## What an instruction touches -/

/-- The scalar registers an instruction reads or writes, but for the one a take returns to. -/
def Instr.scalars : Instr → List Reg
  | .add d a b | .sub d a b | .mul d a b | .mulh d a b | .mulhn d a b | .div d a b | .divn d a b | .rem d a b | .remn d a b
  | .and d a b | .or d a b | .xor d a b | .andn d a b | .shl d a b | .shr d a b | .sra d a b | .rol d a b | .min d a b
  | .max d a b | .minn d a b | .maxn d a b | .slt d a b | .sltn d a b | .seq d a b | .cmov d a b | .bpadd _ d a b
  | .bpdiff _ d a b | .bcrd d a b | .brel d a b | .bstripe d a b | .fadd _ d a b | .fsub _ d a b | .fmul _ d a b | .fdiv _ d a b
  | .fmin _ d a b | .fmax _ d a b | .fcmpeq _ d a b | .fcmplt _ d a b | .fcmple _ d a b | .amoAdd _ _ d a b | .amoAnd _ _ d a b
  | .amoOr _ _ d a b | .amoXor _ _ d a b | .amoMin _ _ d a b | .amoMax _ _ d a b | .amoMinn _ _ d a b | .amoMaxn _ _ d a b
  | .amoSwap _ _ d a b | .amoCas _ _ d a b | .amoFadd _ d a b | .enq _ d a b | .deq _ d a b | .cwait _ d a b | .cwaitt _ d a b
  | .carm _ d a b | .msg _ d a b | .rankmap _ d a b | .barCfg _ d a b | .barWait _ d a b | .barStat _ d a b | .capnew _ d a b
  | .caprd _ d a b | .capins _ d a b | .capset _ d a b | .ttAppend _ d a b | .cpy _ d a b | .cpy2d _ d a b | .cpyCvt _ d a b
  | .putSig _ d a b | .wsLoad _ d a b | .siftCfg _ d a b | .gath _ d a b | .scat _ d a b | .kbind _ d a b | .kdrain _ d a b
  | .topkCfg _ d a b | .topkSend _ d a b | .topkRd _ d a b | .collRed _ d a b | .collBcast _ d a b | .tokSend _ d a b =>
    [d, a, b]
  | .clz d a | .ctz d a | .popc d a | .addi d a _ | .andi d a _ | .ori d a _ | .xori d a _ | .slti d a _ | .shli d a _
  | .shri d a _ | .srai d a _ | .roli d a _ | .b2byte d a | .byte2b d a | .bwin _ d a | .balign _ d a | .bpaddi _ d a _
  | .fsqrt _ d a | .fcvt _ _ d a | .fclass _ d a | .jalr d a | .ld _ _ d a _ | .st _ d a _ | .ldAcq _ _ _ d a _
  | .stRel _ _ d a _ | .lsq d a | .ringstat _ d a | .dqpush _ d a | .dqpop _ d a | .capfwd _ d a | .capdel _ d a
  | .opclaim _ d a | .opstat _ d a | .ttEnq _ d a | .ttGrp _ d a | .ttPair _ d a | .siftStat _ d a | .ksend _ d a
  | .fabStat _ d a =>
    [d, a]
  | .limm d _ | .limmh d _ | .jal d _ | .dqcount _ d | .vredadd _ _ d _ | .vredmax _ _ d _ | .vredmin _ _ d _ | .mpopc d _
  | .mfirst d _ | .strmPos _ d _ | .ctlrd d _ =>
    [d]
  | .fma _ d a b c =>
    [d, a, b, c]
  | .brc _ a b _ | .takem _ a b | .taket _ a b | .redAdd _ _ a b | .redAnd _ _ a b | .redOr _ _ a b | .redXor _ _ a b
  | .redMin _ _ a b | .redMax _ _ a b | .redMinn _ _ a b | .redMaxn _ _ a b | .redFadd _ a b | .redFmax _ a b | .cadd _ _ a b
  | .cmax _ _ a b | .spawn _ a b | .vins _ _ a b | .opload _ a b | .accClr _ a b | .accScale _ a b | .accDrain _ a b
  | .accLoad _ a b | .tlbinvPage a b =>
    [a, b]
  | .jr a | .ldv _ _ a _ | .stv _ _ a _ | .ldvx _ _ a _ | .stvx _ _ a _ | .take _ a | .lsreissue a | .lsclr a | .lswait a
  | .sfuExp2 _ a | .sfuLog2 _ a | .sfuRcp _ a | .sfuRsq _ a | .sfuSin _ a | .sfuCos _ a | .sfuTanh _ a | .sfuErf _ a
  | .yield _ a | .capend _ a | .vbcast _ _ a | .mset _ a | .strmCfg _ _ a | .oprel _ a | .ttQcfg _ a | .ctlwr a _ | .crumbMark a =>
    [a]
  | .loop c _ =>
    [c]
  | .loops _ | .fence _ _ | .endAct _ | .vadd _ _ _ _ _ | .vsub _ _ _ _ _ | .vmul _ _ _ _ _ | .vmin _ _ _ _ _ | .vmax _ _ _ _ _
  | .vabs _ _ _ _ | .vneg _ _ _ _ | .vcmp _ _ _ _ _ | .vsel _ _ _ _ _ | .vand _ _ _ _ _ | .vor _ _ _ _ _ | .vxor _ _ _ _ _
  | .vshl _ _ _ _ _ | .vshr _ _ _ _ _ | .vsra _ _ _ _ _ | .vaddF32Q _ _ _ | .vsubF32Q _ _ _ | .vmulF32Q _ _ _ | .vmaxF32Q _ _ _
  | .vminF32Q _ _ _ | .vaddI32Q _ _ _ | .vsubI32Q _ _ _ | .vmulI32Q _ _ _ | .vandB32Q _ _ _ | .vorB32Q _ _ _ | .vxorB32Q _ _ _
  | .vshlI32Q _ _ _ | .vsraI32Q _ _ _ | .vmovQ _ _ _ | .vnegF32Q _ _ _ | .vabsF32Q _ _ _ | .vfma _ _ _ _ _ _ | .vfms _ _ _ _ _ _
  | .vfnma _ _ _ _ _ _ | .vcvt _ _ _ _ _ | .vquant _ _ _ _ _ | .vdeq _ _ _ _ _ | .vperm _ _ _ _ | .vshuf _ _ _ _
  | .vscan _ _ _ _ | .mand _ _ _ | .mor _ _ _ | .mnot _ _ | .vaddi _ _ _ _ | .vshli _ _ _ _ | .vmovi _ _ _ | .strmEnd _ _
  | .trap _ | .fenceI | .commit | .eret | .halt | .tlbinvAll | .harvest | .dispatch | .messageArrival | .spillReinject | .drain
  | .deliver | .perform | .answer | .postedWriteFlush | .bankReplayRetry | .bankhashRewrite | .escapeChannelEntry | .leaseGrant
  | .leaseRecall | .leaseIdleReturn | .pageWalkComplete | .tlbinvComplete | .faultRewalk | .harvestComplete | .dirtyLogMerge
  | .rankmapComplete | .sfuResult | .yieldExpiry | .cwaittTimeout | .barrierPhaseComplete | .inheritanceNotice | .stealRequest
  | .stealVictimReply | .stealBackoffExpiry | .launchRingRegister | .tailNotice | .launchRingPoll | .launchExpansion
  | .contextSwitch | .haltConfirm | .contextSaveComplete | .contextRestore | .tileTaskIssue | .tileTaskComplete | .pairCommit
  | .pairTimeout | .groupStart | .groupFinish | .matrixCommandStart | .matrixCommandComplete | .copyCommandStart | .copyChunk
  | .copyCommandComplete | .engineFaultStop | .wsBankRefresh | .wsPhaseChange | .sifterCommandComplete | .keyedBatch
  | .topkScore | .topkCfgComplete | .capsuleArrival | .capsuleSpillLanding | .cellArrival | .reductionCellCombine
  | .tokenRowArrival | .portDown | .cellLost | .replayRingRead | .replayDeparture | .hostWrite | .hostRead | .detset
  | .wsReadPhaseRequest | .wsWritePhaseRequest | .censusFreeze | .censusThaw | .park | .ckpt | .checkpointComplete | .cdataRead
  | .cdataWrite | .configRegisterWrite | .powerUpBoot | .attestationQuote | .illegalWord | .routerCommandComplete | .linkRetrain
  | .poweredHour | .supplyDroopEvent =>
    []
  | .ldt _ _ _ a i | .ldtv _ _ a i =>
    [a, i]
  | .msgc _ d a b =>
    [d, a, b, 24, 25, 26, 27, 28, 29]
  | .recv _ =>
    [1, 2, 3, 4, 5, 6, 7]
  | .barArr _ d b | .vext _ d _ b =>
    [d, b]
  | .vpack _ _ _ _ b | .vunpack _ _ _ _ b | .vslide _ _ _ b | .tlbinvCtx b =>
    [b]

/-- The vector registers an instruction reads or writes, but for the one a take returns to. -/
def Instr.vectors : Instr → List Reg
  | .add _ _ _ | .sub _ _ _ | .mul _ _ _ | .mulh _ _ _ | .mulhn _ _ _ | .div _ _ _ | .divn _ _ _ | .rem _ _ _ | .remn _ _ _
  | .and _ _ _ | .or _ _ _ | .xor _ _ _ | .andn _ _ _ | .shl _ _ _ | .shr _ _ _ | .sra _ _ _ | .rol _ _ _ | .min _ _ _
  | .max _ _ _ | .minn _ _ _ | .maxn _ _ _ | .slt _ _ _ | .sltn _ _ _ | .seq _ _ _ | .cmov _ _ _ | .clz _ _ | .ctz _ _
  | .popc _ _ | .addi _ _ _ | .andi _ _ _ | .ori _ _ _ | .xori _ _ _ | .slti _ _ _ | .shli _ _ _ | .shri _ _ _ | .srai _ _ _
  | .roli _ _ _ | .limm _ _ | .limmh _ _ | .bpadd _ _ _ _ | .bpdiff _ _ _ _ | .bcrd _ _ _ | .brel _ _ _ | .bstripe _ _ _
  | .b2byte _ _ | .byte2b _ _ | .bwin _ _ _ | .balign _ _ _ | .bpaddi _ _ _ _ | .fadd _ _ _ _ | .fsub _ _ _ _ | .fmul _ _ _ _
  | .fdiv _ _ _ _ | .fsqrt _ _ _ | .fmin _ _ _ _ | .fmax _ _ _ _ | .fcmpeq _ _ _ _ | .fcmplt _ _ _ _ | .fcmple _ _ _ _
  | .fcvt _ _ _ _ | .fclass _ _ _ | .fma _ _ _ _ _ | .brc _ _ _ _ | .jal _ _ | .jr _ | .jalr _ _ | .loop _ _ | .loops _
  | .ld _ _ _ _ _ | .st _ _ _ _ | .ldAcq _ _ _ _ _ _ | .stRel _ _ _ _ _ | .ldt _ _ _ _ _ | .ldtv _ _ _ _ | .take _ _
  | .takem _ _ _ | .taket _ _ _ | .lsq _ _ | .lsreissue _ | .lsclr _ | .lswait _ | .sfuExp2 _ _ | .sfuLog2 _ _ | .sfuRcp _ _
  | .sfuRsq _ _ | .sfuSin _ _ | .sfuCos _ _ | .sfuTanh _ _ | .sfuErf _ _ | .amoAdd _ _ _ _ _ | .amoAnd _ _ _ _ _
  | .amoOr _ _ _ _ _ | .amoXor _ _ _ _ _ | .amoMin _ _ _ _ _ | .amoMax _ _ _ _ _ | .amoMinn _ _ _ _ _ | .amoMaxn _ _ _ _ _
  | .amoSwap _ _ _ _ _ | .amoCas _ _ _ _ _ | .amoFadd _ _ _ _ | .redAdd _ _ _ _ | .redAnd _ _ _ _ | .redOr _ _ _ _
  | .redXor _ _ _ _ | .redMin _ _ _ _ | .redMax _ _ _ _ | .redMinn _ _ _ _ | .redMaxn _ _ _ _ | .redFadd _ _ _ | .redFmax _ _ _
  | .fence _ _ | .enq _ _ _ _ | .deq _ _ _ _ | .ringstat _ _ _ | .cadd _ _ _ _ | .cmax _ _ _ _ | .cwait _ _ _ _
  | .cwaitt _ _ _ _ | .carm _ _ _ _ | .msg _ _ _ _ | .msgc _ _ _ _ | .spawn _ _ _ | .recv _ | .endAct _ | .yield _ _
  | .rankmap _ _ _ _ | .dqpush _ _ _ | .dqpop _ _ _ | .dqcount _ _ | .barCfg _ _ _ _ | .barArr _ _ _ | .barWait _ _ _ _
  | .barStat _ _ _ _ | .capnew _ _ _ _ | .capfwd _ _ _ | .capend _ _ | .caprd _ _ _ _ | .capins _ _ _ _ | .capdel _ _ _
  | .capset _ _ _ _ | .mand _ _ _ | .mor _ _ _ | .mnot _ _ | .mpopc _ _ | .mfirst _ _ | .mset _ _ | .strmPos _ _ _
  | .opclaim _ _ _ | .oprel _ _ | .opload _ _ _ | .opstat _ _ _ | .ttEnq _ _ _ | .ttGrp _ _ _ | .ttPair _ _ _
  | .ttAppend _ _ _ _ | .ttQcfg _ _ | .accClr _ _ _ | .accScale _ _ _ | .accDrain _ _ _ | .accLoad _ _ _ | .cpy _ _ _ _
  | .cpy2d _ _ _ _ | .cpyCvt _ _ _ _ | .putSig _ _ _ _ | .wsLoad _ _ _ _ | .siftCfg _ _ _ _ | .gath _ _ _ _ | .scat _ _ _ _
  | .siftStat _ _ _ | .kbind _ _ _ _ | .ksend _ _ _ | .kdrain _ _ _ _ | .topkCfg _ _ _ _ | .topkSend _ _ _ _ | .topkRd _ _ _ _
  | .collRed _ _ _ _ | .collBcast _ _ _ _ | .tokSend _ _ _ _ | .fabStat _ _ _ | .trap _ | .ctlrd _ _ | .ctlwr _ _
  | .tlbinvPage _ _ | .tlbinvCtx _ | .crumbMark _ | .fenceI | .commit | .eret | .halt | .tlbinvAll | .harvest | .dispatch
  | .messageArrival | .spillReinject | .drain | .deliver | .perform | .answer | .postedWriteFlush | .bankReplayRetry
  | .bankhashRewrite | .escapeChannelEntry | .leaseGrant | .leaseRecall | .leaseIdleReturn | .pageWalkComplete | .tlbinvComplete
  | .faultRewalk | .harvestComplete | .dirtyLogMerge | .rankmapComplete | .sfuResult | .yieldExpiry | .cwaittTimeout
  | .barrierPhaseComplete | .inheritanceNotice | .stealRequest | .stealVictimReply | .stealBackoffExpiry | .launchRingRegister
  | .tailNotice | .launchRingPoll | .launchExpansion | .contextSwitch | .haltConfirm | .contextSaveComplete | .contextRestore
  | .tileTaskIssue | .tileTaskComplete | .pairCommit | .pairTimeout | .groupStart | .groupFinish | .matrixCommandStart
  | .matrixCommandComplete | .copyCommandStart | .copyChunk | .copyCommandComplete | .engineFaultStop | .wsBankRefresh
  | .wsPhaseChange | .sifterCommandComplete | .keyedBatch | .topkScore | .topkCfgComplete | .capsuleArrival
  | .capsuleSpillLanding | .cellArrival | .reductionCellCombine | .tokenRowArrival | .portDown | .cellLost | .replayRingRead
  | .replayDeparture | .hostWrite | .hostRead | .detset | .wsReadPhaseRequest | .wsWritePhaseRequest | .censusFreeze
  | .censusThaw | .park | .ckpt | .checkpointComplete | .cdataRead | .cdataWrite | .configRegisterWrite | .powerUpBoot
  | .attestationQuote | .illegalWord | .routerCommandComplete | .linkRetrain | .poweredHour | .supplyDroopEvent =>
    []
  | .ldv _ d _ _ | .stv _ d _ _ | .vbcast _ d _ | .vins _ d _ _ | .vmovi _ d _ | .strmCfg _ d _ | .strmEnd _ d =>
    [d]
  | .ldvx _ d _ i | .stvx _ d _ i =>
    [d, i]
  | .vadd _ _ d a b | .vsub _ _ d a b | .vmul _ _ d a b | .vmin _ _ d a b | .vmax _ _ d a b | .vsel _ _ d a b | .vand _ _ d a b
  | .vor _ _ d a b | .vxor _ _ d a b | .vshl _ _ d a b | .vshr _ _ d a b | .vsra _ _ d a b | .vquant _ _ d a b | .vdeq _ _ d a b
  | .vperm _ d a b | .vshuf _ d a b =>
    [a, b, d]
  | .vabs _ _ d a | .vneg _ _ d a | .vcvt _ _ _ d a | .vpack _ _ d a _ | .vunpack _ _ d a _ | .vslide _ d a _ | .vscan _ _ d a
  | .vaddi _ d a _ | .vshli _ d a _ =>
    [a, d]
  | .vcmp _ _ _ a b =>
    [a, b]
  | .vaddF32Q _ d b | .vsubF32Q _ d b | .vmulF32Q _ d b | .vmaxF32Q _ d b | .vminF32Q _ d b | .vaddI32Q _ d b | .vsubI32Q _ d b
  | .vmulI32Q _ d b | .vandB32Q _ d b | .vorB32Q _ d b | .vxorB32Q _ d b | .vshlI32Q _ d b | .vsraI32Q _ d b | .vmovQ _ d b
  | .vnegF32Q _ d b | .vabsF32Q _ d b =>
    [b, d]
  | .vfma _ _ d a b c | .vfms _ _ d a b c | .vfnma _ _ d a b c =>
    [a, b, c, d]
  | .vext _ _ a _ | .vredadd _ _ _ a | .vredmax _ _ _ a | .vredmin _ _ _ a =>
    [a]

/-- How issue treats an instruction: no access; a lane instruction, which accesses memory through bound registers; a read that takes a
table entry, or none when it is tagged; a store; an atomic, ring, counter or deque operation at a commit point; another commit point that
sends or queues something; STRM.CFG; the other commit points; ERET; and what waits for every earlier access. -/
inductive IssueClass where
  | plain | lane | load | tagged | store | atom | cmd | desc | commit | leave | await
  deriving DecidableEq, Repr

/-- The class of an instruction (R16, R46, R54, R156, R232). -/
def Instr.issueClass : Instr → IssueClass
  | .add _ _ _ | .sub _ _ _ | .mul _ _ _ | .mulh _ _ _ | .mulhn _ _ _ | .div _ _ _ | .divn _ _ _ | .rem _ _ _ | .remn _ _ _
  | .and _ _ _ | .or _ _ _ | .xor _ _ _ | .andn _ _ _ | .shl _ _ _ | .shr _ _ _ | .sra _ _ _ | .rol _ _ _ | .min _ _ _
  | .max _ _ _ | .minn _ _ _ | .maxn _ _ _ | .slt _ _ _ | .sltn _ _ _ | .seq _ _ _ | .cmov _ _ _ | .clz _ _ | .ctz _ _
  | .popc _ _ | .addi _ _ _ | .andi _ _ _ | .ori _ _ _ | .xori _ _ _ | .slti _ _ _ | .shli _ _ _ | .shri _ _ _ | .srai _ _ _
  | .roli _ _ _ | .limm _ _ | .limmh _ _ | .bpadd _ _ _ _ | .bpdiff _ _ _ _ | .bcrd _ _ _ | .brel _ _ _ | .bstripe _ _ _
  | .b2byte _ _ | .byte2b _ _ | .bwin _ _ _ | .balign _ _ _ | .bpaddi _ _ _ _ | .fadd _ _ _ _ | .fsub _ _ _ _ | .fmul _ _ _ _
  | .fdiv _ _ _ _ | .fsqrt _ _ _ | .fmin _ _ _ _ | .fmax _ _ _ _ | .fcmpeq _ _ _ _ | .fcmplt _ _ _ _ | .fcmple _ _ _ _
  | .fcvt _ _ _ _ | .fclass _ _ _ | .fma _ _ _ _ _ | .brc _ _ _ _ | .jal _ _ | .jr _ | .jalr _ _ | .loop _ _ | .loops _
  | .take _ _ | .takem _ _ _ | .taket _ _ _ | .lsq _ _ | .lsclr _ | .lswait _ | .sfuExp2 _ _ | .sfuLog2 _ _ | .sfuRcp _ _
  | .sfuRsq _ _ | .sfuSin _ _ | .sfuCos _ _ | .sfuTanh _ _ | .sfuErf _ _ | .yield _ _ | .barStat _ _ _ _ | .capins _ _ _ _
  | .capdel _ _ _ | .capset _ _ _ _ | .mand _ _ _ | .mor _ _ _ | .mnot _ _ | .mpopc _ _ | .mfirst _ _ | .mset _ _ | .strmEnd _ _
  | .strmPos _ _ _ | .opstat _ _ _ | .siftStat _ _ _ | .fabStat _ _ _ | .trap _ | .ctlrd _ _ | .ctlwr _ _ | .crumbMark _ | .halt
  | .harvest | .dispatch | .messageArrival | .spillReinject | .drain | .deliver | .perform | .answer | .postedWriteFlush
  | .bankReplayRetry | .bankhashRewrite | .escapeChannelEntry | .leaseGrant | .leaseRecall | .leaseIdleReturn
  | .pageWalkComplete | .tlbinvComplete | .faultRewalk | .harvestComplete | .dirtyLogMerge | .rankmapComplete | .sfuResult
  | .yieldExpiry | .cwaittTimeout | .barrierPhaseComplete | .inheritanceNotice | .stealRequest | .stealVictimReply
  | .stealBackoffExpiry | .launchRingRegister | .tailNotice | .launchRingPoll | .launchExpansion | .contextSwitch | .haltConfirm
  | .contextSaveComplete | .contextRestore | .tileTaskIssue | .tileTaskComplete | .pairCommit | .pairTimeout | .groupStart
  | .groupFinish | .matrixCommandStart | .matrixCommandComplete | .copyCommandStart | .copyChunk | .copyCommandComplete
  | .engineFaultStop | .wsBankRefresh | .wsPhaseChange | .sifterCommandComplete | .keyedBatch | .topkScore | .topkCfgComplete
  | .capsuleArrival | .capsuleSpillLanding | .cellArrival | .reductionCellCombine | .tokenRowArrival | .portDown | .cellLost
  | .replayRingRead | .replayDeparture | .hostWrite | .hostRead | .detset | .wsReadPhaseRequest | .wsWritePhaseRequest
  | .censusFreeze | .censusThaw | .park | .ckpt | .checkpointComplete | .cdataRead | .cdataWrite | .configRegisterWrite
  | .powerUpBoot | .attestationQuote | .illegalWord | .routerCommandComplete | .linkRetrain | .poweredHour | .supplyDroopEvent => .plain
  | .ld _ _ _ _ _ | .ldv _ _ _ _ | .ldvx _ _ _ _ | .ldAcq _ _ _ _ _ _ | .ringstat _ _ _ | .cwait _ _ _ _ | .cwaitt _ _ _ _
  | .dqcount _ _ | .barWait _ _ _ _ => .load
  | .st _ _ _ _ | .stv _ _ _ _ | .stvx _ _ _ _ | .stRel _ _ _ _ _ | .caprd _ _ _ _ => .store
  | .ldt _ _ _ _ _ | .ldtv _ _ _ _ | .lsreissue _ => .tagged
  | .amoAdd _ _ _ _ _ | .amoAnd _ _ _ _ _ | .amoOr _ _ _ _ _ | .amoXor _ _ _ _ _ | .amoMin _ _ _ _ _ | .amoMax _ _ _ _ _
  | .amoMinn _ _ _ _ _ | .amoMaxn _ _ _ _ _ | .amoSwap _ _ _ _ _ | .amoCas _ _ _ _ _ | .amoFadd _ _ _ _ | .redAdd _ _ _ _
  | .redAnd _ _ _ _ | .redOr _ _ _ _ | .redXor _ _ _ _ | .redMin _ _ _ _ | .redMax _ _ _ _ | .redMinn _ _ _ _ | .redMaxn _ _ _ _
  | .redFadd _ _ _ | .redFmax _ _ _ | .enq _ _ _ _ | .deq _ _ _ _ | .cadd _ _ _ _ | .cmax _ _ _ _ | .carm _ _ _ _
  | .dqpush _ _ _ | .dqpop _ _ _ => .atom
  | .fence k _ => if k = .ll ∨ k = .ls then .plain else .commit
  | .msg _ _ _ _ | .msgc _ _ _ _ | .spawn _ _ _ | .barCfg _ _ _ _ | .barArr _ _ _ | .capnew _ _ _ _ | .capfwd _ _ _
  | .capend _ _ | .opclaim _ _ _ | .oprel _ _ | .opload _ _ _ | .ttEnq _ _ _ | .ttGrp _ _ _ | .ttPair _ _ _ | .ttAppend _ _ _ _
  | .ttQcfg _ _ | .accClr _ _ _ | .accScale _ _ _ | .accDrain _ _ _ | .accLoad _ _ _ | .cpy _ _ _ _ | .cpy2d _ _ _ _
  | .cpyCvt _ _ _ _ | .putSig _ _ _ _ | .wsLoad _ _ _ _ | .siftCfg _ _ _ _ | .gath _ _ _ _ | .scat _ _ _ _ | .kbind _ _ _ _
  | .ksend _ _ _ | .kdrain _ _ _ _ | .topkCfg _ _ _ _ | .topkSend _ _ _ _ | .topkRd _ _ _ _ | .collRed _ _ _ _
  | .collBcast _ _ _ _ | .tokSend _ _ _ _ => .cmd
  | .recv _ | .endAct _ | .fenceI | .commit => .commit
  | .rankmap _ _ _ _ | .tlbinvPage _ _ | .tlbinvCtx _ | .tlbinvAll => .await
  | .vadd _ _ _ _ _ | .vsub _ _ _ _ _ | .vmul _ _ _ _ _ | .vmin _ _ _ _ _ | .vmax _ _ _ _ _ | .vabs _ _ _ _ | .vneg _ _ _ _
  | .vcmp _ _ _ _ _ | .vsel _ _ _ _ _ | .vand _ _ _ _ _ | .vor _ _ _ _ _ | .vxor _ _ _ _ _ | .vshl _ _ _ _ _ | .vshr _ _ _ _ _
  | .vsra _ _ _ _ _ | .vaddF32Q _ _ _ | .vsubF32Q _ _ _ | .vmulF32Q _ _ _ | .vmaxF32Q _ _ _ | .vminF32Q _ _ _ | .vaddI32Q _ _ _
  | .vsubI32Q _ _ _ | .vmulI32Q _ _ _ | .vandB32Q _ _ _ | .vorB32Q _ _ _ | .vxorB32Q _ _ _ | .vshlI32Q _ _ _ | .vsraI32Q _ _ _
  | .vmovQ _ _ _ | .vnegF32Q _ _ _ | .vabsF32Q _ _ _ | .vfma _ _ _ _ _ _ | .vfms _ _ _ _ _ _ | .vfnma _ _ _ _ _ _
  | .vcvt _ _ _ _ _ | .vpack _ _ _ _ _ | .vunpack _ _ _ _ _ | .vquant _ _ _ _ _ | .vdeq _ _ _ _ _ | .vperm _ _ _ _
  | .vbcast _ _ _ | .vext _ _ _ _ | .vins _ _ _ _ | .vslide _ _ _ _ | .vshuf _ _ _ _ | .vredadd _ _ _ _ | .vredmax _ _ _ _
  | .vredmin _ _ _ _ | .vscan _ _ _ _ | .vaddi _ _ _ _ | .vshli _ _ _ _ | .vmovi _ _ _ => .lane
  | .strmCfg _ _ _ => .desc
  | .eret => .leave

/-- Whether an instruction is a commit point (R16). -/
def IssueClass.commits : IssueClass → Bool
  | .atom | .cmd | .commit => true
  | .plain | .lane | .load | .tagged | .store | .desc | .leave | .await => false

/-- The destination of the take a strand would make now, when its answer is there (R174). -/
def State.takeDest (s : State) : Instr → Option (Bool × Reg)
  | .take d _ => (s.me.firstArrived (BitVec.allOnes 64)).map fun t => (s.me.slots[t.val].kind == .vector, d)
  | .takem d _ b => (s.me.firstArrived (s.rd b)).map fun t => (s.me.slots[t.val].kind == .vector, d)
  | .taket d _ b => (s.me.firstArrived (1 <<< ((s.rd b).toNat % 64))).map fun t => (s.me.slots[t.val].kind == .vector, d)
  | _ => none

/-- Whether an instruction of the running strand reads or writes a register. -/
def State.usesReg (s : State) (i : Instr) (vec : Bool) (r : Reg) : Bool :=
  (if vec then (Instr.vectors i).contains r else (Instr.scalars i).contains r) || s.takeDest i == some (vec, r)

/-- The register a synchronous load, vector load, atomic or status answer still due will write (R49, R195) (entry 21, DEDUCED). -/
def Access.owes (a : Access) : Option (Bool × Reg) :=
  if a.written then none else
  match a.dest with
  | .sreg d _ _ => some (false, d)
  | .vreg d _ => some (true, d)
  | .amo d _ _ => some (false, d)
  | .stat d | .count d => some (false, d)
  | .ack | .slot _ _ | .wait _ _ | .got _ => none

/-- The address ranges a load or store covers, for R55. -/
def State.ranges (s : State) : Instr → List (Word × Nat)
  | .ld w _ _ a o => [(s.ea a o w.bits, w.bits)]
  | .st w _ a o => [(s.ea a o w.bits, w.bits)]
  | .ldAcq w _ _ _ a o => [(s.ea a o w.bits, w.bits)]
  | .stRel w _ _ a o => [(s.ea a o w.bits, w.bits)]
  | .ldv _ _ a o => [(s.ea a o 1024, 1024)]
  | .stv _ _ a o => [(s.ea a o 1024, 1024)]
  | .ldvx w _ a i => (s.indexed w.bits a i).map fun ea => (ea, w.bits)
  | .stvx w _ a i => (s.indexed w.bits a i).map fun ea => (ea, w.bits)
  | .ldt w _ _ a i => [(s.rd a + s.rd i, w.bits)]
  | .ldtv _ _ a i => [(s.rd a + s.rd i, 1024)]
  | .caprd _ _ a b => let n := s.caprdBits (s.rd a).toNat; if n = 0 then [] else [(s.rd b, n)]
  | _ => []

/-- The bits of local memory that n bits at a window address cover, run by run. -/
def State.winRuns (s : State) (a n : Nat) : List (Nat × Nat) :=
  (gransOf a n).filterMap fun g =>
    let lo := max a g
    (s.winDecode s.ci (ofN g)).map fun w => (w.phys + (lo - g), min (g + 64) (a + n) - lo)

/-- Whether a range overlaps one an engine of the core is writing (R55): only window addresses reach local memory. -/
def State.rangeHeld (s : State) (x : Word × Nat) : Bool := wbit x.1 63 && s.scored s.ci (s.winRuns x.1.toNat x.2)

/-- Whether an instruction pops a stream, or pushes one (R254). -/
def State.streams (s : State) (write : Bool) (i : Instr) : Bool :=
  (Instr.vectors i).any fun r => match s.boundStream r with | some x => x.isWrite == write | none => false

/-- Whether an instruction accesses memory, or sends or queues something (R53, R54). -/
def State.accesses (s : State) (i : Instr) : Bool :=
  match Instr.issueClass i with
  | .load | .tagged | .store | .atom | .cmd | .desc => true
  | .lane => (Instr.vectors i).any s.isBound
  | .plain | .commit | .leave | .await => false

/-- Whether an instruction needs an entry of the outstanding table as it issues (R46, R56). The loads of a descriptor or a pop, and the add of
TT.APPEND, look for their own. -/
def needsEntry (i : Instr) : Bool :=
  match i with
  | .topkRd _ _ _ _ => true
  | _ => match Instr.issueClass i with
    | .load | .atom => true
    | .plain | .lane | .tagged | .store | .cmd | .desc | .commit | .leave | .await => false

/-- Whether fences let an access issue (R54): a store is held at issue by ALL alone, every other access by LL, SL and ALL (entry 23, DEDUCED). -/
def State.fencesLet (s : State) (i : Instr) : Bool :=
  let stores := s.me.fences.all fun f => f.kind != .all || f.over s.pkg s.me
  match Instr.issueClass i with
  | .store => stores
  | .lane => (!s.streams true i || stores) && (!s.streams false i || s.me.loadsLet s.pkg)
  | .plain | .load | .tagged | .atom | .cmd | .desc | .commit | .leave | .await => s.me.loadsLet s.pkg

/-- Whether the instruction at pc waits for an answer to a load of its own, or for a walk (R49, R113). -/
def State.ownDue (s : State) : Bool :=
  (s.me.out.any fun a => !a.written && (match a.dest with | .got _ => true | _ => false)) ||
  (s.quad (quadOf s.ci)).walks.any fun w => match w.who with | .strand a _ => a == s.me.act | .tagged _ _ _ _ _ | .unit _ => false

/-- Whether issue of an instruction of the running strand is held back (R49, R50, R53 to R56, R156, R232); after an acquire of peer memory too,
which R48 makes multi-copy atomic, against outcomes of the table of R63 below `.pod` (entry 70, DESIGN CHOICE). -/
def State.heldBack (s : State) (i : Instr) : Bool :=
  let t := s.me
  let k := Instr.issueClass i
  (t.out.any fun a => match a.owes with | some (v, r) => s.usesReg i v r | none => false) ||
  ((k.commits || k == .leave) && t.loadsDue) ||
  (s.accesses i && ((t.out.any fun a => a.acquire && !a.answered) || !s.fencesLet i || (s.ranges i).any s.rangeHeld)) ||
  (needsEntry i && decide (t.entries ≥ 32)) ||
  (k == .await && !t.allBefore s.pkg .pkg t.seq)

/-- The destination with uncorrectable data that an instruction would have waited for (R148): its place in the strand's list (entry 21, DEDUCED). -/
def State.poisoned (s : State) (i : Instr) : Option Nat :=
  let k := Instr.issueClass i
  listFind (fun (p : Poison) => s.usesReg i p.vec p.d || k.commits || k == .leave) s.me.poison

/-- The MEMERR trap of R148: the load's address; each is reported once. -/
def State.poisonTrap (s : State) (k : Nat) : Out :=
  let a := match s.me.poison[k]? with | some p => p.addr | none => 0
  .next ((s.modMe fun t => { t with poison := listDel t.poison k }).trap cMEMERR a)

/-! ## Fetch -/

/-- One halfword of code at an address: as this strand has fetched it already (R199), or read through its page (R96 step 2) (entry 22, DEDUCED). -/
def State.fetchHalf (s : State) (a : Word) : Except Stop Nat × State :=
  if wbit a 63 then (.error (.trap cPROT 0 a), s) else
  match s.resolve s.ci s.user .fetch a 16 with
  | (.error e, s) => (.error e, s)
  | (.ok ls, s) =>
    match s.me.fetched.find? fun h => h.1 == a with
    | some h => (.ok h.2, s)
    | none =>
      match ls.head?.bind fun l => s.peek s.ci l.phys with
      | none => (.error (.trap cMEMERR 0 a), s)
      | some w =>
        let h := wfld w (a.toNat % 64) 16
        (.ok h, s.modMe fun t => { t with fetched := (a, h) :: t.fetched })

/-- The halfwords of the instruction at pc (R86, R96 steps 1 and 2); the second is 0 for a 16-bit instruction. -/
def State.fetch (s : State) : Except Stop (Nat × Nat) × State :=
  let pc := s.me.pc
  if !aligned pc 16 then (.error (.trap cALIGN 0 pc), s) else
  match s.fetchHalf pc with
  | (.error e, s) => (.error e, s)
  | (.ok h0, s) =>
    if h0 % 2 = 0 then (.ok (h0, 0), s) else
    match s.fetchHalf (pc + 16) with
    | (.error e, s) => (.error e, s)
    | (.ok h1, s) => (.ok (h0, h1), s)

/-- The instruction at pc as the strand would issue it: a stop of the fetch; a word that is no instruction (R96 step 3); or an
instruction. -/
inductive AtPc where
  | stop (x : Stop)
  | word (w : Nat)
  | instr (i : Instr)
  deriving DecidableEq, Repr

/-- Fetch and decode at pc. -/
def State.fetchInstr (s : State) : AtPc × State :=
  match s.fetch with
  | (.error e, s) => (.stop e, s)
  | (.ok (h0, h1), s) =>
    match decodeHalves h0 h1 with
    | .ok (i, _) => (.instr i, s)
    | .error _ => (.word (h0 + 65536 * h1), s)

/-! ## Ready strands (R109) -/

/-- Whether a word goes through the lane port: a Q word, or a major from 0x26 to 0x2C. -/
def onLane (w : Nat) : Bool := w % 2 == 0 || (decide (0x26 ≤ w / 2 % 64) && decide (w / 2 % 64 ≤ 0x2C))

/-- Whether an instruction goes through the lane port. -/
def lanePort (i : Instr) : Bool :=
  match encodeWord i with
  | some (_, w) => onLane w
  | none => false

/-- A strand that issues through a port becomes the most recent of its core. -/
def State.issuedBy (s : State) (sid : Nat) (lane : Bool) : State :=
  s.modCore (coreOf sid) fun k => { k with order := k.order.filter (· != sid % 8) ++ [sid % 8], lastPort := some (s.clock, sid % 8, lane) }

/-- Whether a strand may issue as far as its state goes: bound, in STATE 1, on a die that runs (R109, R121, R389). -/
def State.mayIssue (s : State) (sid : Nat) : Bool :=
  let t := s.strand sid
  t.bound && t.status.state == .ready && s.dieRuns (dieOf (coreOf sid))

/-- The port a strand's next instruction is ready at: true for the lane port. None where the strand is not ready, or stands at a wait. A fetch
that stops leaves no word to tell: it takes the other port (entry 74, DESIGN CHOICE). -/
def State.nextPort (s : State) (sid : Nat) : Option Bool :=
  let s := { s with cur := sid }
  if !s.mayIssue sid || s.me.block.isSome || s.ownDue then none
  else match s.fetchInstr with
    | (.stop .wait, _) => none
    | (.stop _, _) => some false
    | (.word w, _) => some (onLane w)
    | (.instr i, s) => if s.heldBack i then none else some (lanePort i)

/-- Whether a strand is the one its port picks: of its core's strands that are ready there, the one that issued least recently. -/
def State.picked (s : State) (sid : Nat) : Bool :=
  match s.nextPort sid with
  | none => true
  | some p =>
    let c := coreOf sid
    (s.core c).order.find? (fun k => s.nextPort (c * 8 + k) == some p) == some (sid % 8)

/-- Whether a strand may issue in the cycle of the issue before it on its core: another strand did, through the other port. -/
def State.mayAlso (s : State) (sid : Nat) : Bool :=
  match (s.core (coreOf sid)).lastPort, s.nextPort sid with
  | some (t, k, lane), some p => t == s.clock && k != sid % 8 && p != lane && s.picked sid
  | _, _ => false

end Sys2Proof.Machine
end

