-- ==== Sys2Proof/Machine/Schedule.lean ====
section
/-! DEFINITION. Which step the machine takes next where the outside gives none (R47: it may take any step that is enabled; entry 1, DESIGN CHOICE): the
events that could happen, the strands that could issue, and a fixed rule among them. -/

namespace Sys2Proof.Machine

/-- An event that could happen, with its operands. -/
abbrev Due := Instr × Pick

/-- Operands: up to three numbers. -/
def pickOf (a b c : Nat) : Pick := { Pick.init with a := a, b := b, c := c }

/-- Event i for each number of a list. -/
def eachOf (i : Instr) (ns : List Nat) : List Due := ns.map fun n => (i, pickOf n 0 0)

/-- Event i of a unit for each index below n. -/
def eachIndex (i : Instr) (a n : Nat) : List Due := (upFrom 0 n).map fun k => (i, pickOf a k 0)

/-- The home of a number. -/
def homeOfKey (k : Nat) : HomeId :=
  let n := k / 8
  match k % 8 with
  | 0 => .core n
  | 1 => .slice (n / 16) (n % 16)
  | 2 => .bank (n / 32) (n % 32)
  | 3 => .bridge n
  | _ => .quadUnit n

/-- The events of the k-th packet of the fabric (R47, R57, R58, R206, R208, R212, R213, R338, R342, R353, R370, R377). -/
def packetEvents (k : Nat) (p : Packet) : List Due :=
  let at_ := fun (i : Instr) => (i, pickOf k 0 0)
  (match p.body with
   | .req _ => [at_ .deliver]
   | .resp _ _ _ _ | .unitResp _ _ _ _ _ => [at_ .answer]
   | .message _ | .copies _ _ | .deque _ | .stealReply _ | .signal _ _ => [at_ .messageArrival]
   | .stealReq _ _ => [at_ .stealVictimReply]
   | .inherit _ _ _ => [at_ .inheritanceNotice]
   | .tail _ _ => [at_ .tailNotice]
   | .capsule _ _ _ => [at_ .capsuleArrival]
   | .keyed _ => [at_ .keyedBatch]
   | .score _ => [at_ .topkScore]
   | .tokenRow r => [(.tokenRowArrival, { pickOf k 0 0 with w := r.header })]
   | .cell _ => [at_ .cellArrival]) ++ [at_ .escapeChannelEntry]

/-- The drains of an activation (R47). -/
def drainEvents (c : Nat) (t : Strand) : List Due := (upFrom 0 t.drain.length).map fun k => (.drain, pickOf c t.act k)

/-- The events of an engine context e of a core (R315, R316, R318, R322). -/
def engineEvents (c e : Nat) (x : EngCtx) : List Due :=
  let ks := upFrom 0 x.run.length
  let copy := if e < 4 then
      (.copyCommandStart, pickOf c e 0) :: (ks.map fun k => [(Instr.copyChunk, pickOf c e k), (Instr.copyCommandComplete, pickOf c e k)]).flatten
    else if e = 6 then
      ((upFrom 0 (x.queue ++ x.run).length).map fun k => (.reductionCellCombine, pickOf c k 0)) ++ (x.run ++ x.queue).map fun y => (.tokenRowArrival, { pickOf c 0 0 with v := ofN y.n })
    else []
  copy ++ ks.map fun k => (.engineFaultStop, pickOf c e k)

/-- An event whose flag says that it is another kind of step. -/
def flagged (i : Instr) (a : Nat) : Due := (i, { pickOf a 0 0 with flag := true })

/-- The events of a core; it asks for work only while some core has a record in its deque. -/
def State.coreEvents (s : State) (c : Nat) : List Due :=
  let k := s.core c
  (if k.keyed.isEmpty then [] else [flagged .keyedBatch c]) ++ (if k.asks.isEmpty then [] else [flagged .stealVictimReply c]) ++
  eachOf .dispatch [c] ++ eachOf .spillReinject [c] ++ eachOf .capsuleSpillLanding [c] ++
  ((strandsOf c).map fun sid => drainEvents c (s.strand sid)).flatten ++ ((k.images ++ k.ended).map (drainEvents c)).flatten ++
  eachOf .yieldExpiry (strandsOf c) ++ eachOf .cwaittTimeout (strandsOf c) ++
  eachIndex .bankReplayRetry c (s.home (.core (s.gcore c))).replay.length ++ eachOf .bankhashRewrite [c] ++ eachOf .dirtyLogMerge [c] ++
  eachOf .matrixCommandStart [c] ++ eachIndex .matrixCommandComplete c k.mrun.length ++
  ((upFrom 0 k.mrun.length).map fun j => (.engineFaultStop, pickOf c 7 j)) ++
  (k.engs.map fun e => engineEvents c e.1 e.2).flatten ++
  eachOf .sifterCommandComplete [c] ++ eachOf .routerCommandComplete [c] ++ eachOf .topkCfgComplete [c] ++
  eachOf .stealBackoffExpiry [c] ++ (if s.cores.any fun e => !e.2.deque.isEmpty then eachOf .stealRequest [c] else [])

/-- The events of a quad. -/
def State.quadEvents (s : State) (q : Nat) : List Due :=
  let k := s.quad q
  let lines := (s.home (.quadUnit (s.pkg * 512 + q))).arrivals.map fun r => lineOf r.gran
  eachIndex .pageWalkComplete q k.walks.length ++ eachIndex .faultRewalk q k.faults.length ++ eachIndex .sfuResult q k.sfu.length ++
  (lines.map fun l => (.leaseGrant, pickOf q l 0)) ++
  (k.leases.map fun l => [(Instr.leaseRecall, pickOf q l.line 0), (Instr.leaseIdleReturn, pickOf q l.line 0)]).flatten ++
  eachOf .tileTaskIssue [q] ++ eachIndex .tileTaskComplete q k.arrays.length ++
  eachIndex .pairCommit q k.halves.length ++ eachIndex .pairTimeout q k.halves.length ++
  (k.tq.map fun e =>
    let n := match e.2 with | .walker w :: _ => w.runs.length + 1 | _ => 0
    ((upFrom 0 n).map fun i => [(Instr.groupStart, pickOf q e.1 i), (Instr.groupFinish, pickOf q e.1 i)]).flatten).flatten

/-- The events of a die. -/
def State.dieEvents (s : State) (d : Nat) : List Due :=
  let k := s.die d
  eachIndex .postedWriteFlush d k.posted.length ++ (k.rings.map fun e => (.launchRingPoll, pickOf d e.1 0)) ++
  eachOf .launchExpansion [d] ++ eachOf .haltConfirm [d] ++ eachOf .contextSaveComplete [d] ++ eachOf .contextRestore [d] ++
  eachOf .wsPhaseChange [d] ++ eachOf .replayRingRead [d] ++ (k.waitFrom.map fun e => (.replayDeparture, pickOf d e.1 0)) ++
  (if k.asked.isEmpty then [] else [flagged .contextSwitch d]) ++ (if k.frozen = 1 then [flagged .censusFreeze d] else []) ++
  (if k.hostq.isEmpty then [] else eachOf .hostWrite [d])

/-- The steps of a home: the oldest request it may perform, and each operation in progress (R193, R203). -/
def State.homeEvents (s : State) (key : Nat) (x : Home) : List Due :=
  let h := homeOfKey key
  let n := match h with | .bridge g => (s.die (g % 8)).locks.length | _ => x.holds.length
  (upFrom 0 (n + 1)).map fun k => (.perform, { pickOf 0 k 0 with home := h })

/-- The events that could happen of themselves. -/
def State.events (s : State) : List Due :=
  ((s.flight.zip (upFrom 0 s.flight.length)).map fun p => packetEvents p.2 p.1).flatten ++
  (s.homes.map fun e => s.homeEvents e.1 e.2).flatten ++
  (s.cores.map fun e => s.coreEvents e.1).flatten ++ (s.quads.map fun e => s.quadEvents e.1).flatten ++
  (s.dies.map fun e => s.dieEvents e.1).flatten ++
  (s.bars.map fun e => (.barrierPhaseComplete, pickOf e.1 0 0)) ++
  ((upFrom 0 s.reasm.length).map fun k => (.cellArrival, { pickOf k 0 0 with flag := true, v := 1 })) ++
  ((upFrom 0 s.pendings.length).map fun k =>
    [(Instr.tlbinvComplete, pickOf k 0 0), (Instr.harvestComplete, pickOf k 0 0), (Instr.rankmapComplete, pickOf k 0 0)]).flatten ++
  (if s.ckpt.isSome then [(.checkpointComplete, Pick.init)] else [])

/-- An event with its operands in place. -/
def State.withPick (s : State) (p : Pick) : State := { s with pick := p }

/-- Whether an event would change the machine. -/
def State.changes (s : State) (e : Due) : Bool :=
  match exec e.1 (s.withPick e.2) with
  | .next t => t != s.withPick e.2
  | .fault _ => false
  | .refused _ => false

/-- A list from its n-th place around to it. -/
def turned {α : Type} (l : List α) (n : Nat) : List α := l.drop (n % max l.length 1) ++ l.take (n % max l.length 1)

/-- The event the machine takes: the first that changes it, from a place that moves with the clock. -/
def State.nextEvent (s : State) : Option Due := (turned s.events (s.clock / 2)).find? s.changes

/-! ## Issue (R47, R109) -/

/-- The issue of a strand's next instruction, or of the wait it stands at. None where it may not issue now. A fetch that finds no
translation asks for a walk (R113). -/
def State.issueOf (s : State) (sid : Nat) : Option Out :=
  if !s.mayIssue sid then none else
  let s := { s with cur := sid }
  match s.me.block with
  | some (.ending sc) => if s.endReady sid sc then some (exec (.endAct sc) (s.issuedBy sid false)) else none
  | some .fence => if s.me.storesDone s.pkg then some (exec .fenceI (s.issuedBy sid false)) else none
  | some _ => none
  | none =>
    if s.ownDue then none else
    match s.fetchInstr with
    | (.stop .wait, s) => some (.next s)
    | (.stop x, s) => some (.next ((s.issuedBy sid false).stop x))
    | (.word w, s) => some (exec .illegalWord ((s.issuedBy sid (onLane w)).withPick { Pick.init with w := ofN w }))
    | (.instr i, s) =>
      if s.heldBack i then none
      else match s.poisoned i with
        | some k => some ((s.issuedBy sid (lanePort i)).poisonTrap k)
        | none => some (exec i (s.issuedBy sid (lanePort i)))

/-- The strands of the listed cores, each core's in the order of its last issue (R109). -/
def State.strandOrder (s : State) : List Nat :=
  ((turned s.cores (s.clock / 2)).map fun e => e.2.order.map fun k => e.1 * 8 + k).flatten

/-- The issue the machine takes: the first strand that may. -/
def State.nextIssue (s : State) : Option Out := s.strandOrder.findSome? s.issueOf

/-! ## One step -/

/-- Whether an event may be given from outside: every event of the table but ILLEGAL_WORD, which belongs to issue. -/
def Instr.isEvent (i : Instr) : Bool := (encodeWord i).isNone && i != .illegalWord

/-- What the outside gives is done: an event, or the issue of the strand that its port picks; where it cannot happen, nothing changes. -/
def State.act (s : State) (x : Action) : Out :=
  match x with
  | .event i p => if Instr.isEvent i then exec i (s.withPick p) else .next s
  | .issue sid => (if s.picked sid then s.issueOf sid else none).getD (.next s)
  | .also sid => (if s.mayAlso sid then s.issueOf sid else none).getD (.next s)

/-- The machine's own next step: events and issue take turns at going first. -/
def State.own (s : State) : Out :=
  let ev := s.nextEvent.map fun e => exec e.1 (s.withPick e.2)
  if s.clock % 2 = 0 then (ev <|> s.nextIssue).getD (.next s) else (s.nextIssue <|> ev).getD (.next s)

end Sys2Proof.Machine
end

