-- ==== Sys2Proof/Machine/Step.lean ====
section
/-! DEFINITION. One step of the machine (R47), and a state that runs a given word next. -/

namespace Sys2Proof.Machine

/-- A step: a die cycle passes (entry 3, DESIGN CHOICE), and the machine does what the outside gives it next, or takes a step of its own; an
issue through the second port is in the cycle of the step before (R109). -/
def step (s : State) : Host.Outcome State Fault Refusal :=
  match s.agenda with
  | .also sid :: rest => State.act { s with agenda := rest } (.also sid)
  | x :: rest => State.act { s with clock := s.clock + 1, agenda := rest } x
  | [] => State.own { s with clock := s.clock + 1 }

/-- The HBM place withFetchWord puts code at: the first page of die 0. -/
def fetchPlace (s : State) : Nat := hbmAddr (s.gdie 0) 0

/-- Strand 0 of core 0 runs the instruction of the low nbits of w next: it is bound and ready at address 0, whose page the
instruction TLB maps with X to the place the code stands at (entry 14, DESIGN CHOICE). -/
def State.withFetchWord (s : State) (nbits w : Nat) : State :=
  let s := { s with mem := s.mem.writeGran (fetchPlace s) (ofN (w % 2 ^ nbits)), agenda := [.issue 0], acts := s.acts + 1 }
  let pte : Word := ofN (2 ^ 63 + 2 ^ 61 + 2 ^ 60 + 2 ^ 59 + 2 ^ 56 + 2 ^ 54)
  let s := s.modCore 0 fun k => { k with itlb := [⟨s.ctxOf 0, 4, 0, pte, false⟩], order := 0 :: k.order.filter (· != 0) }
  let s := s.modDie 0 fun k => { k with frozen := 0, switch := none }
  s.modStrand 0 fun t =>
    { t with bound := true, pc := 0, status := { t.status with state := .ready }, block := none, fetched := [],
             out := [], fences := [], poison := [], got := [], walked := [], gate := false, wsGate := [], act := s.acts - 1 }

end Sys2Proof.Machine
end

