-- ==== Sys2Proof/Safety.lean ====
section
/-! DEFINITION. The terms the claims use: the invariant, the states that results leave, and the conditions under which an instruction has
its own effect. -/

namespace Sys2Proof.Machine

/-! ## The invariant -/

/-- Memory keeps its canonical form. -/
def State.Inv (s : State) : Prop := s.mem.wf = true

/-! ## What results leave -/

/-- A scalar result (R127): register d, the pc and instret of the running strand; nothing else of the machine, but that what the strand keeps
for the instruction at pc is dropped. -/
def State.wrote (s : State) (d : Reg) (x : Word) : State :=
  s.modMe fun t => { t.clearInstr with regs := t.regs.wr d x, pc := t.pc + 32, instret := t.instret + 1 }

/-- A vector result of an instruction of n bits. -/
def State.wroteVec (s : State) (d : Reg) (x : Vec) (n : Nat) : State :=
  s.modMe fun t => { t.clearInstr with regs := t.regs.wrV d x, pc := t.pc + ofN n, instret := t.instret + 1 }

/-- A mask result. -/
def State.wroteMask (s : State) (d : MReg) (x : Mask) : State :=
  s.modMe fun t => { t.clearInstr with regs := t.regs.wrM d x, pc := t.pc + 32, instret := t.instret + 1 }

/-- The strand goes on at a pc. -/
def State.wentTo (s : State) (pc : Word) : State := s.modMe fun t => { t.clearInstr with pc := pc, instret := t.instret + 1 }

/-- The strand goes on past an instruction of 32 bits. -/
def State.wentOn (s : State) : State := s.wentTo (s.me.pc + 32)

/-! ## What lane instructions leave (R248, R249) -/

/-- Element e of width w of a vector register. -/
def State.el (s : State) (r : Reg) (w e : Nat) : Nat := elemOf (s.rdV r).toNat w e

/-- None of the registers is bound to a stream. -/
def State.unbound (s : State) (rs : List Reg) : Prop := ∀ r ∈ rs, s.isBound r = false

/-- Which bits a set of flags has: those that an active element among the first k raises. -/
def raisedBy (fl k : Nat) (act : Nat → Bool) (f : Nat → Nat) : Prop :=
  ∀ b, fl.testBit b = true ↔ ∃ e < k, act e = true ∧ (f e).testBit b = true

/-- t is s after an instruction of n bits that gives the first k elements of width w of vector register d the value of f where they are
active, keeps the others, raises the flags of f, and changes nothing else but pc and instret. -/
def State.lanes (s t : State) (d : Reg) (n w k : Nat) (act : Nat → Bool) (f : Nat → Nat × Nat) : Prop :=
  ∃ (v : Vec) (fl : Nat), t = (s.addFlags fl).wroteVec d v n ∧
    (∀ e < k, elemOf v.toNat w e = if act e then (f e).1 % 2 ^ w else s.el d w e) ∧
    (∀ j < 1024, w * k ≤ j → v.getLsbD j = (s.rdV d).getLsbD j) ∧ raisedBy fl k act fun e => (f e).2

/-- The same for 32 fields of w bits from bit lo of a container (R266, R267). -/
def State.fields (s t : State) (d : Reg) (w lo : Nat) (act : Nat → Bool) (f : Nat → Nat × Nat) : Prop :=
  ∃ (v : Vec) (fl : Nat), t = (s.addFlags fl).wroteVec d v 32 ∧
    (∀ e < 32, nfld v.toNat (lo + e * w) w = if act e then (f e).1 % 2 ^ w else nfld (s.rdV d).toNat (lo + e * w) w) ∧
    (∀ j < 1024, j < lo ∨ lo + 32 * w ≤ j → v.getLsbD j = (s.rdV d).getLsbD j) ∧ raisedBy fl 32 act fun e => (f e).2

/-- The elements of width w that bit j of a mask stands for (R249). -/
def maskCovers (w j e : Nat) : Prop := if w = 64 then e = j / 2 else e * w / 32 = j

/-! ## When an instruction has its own effect -/

/-- No granule of the region's stores, or of those listed, is watched (R149, R197). -/
def State.unwatched (s : State) (own : List (Nat × Word)) : Prop := lowestWatched s s.ci (s.me.regionGrans ++ own) = none

/-- The state after the commit of the region (R17). -/
def State.committed (s : State) : State := s.modMe Strand.commit

/-- Every earlier access of the strand is performed at a scope, and fences let it go on (R52, R54). -/
def State.released (s : State) (sc : Scope) : Prop :=
  (s.me.allBefore s.pkg sc s.me.seq && s.me.storesLet s.pkg s.me.seq) = true

/-- The strand has loaded n words at an address for its instruction, and they are ws (R47, R49). -/
def State.loaded (s : State) (a : Word) (n : Nat) (ws : List Word) : Prop :=
  ∃ v, s.me.gotten a.toNat (64 * n) = some (some v) ∧ ws = splitWords v n

/-- Checks pass, and leave t. -/
def Pass (f : (State → Out) → Out) (t : State) : Prop := ∀ k, f k = k t

/-- No core records choices or replays them (R379). -/
def State.unlogged (s : State) : Prop := ∀ c, (s.core c).det = 0

/-! ## Accesses of a strand -/

/-- An access that reads the granules of cuts for a destination (R38, R39, R47). -/
def Access.reads (a : Access) (addr : Word) (cs : List Cut) (d : Dest) : Prop :=
  a.addr = addr ∧ a.dest = d ∧ a.isLoad = true ∧ a.isStore = false ∧ a.rel = none ∧
  a.parts.map (fun p => (p.gran, p.cover)) = cs.map (fun x => (x.loc.phys, x.cover)) ∧ ∀ p ∈ a.parts, p.op = .read ∧ p.sent = false

/-- The part, and the bit of its unit, that bit j of an element comes from. -/
def pieceBit : List Piece → Nat → Option (Nat × Nat)
  | [], _ => none
  | x :: rest, j => if j < x.n then some (x.part, x.lo + j) else pieceBit rest (j - x.n)

/-- Element k of an access takes the n bits at an address: each from its own place in the unit of the cut it lies in (R36, R41). -/
def Access.takes (a : Access) (k addr n : Nat) (cs : List Cut) : Prop :=
  ∃ ps, a.elems[k]? = some ps ∧ ∀ j < n, ∀ x ∈ cs, x.addr / 64 * 64 + x.lo ≤ addr + j → addr + j < x.addr / 64 * 64 + x.lo + x.n →
    ∃ i p, pieceBit ps j = some (i, (addr + j) % 64) ∧ a.parts[i]? = some p ∧ p.gran = x.loc.phys

/-- An access with one request to one granule (R47, R52, R54). -/
def Access.asks (a : Access) (gran : Nat) (op : ReqOp) (d : Dest) : Prop :=
  a.dest = d ∧ a.isLoad = true ∧ a.isStore = true ∧ ∃ p, a.parts = [p] ∧ p.gran = gran ∧ p.op = op ∧ p.sent = false

/-- t is s after an instruction at a commit point that commits and issues the access. -/
def State.commitsWith (s t : State) (a : Access) : Prop := t = ((s.committed.issue a).retire 32).modMe Strand.checkpoint

/-- Bit k of memory is stored as b by an entry of a list. -/
def storedBit (es : List BufEntry) (k : Nat) (b : Bool) : Prop :=
  ∃ e ∈ es, e.addr.toNat / 64 = k / 64 ∧ e.mask.getLsbD (k % 64) = true ∧ e.bits.getLsbD (k % 64) = b

/-- The entries store the low n bits of v at bit address a, and no other bit. -/
def stores (es : List BufEntry) (a n v : Nat) : Prop :=
  (∀ j < n, storedBit es (a + j) (v.testBit j)) ∧ ∀ k b, storedBit es k b → a ≤ k ∧ k < a + n

/-! ## Requests at their homes -/

/-- Nothing of a home keeps a request back but its queue: no operation in progress there, no lock of a bridge and no lease holds its granules
(R192, R193, R203). -/
def State.clearOf (s : State) (h : HomeId) (r : Req) : Prop :=
  (s.home h).holds = [] ∧ s.locked r.cover = false ∧ ∀ g ∈ r.cover, s.lessee (lineOf g) = none

/-- A home holds one request alone and is free to perform it (R47, R185 to R187). -/
def State.onlyAt (s : State) (h : HomeId) (r : Req) : Prop :=
  (s.home h).arrivals = [r] ∧ (s.home h).replay = [] ∧ s.clearOf h r ∧ s.homeIdle h = false ∧ (∀ q, h ≠ .quadUnit q) ∧
  ∀ c, s.homeCore h = some c → s.bankIsBusy c r = false

/-- A request is on its way to a home, or waits at one. -/
def State.sent (t : State) (r : Req) : Prop := (∃ h, r ∈ (t.home h).arrivals) ∨ ∃ p ∈ t.flight, p.body = .req r

/-- The fabric carries an answer to a request. -/
def State.answers (t : State) (r : Req) (x : Resp) : Prop :=
  ∃ p ∈ t.flight, p.dst = .core (t.gcore r.core) ∧ p.ordered = false ∧ p.body = .resp r.act r.seq r.part x

/-- A tile of t holds the given cells in its first m rows and n columns, and in the others what it held in s (R281, R291). -/
def State.tileTook (s t : State) (q x m n : Nat) (cells : List Nat) : Prop :=
  ∀ e < (s.tile q x).length, (t.tile q x).getD e 0 = if e / 64 < m ∧ e % 64 < n then cells.getD e 0 else (s.tile q x).getD e 0

/-- Memory of t is that of s but for one granule, which reads w: keys from 2^59 on are those of check bits. -/
def State.granWritten (s t : State) (g : Nat) (w : Word) : Prop :=
  t.mem.readGran g = some w ∧ ∀ k < 2 ^ 59, k < g / 8 ∨ g / 8 + 8 ≤ k → t.mem.readByte k = s.mem.readByte k

end Sys2Proof.Machine
end

