-- ==== Sys2Proof/Certificates/Slice0/Obligations.lean ====
section
/-! DEFINITION. The statements for the provers. -/

open Sys2Proof Sys2Proof.Machine

/-! ## Encoding -/

/-- Words of the spec's own examples and tables decode to the instructions they stand for (R87 to R95). -/
def Obligations.ExampleWordsDecode : Prop :=
  decodeTableWord 32 0x00C83283 = some (.mulh 5 3 4) ∧ decodeTableWord 32 0xFFFE6305 = some (.addi 6 6 (BitVec.ofInt 15 (-1))) ∧
  decodeTableWord 32 0x0218338D = some (.srai 7 3 12) ∧ decodeTableWord 32 0x0000E491 = some (.limm 9 0xE) ∧
  decodeTableWord 32 0x08062215 = some (.bpadd .w3 4 2 3) ∧ decodeTableWord 32 0x01484217 = some (.bpaddi .w6 4 4 10) ∧
  decodeTableWord 32 0x12060071 = some (.trap 0x123) ∧ decodeTableWord 32 0x00400071 = some .eret ∧
  decodeTableWord 32 0x01000071 = some .halt ∧ decodeTableWord 32 0x00A20271 = some (.ctlrd 4 0x011) ∧
  decodeTableWord 32 0x00C25071 = some (.ctlwr 5 0x001) ∧ decodeTableWord 32 0x000620D7 = some (.mand 1 2 3) ∧
  decodeTableWord 32 0x00C01257 = some (.mpopc 4 1) ∧ decodeTableWord 32 0x01409057 = some (.mset 0 9)

/-- Every word the encoder makes of a well-formed instruction decodes to that instruction, with every operand at every value. The encodings are those
of R87 to R95. -/
def Obligations.DecodeOfEncode : Prop :=
  ∀ (i : Instr) (n w : Nat), i.wf = true → encodeWord i = some (n, w) → decodeHalves (w % 65536) (w / 65536) = .ok (i, n)

/-- A word that decodes is the word the encoder makes of what it decodes to: decoding drops no bit, and no two words decode to one instruction. The
encodings are those of R87 to R96. -/
def Obligations.EncodeOfDecode : Prop :=
  ∀ (h0 h1 : Nat) (i : Instr) (n : Nat), h0 < 65536 → h1 < 65536 → decodeHalves h0 h1 = .ok (i, n) →
    encodeWord i = some (n, if n = 16 then h0 else h0 + 65536 * h1)

/-! ## The machine -/

/-- At reset memory is canonical. The canonical form is the model's (log entry 2). -/
def Obligations.ResetIsCanonical : Prop := State.reset.Inv

/-- Every step keeps memory canonical. The canonical form is the model's (log entry 2), and so is the order of the steps (log entry 1). -/
def Obligations.StepKeepsCanonical : Prop := ∀ s t : State, s.Inv → step s = .next t → t.Inv

/-- No instruction and no event stops the machine: traps, aborts, records and waits are next states. That an event whose conditions do not hold leaves
the state as it is, is the model's choice (log entry 47). -/
def Obligations.NothingStops : Prop := ∀ (i : Instr) (s : State), ∃ t, exec i s = .next t

/-- What the spec states of reset: escwait 64, age 4,096, the other registers of a core 0 (R106); pairtmo 0xF_4240; ctl.wbound (R35); strands free
(R107); queues, TLBs and watch lists empty; no rank mapped (R231). That memory lists nothing is the model's form of what nothing has written (log
entry 2). -/
def Obligations.ResetValues : Prop :=
  (∀ c, (State.reset.core c).escwait = 64 ∧ (State.reset.core c).age = 4096 ∧ (State.reset.core c).rm = 0 ∧
    (State.reset.core c).nanmode = 0 ∧ (State.reset.core c).det = 0 ∧ (State.reset.core c).lfmode = 0 ∧
    (State.reset.core c).fflags = 0 ∧ (State.reset.core c).inbox = [] ∧ (State.reset.core c).deque = [] ∧
    (State.reset.core c).itlb = [] ∧ (State.reset.core c).dtlb = []) ∧
  (∀ q, (State.reset.quad q).pairtmo = 0xF4240 ∧ (State.reset.quad q).quantum = 64) ∧
  (∀ d, (State.reset.ctxRegs d).wbound = 0x003FFFF0F0F80000) ∧
  (∀ k, (State.reset.strand k).bound = false ∧ (State.reset.strand k).status.state = .free) ∧
  (∀ h, (State.reset.home h).arrivals = [] ∧ (State.reset.home h).watch = []) ∧
  (∀ c r, rankState (State.reset.rankEntry c r) = 0) ∧ State.reset.mem = []

/-- A step that the agenda gives to a strand with a fetched instruction, which nothing holds back and its port picks, runs it: after the clock has
moved on, step is exec of that instruction on the strand, which becomes the most recent of its core (R109). The agenda and the clock's one cycle per step are the model's choices
(log entries 1 and 3). -/
def Obligations.StepRunsDecoded : Prop :=
  ∀ (s u : State) (sid : Nat) (rest : List Action) (h0 h1 n : Nat) (i : Instr), s.agenda = .issue sid :: rest →
    let v : State := { s with clock := s.clock + 1, agenda := rest }
    v.mayIssue sid = true → v.picked sid = true → (s.strand sid).block = none → State.ownDue { v with cur := sid } = false →
    State.fetch { v with cur := sid } = (.ok (h0, h1), u) → decodeHalves h0 h1 = .ok (i, n) → u.heldBack i = false → u.poisoned i = none →
    step s = exec i (u.issuedBy sid (lanePort i))

/-- The code a strand fetches is the code in memory: a halfword of a page it may fetch from, which it has not fetched before, is the 16 bits at its
address; bit 0 of the first tells whether there is a second (R86, R96). That a halfword once fetched is kept is the model's reading (log entry 22). -/
def Obligations.FetchReadsMemory : Prop :=
  ∀ (s t : State) (a w : Word) (l : Loc) (ls : List Loc), wbit a 63 = false →
    s.resolve s.ci s.user .fetch a 16 = (.ok (l :: ls), t) → (t.me.fetched.find? fun h => h.1 == a) = none → isHost l.phys = false →
    t.mem.readGran l.phys = some w →
    s.fetchHalf a = (.ok (wfld w (a.toNat % 64) 16), t.modMe fun x => { x with fetched := (a, wfld w (a.toNat % 64) 16) :: x.fetched })

/-! ## Memory -/

/-- A granule written whole reads as written, and every byte outside it as before; a store that does not cover its granule replaces the stored bits
and keeps the others, and meets uncorrectable data where the granule was never written whole, or met a two-bit error since (R41, R189); the check bits of
local memory stand in bytes from 2^59 on; a byte of HBM or of a weight store
that nothing has written has no value, one of local memory reads 0 (R125, R189, R313). -/
def Obligations.MemoryResults : Prop :=
  (∀ (m : Mem) (g : Nat) (w : Word), m.wf = true → g % 64 = 0 →
    (m.writeGran g w).readGran g = some w ∧
    ∀ k < 2 ^ 59, k < g / 8 ∨ g / 8 + 8 ≤ k → (m.writeGran g w).readByte k = m.readByte k) ∧
  (∀ (m : Mem) (g : Nat), m.wf = true → g % 64 = 0 → spaceOf g < 3 → (m.spoil g).readGran g = none ∧
    ∀ k < 2 ^ 59, k < g / 8 ∨ g / 8 + 8 ≤ k → (m.spoil g).readByte k = m.readByte k) ∧
  (∀ (m : Mem) (g : Nat) (mask bits : Word), m.wf = true → g % 64 = 0 → mask ≠ wholeMask →
    (m.readGran g = none → m.storeGran g mask bits = none) ∧
    ∀ old, m.readGran g = some old → ∃ m', m.storeGran g mask bits = some m' ∧
      (∃ new, m'.readGran g = some new ∧ ∀ k < 64, new.getLsbD k = if mask.getLsbD k then bits.getLsbD k else old.getLsbD k) ∧
      ∀ k < 2 ^ 59, k < g / 8 ∨ g / 8 + 8 ≤ k → m'.readByte k = m.readByte k) ∧
  ((∀ g o, o < 2 ^ 25 → g * 2 ^ 25 + o < 2 ^ 60 → Mem.readByte [] (localAddr g o / 8) = some 0) ∧
  (∀ d o, d < 8192 → o < 2 ^ 39 → Mem.readByte [] (hbmAddr d o / 8) = none) ∧
  (∀ d o, d < 8 → o < 2 ^ 35 → Mem.readByte [] (wsAddr d o / 8) = none))

/-! ## Traps and privilege -/

/-- TRAP raises cause 0x1F with its code in tval, in either mode; the code sits in two fields. A trap saves pc, cause and tval and the mode,
and goes to ctl.tvec in supervisor mode with the registers, the buffered stores and the slots as they were; met in a handler, it stops the
strand. -/
def Obligations.TrapInstruction : Prop :=
  (∀ code : BitVec 12, encodeWord (.trap code) = some (32, 0x71 + code.toNat / 32 * 2 ^ 25 + code.toNat % 32 * 2 ^ 17)) ∧
  ∀ (code : BitVec 12) (s : State),
    ((s.me.status.trapped && s.me.status.mode) = false →
      exec (.trap code) s = .next (s.modMe fun t =>
        { t.clearInstr with
          epc := t.pc, cause := ofN 0x1F, tval := ofN code.toNat, status := ⟨.ready, true, t.status.mode, true⟩, pc := (s.ctxRegs (dieOf s.ci)).tvec, block := none })) ∧
    ((s.me.status.trapped && s.me.status.mode) = true → ∃ t, exec (.trap code) s = .next t ∧ t.me.status.state = .stopped ∧
      t.me.epc = s.me.pc ∧ t.me.cause = ofN 0x1F ∧ t.me.tval = ofN code.toNat ∧ t.me.regs = s.me.regs ∧ t.me.bound = s.me.bound)

/-- A word that decodes to nothing is ILLEGAL_WORD with that word, when its strand comes to issue it (R96 step 3): it takes the trap ILL with the
word in tval, and changes no register and no store. -/
def Obligations.IllegalWords : Prop :=
  (∀ s : State, (s.me.status.trapped && s.me.status.mode) = false →
    exec .illegalWord s = .next (s.modMe fun t =>
      { t.clearInstr with
        epc := t.pc, cause := ofN 1, tval := s.pick.w, status := ⟨.ready, true, t.status.mode, true⟩, pc := (s.ctxRegs (dieOf s.ci)).tvec, block := none })) ∧
  (∀ (s u : State) (sid : Nat) (rest : List Action) (h0 h1 : Nat) (e : Reject), s.agenda = .issue sid :: rest →
    let v : State := { s with clock := s.clock + 1, agenda := rest }
    v.mayIssue sid = true → v.picked sid = true → (s.strand sid).block = none → State.ownDue { v with cur := sid } = false →
    State.fetch { v with cur := sid } = (.ok (h0, h1), u) → decodeHalves h0 h1 = .error e →
    step s = exec .illegalWord ((u.issuedBy sid (onLane (h0 + 65536 * h1))).withPick { Pick.init with w := ofN (h0 + 65536 * h1) }))

/-- In supervisor mode ERET goes to epc in the mode that was saved, with TRAPPED clear (R154), and HALT stops the strand,
which stays bound with its region uncommitted. In user mode ERET, HALT, TLBINV, HARVEST, RANKMAP and the reads and writes of control registers
that user mode may not make raise PROT with tval 0 (R107, R155 to R158, R232). -/
def Obligations.PrivilegedInstructions : Prop :=
  (∀ s : State, s.me.status.mode = true →
    exec .eret s = .next (s.modMe fun t =>
      { t.clearInstr with pc := t.epc, instret := t.instret + 1, status := { t.status with mode := t.status.pmode, trapped := false } })) ∧
  (∀ s : State, s.me.status.mode = true → ∃ t, exec .halt s = .next t ∧ t.me.status.state = .stopped ∧ t.me.bound = s.me.bound ∧
    t.me.region = s.me.region ∧ t.me.regs = s.me.regs ∧ t.me.pc = s.me.pc) ∧
  (∀ s : State, s.user = true →
    exec .eret s = .next (s.trap cPROT 0) ∧ exec .halt s = .next (s.trap cPROT 0) ∧ exec .harvest s = .next (s.trap cPROT 0) ∧
    (∀ a b, exec (.tlbinvPage a b) s = .next (s.trap cPROT 0)) ∧ (∀ b, exec (.tlbinvCtx b) s = .next (s.trap cPROT 0)) ∧
    exec .tlbinvAll s = .next (s.trap cPROT 0) ∧ (∀ sc d a b, exec (.rankmap sc d a b) s = .next (s.trap cPROT 0)) ∧
    (∀ d n x, ctlInfo (BitVec.toNat n) = some x → x.userR = false → exec (.ctlrd d n) s = .next (s.trap cPROT 0)) ∧
    (∀ a n x, ctlInfo (BitVec.toNat n) = some x → x.userW = false → exec (.ctlwr a n) s = .next (s.trap cPROT 0)))

/-! ## Scalar instructions -/

/-- A scalar result goes to its register and nowhere else: s0 reads 0 and discards what is written (R127); the other registers, the masks
and vectors, the special registers of the strand, every other strand, every core and all of memory stay. -/
def Obligations.ScalarResultFrame : Prop :=
  ∀ (s : State) (d e : Reg) (x : Word),
    (s.wrote d x).rd 0 = 0 ∧ (d ≠ 0 → (s.wrote d x).rd d = x) ∧ (e ≠ d → (s.wrote d x).rd e = s.rd e) ∧
    (∀ r, (s.wrote d x).rdV r = s.rdV r) ∧ (∀ r, (s.wrote d x).rdM r = s.rdM r) ∧ (s.wrote d x).me.pc = s.me.pc + 32 ∧
    (s.wrote d x).me.status = s.me.status ∧ (s.wrote d x).me.epc = s.me.epc ∧ (s.wrote d x).me.cause = s.me.cause ∧
    (s.wrote d x).me.region = s.me.region ∧ (s.wrote d x).me.slots = s.me.slots ∧
    (∀ k, k ≠ s.cur → (s.wrote d x).strand k = s.strand k) ∧ (∀ c, (s.wrote d x).core c = s.core c) ∧
    ∀ k, (s.wrote d x).mem.readByte k = s.mem.readByte k

/-- The integer operations of majors 0x01 to 0x09 (R128 to R132): each writes its result, with nothing trapped and no flag set. CLZ, CTZ and POPC:
the number of powers of two above a; of those whose multiples a is, past 1; and of the bits that are 1. -/
def Obligations.IntegerResults : Prop :=
  (∀ (s : State) (d a b : Reg) (i : BitVec 15) (n : Fin 64) (k : BitVec 20),
    exec (.add d a b) s = .next (s.wrote d (ofN ((s.rd a).toNat + (s.rd b).toNat))) ∧
    exec (.sub d a b) s = .next (s.wrote d (BitVec.ofInt 64 ((s.rd a).toInt - (s.rd b).toInt))) ∧
    exec (.mul d a b) s = .next (s.wrote d (ofN ((s.rd a).toNat * (s.rd b).toNat))) ∧
    exec (.mulh d a b) s = .next (s.wrote d ((BitVec.ofInt 128 ((s.rd a).toInt * (s.rd b).toInt)).extractLsb' 64 64)) ∧
    exec (.mulhn d a b) s = .next (s.wrote d ((BitVec.ofNat 128 ((s.rd a).toNat * (s.rd b).toNat)).extractLsb' 64 64)) ∧
    exec (.div d a b) s = .next (s.wrote d
      (if s.rd b = 0 then BitVec.allOnes 64 else BitVec.ofInt 64 ((s.rd a).toInt.tdiv (s.rd b).toInt))) ∧
    exec (.divn d a b) s = .next (s.wrote d (if s.rd b = 0 then BitVec.allOnes 64 else s.rd a / s.rd b)) ∧
    exec (.rem d a b) s = .next (s.wrote d
      (if s.rd b = 0 then s.rd a else BitVec.ofInt 64 ((s.rd a).toInt - (s.rd b).toInt * (s.rd a).toInt.tdiv (s.rd b).toInt))) ∧
    exec (.remn d a b) s = .next (s.wrote d (if s.rd b = 0 then s.rd a else s.rd a % s.rd b)) ∧
    exec (.and d a b) s = .next (s.wrote d (s.rd a &&& s.rd b)) ∧ exec (.or d a b) s = .next (s.wrote d (s.rd a ||| s.rd b)) ∧
    exec (.xor d a b) s = .next (s.wrote d (s.rd a ^^^ s.rd b)) ∧ exec (.andn d a b) s = .next (s.wrote d (s.rd a &&& ~~~(s.rd b))) ∧
    exec (.shl d a b) s = .next (s.wrote d (ofN ((s.rd a).toNat * 2 ^ ((s.rd b).toNat % 64)))) ∧
    exec (.shr d a b) s = .next (s.wrote d (ofN ((s.rd a).toNat / 2 ^ ((s.rd b).toNat % 64)))) ∧
    exec (.sra d a b) s = .next (s.wrote d (BitVec.ofInt 64 ((s.rd a).toInt / 2 ^ ((s.rd b).toNat % 64)))) ∧
    exec (.rol d a b) s = .next (s.wrote d
      (ofN ((s.rd a).toNat * 2 ^ ((s.rd b).toNat % 64) + (s.rd a).toNat / 2 ^ (64 - (s.rd b).toNat % 64)))) ∧
    exec (.min d a b) s = .next (s.wrote d (if (s.rd a).toInt ≤ (s.rd b).toInt then s.rd a else s.rd b)) ∧
    exec (.max d a b) s = .next (s.wrote d (if (s.rd a).toInt ≤ (s.rd b).toInt then s.rd b else s.rd a)) ∧
    exec (.minn d a b) s = .next (s.wrote d (if s.rd a ≤ s.rd b then s.rd a else s.rd b)) ∧
    exec (.maxn d a b) s = .next (s.wrote d (if s.rd a ≤ s.rd b then s.rd b else s.rd a)) ∧
    exec (.slt d a b) s = .next (s.wrote d (if (s.rd a).toInt < (s.rd b).toInt then 1 else 0)) ∧
    exec (.sltn d a b) s = .next (s.wrote d (if s.rd a < s.rd b then 1 else 0)) ∧
    exec (.seq d a b) s = .next (s.wrote d (if s.rd a = s.rd b then 1 else 0)) ∧
    exec (.cmov d a b) s = .next (s.wrote d (if s.rd b ≠ 0 then s.rd a else s.rd d)) ∧
    exec (.addi d a i) s = .next (s.wrote d (BitVec.ofInt 64 ((s.rd a).toInt + i.toInt))) ∧
    exec (.andi d a i) s = .next (s.wrote d (s.rd a &&& BitVec.ofInt 64 i.toInt)) ∧
    exec (.ori d a i) s = .next (s.wrote d (s.rd a ||| BitVec.ofInt 64 i.toInt)) ∧
    exec (.xori d a i) s = .next (s.wrote d (s.rd a ^^^ BitVec.ofInt 64 i.toInt)) ∧
    exec (.slti d a i) s = .next (s.wrote d (if (s.rd a).toInt < i.toInt then 1 else 0)) ∧
    exec (.shli d a n) s = .next (s.wrote d (ofN ((s.rd a).toNat * 2 ^ n.val))) ∧
    exec (.shri d a n) s = .next (s.wrote d (ofN ((s.rd a).toNat / 2 ^ n.val))) ∧
    exec (.srai d a n) s = .next (s.wrote d (BitVec.ofInt 64 ((s.rd a).toInt / 2 ^ n.val))) ∧
    exec (.roli d a n) s = .next (s.wrote d (ofN ((s.rd a).toNat * 2 ^ n.val + (s.rd a).toNat / 2 ^ (64 - n.val)))) ∧
    exec (.limm d k) s = .next (s.wrote d (BitVec.ofInt 64 k.toInt)) ∧
    exec (.limmh d k) s = .next (s.wrote d (ofN ((s.rd d).toNat * 2 ^ 20 + k.toNat)))) ∧
  (∀ (s : State) (d a : Reg),
    exec (.clz d a) s = .next (s.wrote d (ofN ((List.range 64).filter fun k => decide ((s.rd a).toNat < 2 ^ k)).length)) ∧
    exec (.ctz d a) s = .next (s.wrote d (ofN ((List.range 64).filter fun k => (s.rd a).toNat % 2 ^ (k + 1) == 0).length)) ∧
    exec (.popc d a) s = .next (s.wrote d (ofN ((List.range 64).filter fun k => (s.rd a).getLsbD k).length)))

/-- The bit-pointer operations (R133, R135); the window builders (R134), an address from the fields of a and the offset b, or WINDOW with tval b
where b is too wide; BWIN (R136), which never traps on a value: kind, offset and core of the window an address names. -/
def Obligations.BitPointerResults : Prop :=
  (∀ (s : State) (w : Width) (d a b : Reg) (i : BitVec 11),
    exec (.bpadd w d a b) s = .next (s.wrote d (BitVec.ofInt 64 ((s.rd a).toInt + (s.rd b).toInt * w.bits))) ∧
    exec (.bpaddi w d a i) s = .next (s.wrote d (BitVec.ofInt 64 ((s.rd a).toInt + i.toInt * w.bits))) ∧
    exec (.bpdiff w d a b) s = .next (s.wrote d (BitVec.ofInt 64 ((s.rd a - s.rd b).toInt.tdiv w.bits))) ∧
    exec (.balign w d a) s = .next (s.wrote d (ofN ((s.rd a).toNat / w.bits * w.bits))) ∧
    exec (.b2byte d a) s = .next (s.wrote d (ofN ((s.rd a).toNat / 8))) ∧
    exec (.byte2b d a) s = .next (s.wrote d (ofN ((s.rd a).toNat * 8)))) ∧
  (∀ (s : State) (d a b : Reg),
    (exec (.bcrd d a b) s = if (s.rd b).toNat < 0x2000000 then .next (s.wrote d (0x8#4 ++ (s.rd a).extractLsb' 38 10 ++ (s.rd a).extractLsb' 35 3 ++
        (s.rd a).extractLsb' 31 4 ++ (s.rd a).extractLsb' 27 4 ++ 0#14 ++ (s.rd b).extractLsb' 0 25)) else .next (s.trap cWINDOW (s.rd b))) ∧
    (exec (.brel d a b) s = if (s.rd b).toNat < 0x2000000 then .next (s.wrote d (0x9#4 ++ 0#10 ++ (s.rd a).extractLsb' 10 3 ++
        (s.rd a).extractLsb' 5 5 ++ (s.rd a).extractLsb' 0 5 ++ 0#12 ++ (s.rd b).extractLsb' 0 25)) else .next (s.trap cWINDOW (s.rd b))) ∧
    (exec (.bstripe d a b) s = if (s.rd b).toNat < 0x8000000 then .next (s.wrote d (0xA#4 ++ 0#10 ++ (s.rd a).extractLsb' 6 3 ++
        (s.rd a).extractLsb' 0 6 ++ 0#14 ++ (s.rd b).extractLsb' 0 27)) else .next (s.trap cWINDOW (s.rd b)))) ∧
  (∀ (s : State) (d a : Reg),
    exec (.bwin 0 d a) s = .next (s.wrote d (if (s.rd a).getLsbD 63 then ofN ((s.rd a).toNat / 2 ^ 60) else 0)) ∧
    ((s.rd a).getLsbD 63 = false → exec (.bwin 1 d a) s = .next (s.wrote d (s.rd a)) ∧
      exec (.bwin 2 d a) s = .next (s.wrote d (BitVec.allOnes 64))) ∧
    ((s.rd a).getLsbD 63 = true → s.winDecode s.ci (s.rd a) = none →
      exec (.bwin 1 d a) s = .next (s.wrote d (BitVec.allOnes 64)) ∧ exec (.bwin 2 d a) s = .next (s.wrote d (BitVec.allOnes 64))) ∧
    ∀ w, (s.rd a).getLsbD 63 = true → s.winDecode s.ci (s.rd a) = some w →
      exec (.bwin 1 d a) s = .next (s.wrote d (ofN w.off)) ∧
      exec (.bwin 2 d a) s = .next (s.wrote d (ofN (w.pkg * 2 ^ 38 + w.die * 2 ^ 35 + w.row * 2 ^ 31 + w.col * 2 ^ 27))))

/-- BRC (R142): its word, with a condition's code as the spec's table numbers it; it goes to its target, in halfwords from its own pc, when
its condition holds of a and b, and past itself otherwise. -/
def Obligations.BranchResults : Prop :=
  ∀ (s : State) (a b : Reg) (o : BitVec 12) (c : Cond),
    let x := s.rd a
    let y := s.rd b
    let row : Nat × Prop := match c with
      | .eq => (0, x = y) | .ne => (1, x ≠ y) | .lt => (2, x.toInt < y.toInt) | .ge => (3, y.toInt ≤ x.toInt)
      | .ltn => (4, x.toNat < y.toNat) | .gen => (5, y.toNat ≤ x.toNat)
      | .bset => (6, x.getLsbD (y.toNat % 64) = true) | .bclr => (7, x.getLsbD (y.toNat % 64) = false)
    encodeWord (.brc c a b o) = some (32, 0x21 + a.val * 2 ^ 7 + b.val * 2 ^ 12 + row.1 * 2 ^ 17 + o.toNat * 2 ^ 20) ∧
    (row.2 → exec (.brc c a b o) s = .next (s.wentTo (s.me.pc + BitVec.ofInt 64 (o.toInt * 16)))) ∧
    (¬row.2 → exec (.brc c a b o) s = .next s.wentOn)

/-- JAL, JR and JALR (R143): their words, the register each writes and where each goes; JALR reads a before it writes d. -/
def Obligations.JumpResults : Prop :=
  ∀ (s : State) (d a : Reg) (o : BitVec 20),
    encodeWord (.jal d o) = some (32, 0x23 + d.val * 2 ^ 7 + o.toNat * 2 ^ 12) ∧
    encodeWord (.jr a) = some (32, 0x25 + a.val * 2 ^ 12) ∧
    encodeWord (.jalr d a) = some (32, 0x00400025 + d.val * 2 ^ 7 + a.val * 2 ^ 12) ∧
    exec (.jal d o) s = .next (s.modMe fun t =>
      { t.clearInstr with regs := t.regs.wr d (t.pc + 32), pc := t.pc + BitVec.ofInt 64 (o.toInt * 16), instret := t.instret + 1 }) ∧
    exec (.jr a) s = .next (s.wentTo (s.rd a)) ∧
    exec (.jalr d a) s = .next (s.modMe fun t => { t.clearInstr with regs := t.regs.wr d (t.pc + 32), pc := s.rd a, instret := t.instret + 1 })

/-- LOOP counts down and branches while the count is not 0; a count of 0 stays and falls through; a word whose count field is 0 is refused, so
that it raises ILL as every word that decodes to nothing does (R144, R96). -/
def Obligations.LoopResults : Prop :=
  (∀ (s : State) (c : Reg) (o : BitVec 14),
    exec (.loop c o) s = .next (if s.rd c = 0 then s.wentOn else s.modMe fun t =>
      { t.clearInstr with
        regs := t.regs.wr c (s.rd c - 1), instret := t.instret + 1, pc := if s.rd c - 1 = 0 then t.pc + 32 else t.pc + BitVec.ofInt 64 (o.toInt * 16) })) ∧
  (∀ (c : Reg) (o : BitVec 14), encodeWord (.loop c o) = some (32, 0x27 + c.val * 2 ^ 7 + o.toNat * 2 ^ 17)) ∧
  ∀ o : BitVec 14, ∃ e, decodeHalves 0x27 (o.toNat * 2) = .error e

/-! ## Regions -/

/-- COMMIT releases the region's stores to drain, in order, and moves the checkpoint past itself (R17); where one of them is to a watched granule it
traps with the lowest such address, and the region's stores are gone (R149). A page fault of a load sends the strand back to its checkpoint (R18): its
registers, pc, status, streams and tail are those of the checkpoint, its region's stores are gone, its committed stores stay, and cause and tval tell
the address that faulted. A page fault of an atomic finds the region committed, so that the strand goes back to the atomic's own pc, which is the
model's reading (log entry 51). What a commit waits for and reports besides is read as log entry 46 says. -/
def Obligations.RegionResults : Prop :=
  ((∀ (t : Strand) (a : Word), (t.abort a).regs = t.shadow.regs ∧ (t.abort a).pc = t.shadow.pc ∧ (t.abort a).status = t.shadow.status ∧
    (t.abort a).streams = t.shadow.streams ∧ (t.abort a).tail = t.shadow.tail ∧ (t.abort a).region = [] ∧ (t.abort a).drain = t.drain ∧
    (t.abort a).cause = ofN (2 ^ 15 + cPAGE) ∧ (t.abort a).tval = a ∧
    ∀ k : Fin 64, t.slots[k].seq ≥ t.ckpt → (t.abort a).slots[k].state = .free) ∧
  ∀ (s u : State) (w : Width) (x : Bool) (d a : Reg) (o : BitVec 10) (k : AccKind) (p : Word),
    s.resolve s.ci s.user .load (s.ea a o w.bits) w.bits = (.error (.page k p), u) →
    exec (.ld w x d a o) s = .next ((u.modMe fun t => t.abort p).enterFault u.cur (p.toNat / 2 ^ 19) k p)) ∧
  (∀ (s u : State) (y : Bool) (w : Width) (d a b : Reg) (k : AccKind) (p : Word), (s.rd a).toNat % 64 + w.bits ≤ 64 →
    s.splits (s.rd a) w.bits = false → s.resolve s.ci s.user (.atomic y) (s.rd a) w.bits = (.error (.page k p), u) → u.unwatched [] →
    (u.committed.me.abort p).pc = u.me.pc ∧ (u.committed.me.abort p).regs = u.me.regs ∧ (u.committed.me.abort p).drain = u.me.drain ++ u.me.region ∧
    exec (.amoAdd y w d a b) s = .next ((u.committed.modMe fun t => t.abort p).enterFault u.cur (p.toNat / 2 ^ 19) k p)) ∧
  (∀ s : State,
    (s.unwatched [] → exec .commit s = .next ((s.committed.retire 32).modMe Strand.checkpoint)) ∧
    ((s.modMe Strand.commit).me.drain = s.me.drain ++ s.me.region ∧ (s.modMe Strand.commit).me.region = [] ∧
      (s.modMe Strand.commit).me.regs = s.me.regs ∧ (s.modMe Strand.commit).me.shadow.regs = s.me.regs ∧
      (s.modMe Strand.commit).me.shadow.pc = s.me.pc ∧ ∀ k, (s.modMe Strand.commit).mem.readByte k = s.mem.readByte k) ∧
    ∀ a, lowestWatched s s.ci s.me.regionGrans = some a →
      exec .commit s = .next ((s.modMe fun t => { t with region := [] }).trap cCTRSTORE a))

/-! ## Floating point -/

/-- The scalar FP instructions (R138 to R141): the exact result of the operands' values rounded once, or the operand chosen; the flags it raises are
added to ctl.fflags. The discarded bits of a quotient or a root under SR are the model's reading (log entry 20). -/
def Obligations.ScalarFloatResults : Prop :=
  ∀ (s : State) (t u : Ty) (f : FmaTy) (d a b c : Reg),
    let fp := s.fpEnv s.ci
    let ln := envLane fp 0 0
    let x := fun (t : Ty) (r : Reg) => fdecode t fp.nanm ((s.rd r).toNat % 2 ^ t.bits)
    let out := fun (r : Nat × Nat) => (.next ((s.addFlags r.2).wrote d (ofN r.1)) : Out)
    exec (.fadd t d a b) s = out (roundOpt t fp ln (fsum2 fp.rm (x t a) (x t b))) ∧
    exec (.fsub t d a b) s = out (roundOpt t fp ln (fsum2 fp.rm (x t a) (fnegV (x t b)))) ∧
    exec (.fmul t d a b) s = out (roundOpt t fp ln (fprod (x t a) (x t b))) ∧
    exec (.fdiv t d a b) s = out (fdiv t fp ln ((s.rd a).toNat % 2 ^ t.bits) ((s.rd b).toNat % 2 ^ t.bits)) ∧
    exec (.fsqrt t d a) s = out (fsqrt t fp ln ((s.rd a).toNat % 2 ^ t.bits)) ∧
    exec (.fma f d a b c) s = out (match fprod (x (fmaTy f) a) (x (fmaTy f) b) with
      | none => (canonNan (fmaTy f) fp.nanm, flagNV)
      | some p => roundOpt (fmaTy f) fp ln (fsum2 fp.rm p (x (fmaTy f) c))) ∧
    (x t a ≠ .nan → x t b ≠ .nan →
      exec (.fmin t d a b) s = .next (s.wrote d (ofN (if ftotalLt (x t b) (x t a) then (s.rd b).toNat % 2 ^ t.bits else (s.rd a).toNat % 2 ^ t.bits))) ∧
      exec (.fmax t d a b) s = .next (s.wrote d (ofN (if ftotalLt (x t a) (x t b) then (s.rd b).toNat % 2 ^ t.bits else (s.rd a).toNat % 2 ^ t.bits))) ∧
      exec (.fcmpeq t d a b) s = .next ((s.addFlags 0).wrote d (if fltV (x t a) (x t b) ∨ fltV (x t b) (x t a) then 0 else 1)) ∧
      exec (.fcmplt t d a b) s = .next ((s.addFlags 0).wrote d (if fltV (x t a) (x t b) then 1 else 0)) ∧
      exec (.fcmple t d a b) s = .next ((s.addFlags 0).wrote d (if fltV (x t a) (x t b) ∨ ¬fltV (x t b) (x t a) then 1 else 0))) ∧
    exec (.fclass t d a) s = .next (s.wrote d (ofN (fclass t fp.nanm ((s.rd a).toNat % 2 ^ t.bits)))) ∧
    exec (.fcvt t u d a) s = .next ((s.addFlags (fconvert t u fp ln ((s.rd a).toNat % 2 ^ u.bits)).2).wrote d
      (if t.isSigned then sextW t.bits (fconvert t u fp ln ((s.rd a).toNat % 2 ^ u.bits)).1
       else ofN (fconvert t u fp ln ((s.rd a).toNat % 2 ^ u.bits)).1))

/-- Operands without an ordinary result (R76, R77, R79, R138 to R141): what the operations answer to NaNs, infinities, zeros and
negative radicands, and the flags they raise. -/
def Obligations.FloatSpecialValues : Prop :=
  ∀ (t u : Ty) (fp : FpEnv) (l a b c : Nat) (x y : Bool) (m : Nat) (e n : Int),
    let D := fdecode t fp.nanm
    let nan := canonNan t fp.nanm
    (D a = .nan ∨ D b = .nan → fadd t fp l a b = (nan, 0) ∧ fsub t fp l a b = (nan, 0) ∧ fmul t fp l a b = (nan, 0) ∧ fdiv t fp l a b = (nan, 0) ∧
      fcompare t fp.nanm false true a b = (false, 0) ∧ fcompare t fp.nanm true false a b = (false, flagNV) ∧
      fcompare t fp.nanm true true a b = (false, flagNV)) ∧
    (D a = .nan → D b = .nan → fminmax t fp.nanm false a b = nan ∧ fminmax t fp.nanm true a b = nan) ∧
    (D a = .nan → D b ≠ .nan → fminmax t fp.nanm false a b = b % 2 ^ t.bits ∧ fminmax t fp.nanm true a b = b % 2 ^ t.bits) ∧
    (D a = .inf x → D b = .inf x → fadd t fp l a b = (mkInf t fp.nanm x, 0) ∧ fsub t fp l a b = (nan, flagNV) ∧ fdiv t fp l a b = (nan, flagNV)) ∧
    (D a = .inf x → D b = .fin y 0 e → fmul t fp l a b = (nan, flagNV) ∧ ffma t fp l false false a b c = (nan, flagNV) ∧
      fdiv t fp l a b = (mkInf t fp.nanm (x != y), 0)) ∧
    (D a = .fin x 0 e → D b = .fin y 0 e → fdiv t fp l a b = (nan, flagNV)) ∧
    (D a = .fin x m n → m ≠ 0 → D b = .fin y 0 e → fdiv t fp l a b = (mkInf t fp.nanm (x != y), flagDZ)) ∧
    (D a = .fin true m e → m ≠ 0 → fsqrt t fp l a = (nan, flagNV)) ∧ (D a = .inf true → fsqrt t fp l a = (nan, flagNV)) ∧
    (D a = .nan → fsqrt t fp l a = (nan, 0) ∧ fclass t fp.nanm a = 256) ∧
    (D a = .nan → t.isFp = true → u.isFp = false → fconvert u t fp l a = (0, flagNV)) ∧
    (D a = .inf false → t.isFp = true → u.isFp = false → u.isSigned = false → fconvert u t fp l a = (2 ^ u.bits - 1, flagNV))

/-! ## Lanes -/

/-- Integer elements (R260, R272): arithmetic modulo 2^w, comparison by the type's signedness, shift amounts modulo w; an element that the
mask or the tail does not let through keeps its value. -/
def Obligations.LaneIntegerResults : Prop :=
  ∀ (s : State) (t : LTy) (m : MSel) (d a b : Reg) (i : BitVec 9), t.isFp = false → s.unbound [d, a, b] →
    let w := t.bits
    let A := s.el a w
    let B := s.el b w
    let less := fun (x y : Nat) => if t.isSigned then toSigned w x < toSigned w y else x < y
    let does := fun (x : Instr) (act : Nat → Bool) (f : Nat → Nat) =>
      ∃ u, exec x s = .next u ∧ s.lanes u d 32 w (1024 / w) act fun e => (f e, 0)
    does (.vadd t m d a b) (s.isActive m w) (fun e => A e + B e) ∧
    does (.vsub t m d a b) (s.isActive m w) (fun e => A e + (2 ^ w - B e)) ∧
    does (.vmul t m d a b) (s.isActive m w) (fun e => A e * B e) ∧
    does (.vmin t m d a b) (s.isActive m w) (fun e => if less (A e) (B e) then A e else B e) ∧
    does (.vmax t m d a b) (s.isActive m w) (fun e => if less (A e) (B e) then B e else A e) ∧
    does (.vabs t m d a) (s.isActive m w) (fun e => if A e < 2 ^ (w - 1) then A e else 2 ^ w - A e) ∧
    does (.vneg t m d a) (s.isActive m w) (fun e => 2 ^ w - A e) ∧
    does (.vand t m d a b) (s.isActive m w) (fun e => A e &&& B e) ∧
    does (.vor t m d a b) (s.isActive m w) (fun e => A e ||| B e) ∧
    does (.vxor t m d a b) (s.isActive m w) (fun e => A e ^^^ B e) ∧
    does (.vshl t m d a b) (s.isActive m w) (fun e => A e * 2 ^ (B e % w)) ∧
    does (.vshr t m d a b) (s.isActive m w) (fun e => A e / 2 ^ (B e % w)) ∧
    does (.vsra t m d a b) (s.isActive m w) (fun e => ofSigned w (toSigned w (A e) / 2 ^ (B e % w))) ∧
    does (.vaddi t d a i) s.enabled (fun e => A e + ofSigned w i.toInt) ∧
    does (.vmovi t d i) s.enabled (fun _ => ofSigned w i.toInt) ∧
    (0 ≤ i.toInt → i.toInt < w → does (.vshli t d a i) s.enabled fun e => A e * 2 ^ i.toNat) ∧
    (i.toInt < 0 ∨ w ≤ i.toInt → exec (.vshli t d a i) s = .next (s.trap cILL (illWord (.vshli t d a i))))

/-- The 16-bit forms of R87: as the 32-bit forms with the destination as first source, under m0 where M is set. -/
def Obligations.ShortLaneForms : Prop :=
  ∀ (s : State) (m : Bool) (d b : Reg), s.unbound [d, b] →
    let fp := s.laneEnv
    let D := s.el d 32
    let B := s.el b 32
    let does := fun (x : Instr) (f : Nat → Nat × Nat) =>
      ∃ u, exec x s = .next u ∧ s.lanes u d 16 32 32 (fun e => s.enabled e && (!m || maskLets (s.rdM 0) 32 e)) f
    does (.vaddF32Q m d b) (fun e => fadd .f32 fp (s.laneL fp e) (D e) (B e)) ∧
    does (.vsubF32Q m d b) (fun e => fsub .f32 fp (s.laneL fp e) (D e) (B e)) ∧
    does (.vmulF32Q m d b) (fun e => fmul .f32 fp (s.laneL fp e) (D e) (B e)) ∧
    does (.vmaxF32Q m d b) (fun e => (fminmax .f32 fp.nanm true (D e) (B e), 0)) ∧
    does (.vminF32Q m d b) (fun e => (fminmax .f32 fp.nanm false (D e) (B e), 0)) ∧
    does (.vaddI32Q m d b) (fun e => (D e + B e, 0)) ∧ does (.vsubI32Q m d b) (fun e => (D e + (2 ^ 32 - B e), 0)) ∧
    does (.vmulI32Q m d b) (fun e => (D e * B e, 0)) ∧ does (.vandB32Q m d b) (fun e => (D e &&& B e, 0)) ∧
    does (.vorB32Q m d b) (fun e => (D e ||| B e, 0)) ∧ does (.vxorB32Q m d b) (fun e => (D e ^^^ B e, 0)) ∧
    does (.vshlI32Q m d b) (fun e => (D e * 2 ^ (B e % 32), 0)) ∧
    does (.vsraI32Q m d b) (fun e => (ofSigned 32 (toSigned 32 (D e) / 2 ^ (B e % 32)), 0)) ∧
    does (.vmovQ m d b) (fun e => (B e, 0)) ∧
    ((∀ e < 32, fdecode .f32 fp.nanm (B e) ≠ .nan) →
      does (.vnegF32Q m d b) (fun e => (B e ^^^ 0x80000000, 0)) ∧ does (.vabsF32Q m d b) (fun e => (B e % 0x80000000, 0)))

/-- FP elements and conversions (R260, R263, R265 to R267): each active element is the exact result rounded once in its own lane. The discarded bits
of a quotient or a root under SR are the model's reading (log entry 20). -/
def Obligations.LaneFloatResults : Prop :=
  ∀ (s : State) (t : LTy) (f : VfmaTy) (k u : Ty) (m : MSel) (g : Bool) (d a b c : Reg), s.unbound [d, a, b, c] →
    let fp := s.laneEnv
    let ty := laneTy t
    let w := t.bits
    let wf := (vfmaTy f).bits
    let wide := if k.isFp then Ty.f32 else Ty.i32
    let slot := 32 * k.bits * ((s.rd b).toNat % (1024 / (32 * k.bits)))
    let scale := fun (e : Nat) => fdecode .f16 fp.nanm (s.el b 32 e % 2 ^ 16)
    let zero := fun (e : Nat) => s.el b 32 e / 2 ^ 16 % 2 ^ k.bits
    let fma := fun (x : Instr) (negP negX : Bool) => ∃ u, exec x s = .next u ∧
      s.lanes u d 32 wf (1024 / wf) (fun e => s.enabled e && (!g || maskLets (s.rdM 0) wf e)) fun e =>
        ffma (vfmaTy f) fp (s.laneL fp e) negP negX (s.el a wf e) (s.el b wf e) (s.el c wf e)
    let does := fun (x : Instr) (h : Nat → Nat × Nat) => ∃ u, exec x s = .next u ∧ s.lanes u d 32 w (1024 / w) (s.isActive m w) h
    (t.isFp = true →
      does (.vadd t m d a b) (fun e => fadd ty fp (s.laneL fp e) (s.el a w e) (s.el b w e)) ∧
      does (.vsub t m d a b) (fun e => fsub ty fp (s.laneL fp e) (s.el a w e) (s.el b w e)) ∧
      does (.vmul t m d a b) (fun e => fmul ty fp (s.laneL fp e) (s.el a w e) (s.el b w e)) ∧
      does (.vmin t m d a b) (fun e => (fminmax ty fp.nanm false (s.el a w e) (s.el b w e), 0)) ∧
      does (.vmax t m d a b) (fun e => (fminmax ty fp.nanm true (s.el a w e) (s.el b w e), 0)) ∧
      does (.vabs t m d a) (fun e => (if fdecode ty fp.nanm (s.el a w e) = .nan then canonNan ty fp.nanm else s.el a w e % 2 ^ (w - 1), 0)) ∧
      does (.vneg t m d a) (fun e => (if fdecode ty fp.nanm (s.el a w e) = .nan then canonNan ty fp.nanm else s.el a w e ^^^ 2 ^ (w - 1), 0))) ∧
    fma (.vfma f g d a b c) false false ∧ fma (.vfms f g d a b c) false true ∧ fma (.vfnma f g d a b c) true false ∧
    (∃ v, exec (.vcvt k u m d a) s = .next v ∧
      s.lanes v d 32 k.bits (1024 / max u.bits k.bits) (s.isActive m (max u.bits k.bits)) fun e => fconvert k u fp (s.laneL fp e) (s.el a u.bits e)) ∧
    ((Instr.vpack k m d a b).wf = true →
      (∃ v, exec (.vpack k m d a b) s = .next v ∧
        s.fields v d k.bits slot (s.isActive m 32) fun e => fconvert k wide fp (s.laneL fp e) (s.el a 32 e)) ∧
      ∃ v, exec (.vunpack k m d a b) s = .next v ∧ s.lanes v d 32 32 32 (s.isActive m 32) fun e =>
        (widenField k fp (nfld (s.rdV a).toNat (slot + e * k.bits) k.bits), 0)) ∧
    ((Instr.vquant k m d a b).wf = true →
      (∃ v, exec (.vquant k m d a b) s = .next v ∧
        s.fields v d k.bits 0 (s.isActive m 32) fun e => quantize fp (s.laneL fp e) k.bits (fdecode .f32 fp.nanm (s.el a 32 e)) (scale e) (zero e)) ∧
      ∃ v, exec (.vdeq k m d a b) s = .next v ∧ s.lanes v d 32 32 32 (s.isActive m 32) fun e =>
        dequantize .f32 fp (s.laneL fp e) (nfld (s.rdV a).toNat (e * k.bits) k.bits) (scale e) (zero e))

/-- Moves of elements (R262, R268): which element or value each enabled element takes. The mask instructions (R271). -/
def Obligations.LaneMoves : Prop :=
  (∀ (s : State) (t : LTy) (m : MSel) (d a b : Reg), s.unbound [d, a, b] →
    let w := t.bits
    let n := 1024 / w
    let i := (s.rd b).toInt
    let k := (s.rd b).toNat % n
    let does := fun (x : Instr) (act : Nat → Bool) (f : Nat → Nat) => ∃ u, exec x s = .next u ∧ s.lanes u d 32 w n act fun e => (f e, 0)
    does (.vperm t d a b) s.enabled (fun e => s.el a w (s.el b w e % n)) ∧
    does (.vbcast t d a) s.enabled (fun _ => (s.rd a).toNat) ∧
    does (.vins t d a b) (fun e => s.enabled e && e == k) (fun _ => (s.rd a).toNat) ∧
    does (.vslide t d a b) s.enabled (fun e => if 0 ≤ e + i ∧ e + i < n then s.el a w (e + i).toNat else 0) ∧
    does (.vshuf t d a b) s.enabled (fun e => if e % 2 = 0 then s.el a w (e / 2) else s.el b w (e / 2)) ∧
    (∀ r, mselReg m = some r → does (.vsel t m d a b) s.enabled fun e => if maskLets (s.rdM r) w e then s.el a w e else s.el b w e) ∧
    exec (.vext t d a b) s = .next ((s.addFlags 0).wrote d (if t.isSigned then sextW w (s.el a w k) else ofN (s.el a w k)))) ∧
  (∀ (s : State) (d a b : MReg) (r : Reg),
    exec (.mand d a b) s = .next (s.wroteMask d (s.rdM a &&& s.rdM b)) ∧ exec (.mor d a b) s = .next (s.wroteMask d (s.rdM a ||| s.rdM b)) ∧
    exec (.mnot d a) s = .next (s.wroteMask d (~~~(s.rdM a))) ∧ exec (.mset d r) s = .next (s.wroteMask d (s.rd r |>.setWidth 32)) ∧
    exec (.mpopc r a) s = .next (s.wrote r (ofN ((List.range 32).filter fun k => (s.rdM a).getLsbD k).length)) ∧
    (s.rdM a = 0 → exec (.mfirst r a) s = .next (s.wrote r 32)) ∧
    ∀ k < 32, (s.rdM a).getLsbD k = true → (∀ j < k, (s.rdM a).getLsbD j = false) → exec (.mfirst r a) s = .next (s.wrote r (ofN k)))

/-- Reductions, the scan and compares (R261, R269, R270): over the active elements, and for a compare over those each mask bit covers. FP elements of a
maximum or minimum are widened to FP32, and NaNs give way to numbers; with no active element the result is the type's least or greatest. The scan adds from
the first active element up; that the first is a result, so that a NaN there is the canonical one, is the model's reading (log entry 62). -/
def Obligations.LaneReductions : Prop :=
  ∀ (s : State) (t : LTy) (m : MSel) (c : VCond) (p : MReg) (d a b : Reg), s.unbound [d, a, b] →
    let w := t.bits
    let n := 1024 / w
    let fp := s.laneEnv
    let act := s.isActive m w
    let val := fun (e : Nat) => if t.isSigned then toSigned w (s.el a w e) else (s.el a w e : Int)
    (t.isFp = false → exec (.vredadd t m d a) s =
      .next ((s.addFlags 0).wrote d (BitVec.ofInt 64 (((List.range n).filter act).map val).sum))) ∧
    (t.isFp = true → exec (.vredadd t m d a) s =
      let r := sumTree fp (s.laneL fp) (fun e => if act e then some (cvtFF .f32 (laneTy t) fp 0 (s.el a w e)).1 else none) 0 n.log2
      .next ((s.addFlags r.2).wrote d (ofN (r.1.getD 0)))) ∧
    let wide := fun (e : Nat) => (cvtFF .f32 (laneTy t) fp 0 (s.el a w e)).1
    let num := fun (e : Nat) => fdecode .f32 fp.nanm (wide e)
    let extreme := fun (x : Word) (isMax : Bool) =>
      (t.isFp = false → ∀ e < n, act e = true → (∀ i < n, act i = true → if isMax then val i ≤ val e else val e ≤ val i) → x = BitVec.ofInt 64 (val e)) ∧
      (t.isFp = true → (∃ i < n, act i = true ∧ num i ≠ .nan) → ∃ e < n, act e = true ∧ num e ≠ .nan ∧ x = ofN (wide e) ∧
        ∀ i < n, act i = true → num i ≠ .nan → (if isMax then ftotalLt (num e) (num i) else ftotalLt (num i) (num e)) = false) ∧
      (t.isFp = true → (∃ i < n, act i = true) → (∀ i < n, act i = true → num i = .nan) → x = ofN (canonNan .f32 fp.nanm)) ∧
      ((∀ i < n, act i = false) → x =
        if t.isFp then (if isMax then 0xFF800000 else 0x7F800000)
        else if t.isSigned then (if isMax then BitVec.ofInt 64 (-(2 ^ (w - 1))) else BitVec.ofInt 64 (2 ^ (w - 1) - 1))
        else if isMax then 0 else BitVec.ofInt 64 (2 ^ w - 1))
    let scanned := fun (k : Nat) => (List.range k).foldl (fun (r : Option Nat × Nat) e =>
      if !act e then r else match r.1 with
      | some x => (some (fadd (laneTy t) fp (s.laneL fp e) x (s.el a w e)).1, orFlags r.2 (fadd (laneTy t) fp (s.laneL fp e) x (s.el a w e)).2)
      | none => (some (if fdecode (laneTy t) fp.nanm (s.el a w e) = .nan then canonNan (laneTy t) fp.nanm else s.el a w e), r.2)) (none, 0)
    (∃ x, exec (.vredmax t m d a) s = .next ((s.addFlags 0).wrote d x) ∧ extreme x true) ∧
    (∃ x, exec (.vredmin t m d a) s = .next ((s.addFlags 0).wrote d x) ∧ extreme x false) ∧
    (∃ (v : Vec) (fl : Nat), exec (.vscan t m d a) s = .next ((s.addFlags fl).wroteVec d v 32) ∧
      (t.isFp = false → fl = 0) ∧ (t.isFp = true → fl = (scanned n).2) ∧
      ∀ e < n, (act e = false → elemOf v.toNat w e = s.el d w e) ∧
        (t.isFp = false → act e = true → elemOf v.toNat w e = (((List.range (e + 1)).filter act).map (s.el a w)).sum % 2 ^ w) ∧
        (t.isFp = true → act e = true → elemOf v.toNat w e = (scanned (e + 1)).1.getD 0 % 2 ^ w)) ∧
    ∃ (v : Mask) (fl : Nat), exec (.vcmp t c p a b) s = .next ((s.addFlags fl).wroteMask p v) ∧
      raisedBy fl n s.enabled (fun e => (laneCompare t c fp (s.el a w e) (s.el b w e)).2) ∧
      ∀ j < 32, v.getLsbD j = true ↔ (∃ e < n, maskCovers w j e ∧ s.enabled e = true) ∧
        ∀ e < n, maskCovers w j e → s.enabled e = true → (laneCompare t c fp (s.el a w e) (s.el b w e)).1 = true

/-! ## Loads and stores -/

/-- Loads (R146, R150, R151, R194): once the address resolves, an access that reads its granules is issued for the destination, and the strand goes
on; an acquire load is marked so. Each bit of what is loaded comes from its place in the granule that its address lies in; LDVX has a load for each element
(R151). Where no granule is a byte, each 64-bit unit is read once (R38, R39). An access that is issued takes the next place
in program order, and nothing of the strand but its list of accesses changes: no register, not the region, not memory (R46, R47). The words an
instruction reads are loaded first, as log entry 46 says; uncorrectable ones raise MEMERR (R148). -/
def Obligations.LoadsIssue : Prop :=
  (∀ (s u : State) (w : Width) (x : Bool) (sc : Scope) (d a i : Reg) (o : BitVec 10) (o6 : BitVec 6) (o9 : BitVec 9) (ls : List Loc),
    let cuts := fun (ea : Nat) => cutsOf (scalarStep ea w.bits) ea w.bits ls
    (s.resolve s.ci s.user .load (s.rd a + BitVec.ofInt 64 (o.toInt * w.bits)) w.bits = (.ok ls, u) →
      let ea := s.rd a + BitVec.ofInt 64 (o.toInt * w.bits)
      ∃ acc, exec (.ld w x d a o) s = .next ((u.issue acc).retire 32) ∧ acc.acquire = false ∧ acc.reads ea (cuts ea.toNat) (.sreg d w.bits x) ∧
        acc.elems.length = 1 ∧ acc.takes 0 ea.toNat w.bits (cuts ea.toNat)) ∧
    (s.resolve s.ci s.user .load (s.rd a + BitVec.ofInt 64 (o6.toInt * w.bits)) w.bits = (.ok ls, u) →
      let ea := s.rd a + BitVec.ofInt 64 (o6.toInt * w.bits)
      ∃ acc, exec (.ldAcq w x sc d a o6) s = .next ((u.issue acc).retire 32) ∧ acc.acquire = true ∧ acc.reads ea (cuts ea.toNat) (.sreg d w.bits x) ∧
        acc.elems.length = 1 ∧ acc.takes 0 ea.toNat w.bits (cuts ea.toNat)) ∧
    (s.isBound d = false → s.resolve s.ci s.user .load (s.rd a + BitVec.ofInt 64 (o9.toInt * 1024)) 1024 = (.ok ls, u) →
      ∃ acc, exec (.ldv w d a o9) s = .next ((u.issue acc).retire 32) ∧
        let ea := s.rd a + BitVec.ofInt 64 (o9.toInt * 1024)
        acc.reads ea (cutsOf (vectorStep ea.toNat w.bits) ea.toNat 1024 ls) (.vreg d w.bits) ∧
        acc.elems.length = 1 ∧ acc.takes 0 ea.toNat 1024 (cutsOf (vectorStep ea.toNat w.bits) ea.toNat 1024 ls)) ∧
    ∀ xs, s.isBound d = false → s.isBound i = false →
      s.resolveElems .load w.bits ((List.range (1024 / w.bits)).map fun e => s.rd a + sextW w.bits (s.el i w.bits e) * ofN w.bits) =
        ((xs, none), u) →
      ∃ acc, exec (.ldvx w d a i) s = .next ((u.issue acc).retire 32) ∧ acc.reads (s.rd a) (xs.map (·.2)).flatten (.vreg d w.bits) ∧
        acc.elems.length = xs.length ∧ ∀ e y, xs[e]? = some y → acc.takes e y.1.toNat w.bits y.2) ∧
  (∀ (step a n : Nat) (ls : List Loc), 0 < n → ls.length = (gransOf a n).length → (∀ l ∈ ls, l.bytes = false) →
    (cutsOf step a n ls).map (·.loc) = ls) ∧
  (∀ (s u : State) (a : Word) (n : Nat) (ls : List Loc) (k : List Word → State → Out),
    (∀ ws, s.loaded a n ws → s.readDesc a n k = k ws s) ∧
    (s.me.gotten a.toNat (64 * n) = some none → s.readDesc a n k = .next (s.trap cMEMERR a)) ∧
    (s.me.gotten a.toNat (64 * n) = none → s.resolve s.ci s.user .load a (64 * n) = (.ok ls, u) → ∃ acc,
      acc.reads a (cutsOf 8 a.toNat (64 * n) ls) (.got [(a.toNat, 64 * n)]) ∧
      s.readDesc a n k = .next (if u.mayLoad 1 acc.extents then u.issue acc else u))) ∧
  (∀ (s : State) (a : Access) (p : Part) (ps : List Part), s.strandOfAct s.ci s.me.act = some s.cur → a.parts = p :: ps → a.written = false →
    (∀ q ∈ a.parts, q.op = .read ∧ q.sent = false ∧ q.valued = false) → (∀ b ∈ s.me.out, b.seq < s.me.seq ∧ b.parts.all (·.sent) = true ∧ b.over = false) →
    ∃ b, (s.issue a).me.out = s.me.out ++ [b] ∧ b.seq = s.me.seq ∧ b.base = s.me.seq ∧ b.dest = a.dest ∧ b.addr = a.addr ∧ b.written = false ∧
      b.parts.map (·.gran) = a.parts.map (·.gran) ∧ (s.issue a).me.seq = s.me.seq + 1 ∧ (s.issue a).me.regs = s.me.regs ∧
      (s.issue a).me.pc = s.me.pc ∧ (s.issue a).me.region = s.me.region ∧ (s.issue a).me.slots = s.me.slots ∧
      ∀ k, (s.issue a).mem.readByte k = s.mem.readByte k)

/-- Stores (R15, R147, R150, R151, R194): once the address resolves, and the region buffer has room, the bits of the source at the address enter
the region, and nothing else changes; memory is written when the store drains. STVX: each element goes to its own address, in rising order. -/
def Obligations.StoresBuffer : Prop :=
  (∀ (s u : State) (w : Width) (sc : Scope) (d a : Reg) (o : BitVec 10) (o6 : BitVec 6) (o9 : BitVec 9) (ls : List Loc),
    let puts := fun (x : Instr) (ea : Word) (n step v : Nat) (rel : Option Scope) =>
      s.resolve s.ci s.user .store ea n = (.ok ls, u) → ea.toNat + n ≤ 2 ^ 64 → u.me.bufUsed + (cutsOf step ea.toNat n ls).length ≤ 512 →
      ∃ es, exec x s = .next ((u.modMe fun t => { t with region := t.region ++ es, seq := t.seq + es.length }).retire 32) ∧
        stores es ea.toNat n v ∧ (∀ e ∈ es, e.rel = rel) ∧ es.map (·.gran) = (cutsOf step ea.toNat n ls).map (·.loc.phys)
    let scalar := fun (x : Instr) (ea : Word) (rel : Option Scope) => puts x ea w.bits (scalarStep ea.toNat w.bits) (s.rd d).toNat rel
    scalar (.st w d a o) (s.rd a + BitVec.ofInt 64 (o.toInt * w.bits)) none ∧
    scalar (.stRel w sc d a o6) (s.rd a + BitVec.ofInt 64 (o6.toInt * w.bits)) (some sc) ∧
    (s.isBound d = false → let ea := s.rd a + BitVec.ofInt 64 (o9.toInt * 1024)
      s.resolve s.ci s.user .store ea 1024 = (.ok ls, u) → ea.toNat + 1024 ≤ 2 ^ 64 → ls.length = (gransOf ea.toNat 1024).length →
      u.me.bufUsed + ls.length ≤ 512 →
      ∃ es, exec (.stv w d a o9) s = .next ((u.modMe fun t => { t with region := t.region ++ es, seq := t.seq + es.length }).retire 32) ∧
        stores es ea.toNat 1024 (s.rdV d).toNat ∧ (∀ e ∈ es, e.rel = none ∧ e.step = vectorStep ea.toNat w.bits) ∧ es.map (·.gran) = ls.map (·.phys))) ∧
  (∀ (s u : State) (w : Width) (d a i : Reg) (xs : List (Word × List Cut)), s.isBound d = false → s.isBound i = false →
    s.resolveElems .store w.bits ((List.range (1024 / w.bits)).map fun e => s.rd a + sextW w.bits (s.el i w.bits e) * ofN w.bits) =
      ((xs, none), u) →
    u.me.bufUsed + (xs.map fun y => y.2.length).sum ≤ 512 →
    ∃ es, exec (.stvx w d a i) s =
        .next ((u.modMe fun t => { t with region := t.region ++ es, seq := t.seq + (xs.map fun y => y.2.length).sum }).retire 32) ∧
      es.map (·.gran) = ((xs.map fun y => y.2.map (·.loc.phys))).flatten ∧ (∀ e ∈ es, e.rel = none) ∧
      ∀ k < 1024 / w.bits, ∀ y, xs[k]? = some y → y.1.toNat + w.bits ≤ 2 ^ 64 → ∃ es' ⊆ es, stores es' y.1.toNat w.bits (s.el d w.bits k))

/-! ## Tagged loads and the shared SFU -/

/-- LDT, LDTV and the SFU requests (R172, R173, R180): a slot that is not free raises TAG_BUSY with its tag; a free one becomes pending,
and the request starts. -/
def Obligations.TaggedRequests : Prop :=
  ∀ (s : State) (w : Width) (x : Bool) (t : Tag) (a i : Reg),
    let sfu := [Instr.sfuExp2 t a, .sfuLog2 t a, .sfuRcp t a, .sfuRsq t a, .sfuSin t a, .sfuCos t a, .sfuTanh t a, .sfuErf t a]
    (s.me.slots[t.val].state ≠ .free →
      ∀ j ∈ Instr.ldt w x t a i :: .ldtv w t a i :: sfu, exec j s = .next (s.trapAt s.cur cTAGBUSY t.val (ofN t.val))) ∧
    (s.me.slots[t.val].state = .free →
      (∃ y : Slot, exec (.ldt w x t a i) s = .next (((s.setSlot t y).startTagged t false).retire 32) ∧ y.state = .pending ∧ y.kind = .scalar ∧
        y.width = w ∧ y.sx = x ∧ y.addr = s.rd a + s.rd i ∧ y.gen = s.me.slots[t.val].gen ∧ y.drop = false) ∧
      (∃ y : Slot, exec (.ldtv w t a i) s = .next (((s.setSlot t y).startTagged t false).retire 32) ∧ y.state = .pending ∧ y.kind = .vector ∧
        y.width = w ∧ y.addr = s.rd a + s.rd i ∧ y.gen = s.me.slots[t.val].gen ∧ y.drop = false) ∧
      ∀ k : Fin 8, ∃ u, exec (sfu.get (k.cast rfl)) s = .next u ∧ u.me.slots[t.val].state = .pending ∧ u.me.slots[t.val].kind = .sfu ∧
        u.me.regs = s.me.regs ∧ u.me.pc = s.me.pc + 32 ∧ u.mem = s.mem ∧
        ∃ r, (u.quad (quadOf s.ci)).sfu = (s.quad (quadOf s.ci)).sfu ++ [r] ∧ r.fn = k.val ∧ r.x = (s.rd a).toNat % 2 ^ 32 ∧ r.tag = t ∧
          s.clock + sfuLatency k.val ≤ r.ready)

/-- A take (R174, R175) of the oldest slot that has arrived among those it considers: the value of a scalar, vector or SFU slot, or the fault address
of a faulted one, and the status word reach the two registers, and the slot is Taken; a faulted one traps where ctl.lfmode says so; with no slot that
may still arrive it answers 0x1FF; with one that may it waits. -/
def Obligations.TakeResults : Prop :=
  ∀ (s : State) (d a b : Reg) (t : Tag), d ≠ a ∨ d = 0 →
    let y := s.me.slots[t.val]
    let mask := fun (m : Word) (x : Instr) =>
      let gives := fun (u : State) (status : Nat) => exec x s = .next (((u.setSlot t y.take).wr a (ofN (status + t.val))).retire 32)
      (s.me.firstArrived m = some t → y.state = .landed →
        (y.kind = .scalar → gives (s.wr d (if y.sx then sextW y.width.bits y.value.toNat else zextW y.width.bits y.value.toNat)) 0) ∧
        (y.kind = .sfu → gives ((s.addFlags y.flags).wr d (ofN (y.value.toNat % 2 ^ 32))) 0) ∧
        (y.kind = .vector → s.isBound d = false → gives (s.wrV d y.value) (2 ^ 10)) ∧
        (y.kind = .vector → s.isBound d = true → exec x s = .next (s.trap cSTREAM (ofN d.val)))) ∧
      (s.me.firstArrived m = some t → y.state = .faulted →
        (wbit s.myCore.lfmode 0 = true → exec x s = .next (s.trapAt s.cur cLANDING t.val y.faultAddr)) ∧
        (wbit s.myCore.lfmode 0 = false → y.kind ≠ .vector ∨ s.isBound d = false → gives (s.wr d y.faultAddr) (y.cause % 256 * 2 ^ 16 + 2 * 2 ^ 8))) ∧
      (s.me.firstArrived m = none → (∀ i : Fin 64, m.getLsbD i.val = true → s.me.slots[i].coming = true → s.me.slots[i].drop = true) →
        exec x s = .next ((s.wr a 0x1FF).retire 32)) ∧
      ∀ i : Fin 64, s.me.firstArrived m = none → m.getLsbD i.val = true → s.me.slots[i].coming = true → s.me.slots[i].drop = false →
        exec x s = .next (s.blockOn (.take m))
    mask (BitVec.allOnes 64) (.take d a) ∧ mask (s.rd b) (.takem d a b) ∧ mask (1 <<< ((s.rd b).toNat % 64)) (.taket d a b)

/-- The queries and slot instructions (R176 to R179). -/
def Obligations.SlotInstructions : Prop :=
  ∀ (s : State) (d a : Reg),
    (∀ t : Tag, s.rd a = ofN (0x80 + t.val) → exec (.lsq d a) s = .next (s.wrote d (s.me.slots[t.val].info t.val))) ∧
    (s.unlogged → (s.rd a).getLsbD 7 = false → ∃ m, exec (.lsq d a) s = .next (s.wrote d m) ∧
      ∀ i : Fin 64, m.getLsbD i.val = s.me.slots[i].selected ((s.rd a).toNat % 8)) ∧
    (∃ u, exec (.lsclr a) s = .next u ∧ u.me.regs = s.me.regs ∧ u.me.pc = s.me.pc + 32 ∧ u.mem = s.mem ∧
      ∀ i : Fin 64, u.me.slots[i] = if (s.rd a).getLsbD i.val then s.me.slots[i].clear else s.me.slots[i]) ∧
    ((∀ i : Fin 64, (s.rd a).getLsbD i.val = true → s.me.slots[i].coming = false) → exec (.lswait a) s = .next s.wentOn) ∧
    (∀ i : Fin 64, (s.rd a).getLsbD i.val = true → s.me.slots[i].coming = true → exec (.lswait a) s = .next (s.blockOn (.lswait (s.rd a)))) ∧
    (∀ t : Tag, s.rd a = ofN (2 ^ t.val) → s.me.slots[t.val].state = .faulted →
      exec (.lsreissue a) s = .next (((s.setSlot t { s.me.slots[t.val] with state := .pending, cause := 0, faultAddr := 0 }).startTagged t true).retire 32)) ∧
    ∀ t : Tag, s.rd a = ofN (2 ^ t.val) → s.me.slots[t.val].state ≠ .faulted → exec (.lsreissue a) s = .next (s.trap cSLOT (ofN t.val))

/-! ## Atomics, fences, counters -/

/-- Atomics and reductions (R195): once the checks pass, the region commits, and a request for the operation goes to the granule's home with the
operands as they are; an AMO writes the old value to d when it is answered. An operand that spans two granules is read as log entry 46 says. -/
def Obligations.AtomicsIssue : Prop :=
  ∀ (s u : State) (y : Bool) (w : Width) (d a b : Reg) (l : Loc),
    let ok := fun (n : Nat) => (s.rd a).toNat % 64 + n ≤ 64 ∧ s.resolve s.ci s.user (.atomic y) (s.rd a) n = (.ok [l], u) ∧
      s.splits (s.rd a) n = false ∧ wbit u.myCore.det 0 = false ∧ u.unwatched [(l.phys, ofN ((s.rd a).toNat / 64 * 64))]
    let asks := fun (x : Instr) (op : AmoOp) (n : Nat) (c : Nat) (dst : Dest) =>
      ∃ t acc, exec x s = .next t ∧ u.commitsWith t acc ∧ acc.sysAcq = y ∧
        acc.asks l.phys (.amo op ((s.rd a).toNat % 64) n (ofN ((s.rd b).toNat % 2 ^ n)) (ofN (c % 2 ^ n)) (u.fpEnv u.ci)) dst
    let amo := fun (x : Instr) (op : AmoOp) (n : Nat) => asks x op n (s.rd d).toNat (.amo d ((s.rd a).toNat % 64) n)
    (ok w.bits → amo (.amoAdd y w d a b) .add w.bits ∧ amo (.amoAnd y w d a b) .and w.bits ∧ amo (.amoOr y w d a b) .or w.bits ∧
      amo (.amoXor y w d a b) .xor w.bits ∧ amo (.amoMin y w d a b) .min w.bits ∧ amo (.amoMax y w d a b) .max w.bits ∧
      amo (.amoMinn y w d a b) .minn w.bits ∧ amo (.amoMaxn y w d a b) .maxn w.bits ∧ amo (.amoSwap y w d a b) .swap w.bits ∧
      amo (.amoCas y w d a b) .cas w.bits ∧
      asks (.redAdd y w a b) .add w.bits 0 .ack ∧ asks (.redAnd y w a b) .and w.bits 0 .ack ∧ asks (.redOr y w a b) .or w.bits 0 .ack ∧
      asks (.redXor y w a b) .xor w.bits 0 .ack ∧ asks (.redMin y w a b) .min w.bits 0 .ack ∧ asks (.redMax y w a b) .max w.bits 0 .ack ∧
      asks (.redMinn y w a b) .minn w.bits 0 .ack ∧ asks (.redMaxn y w a b) .maxn w.bits 0 .ack) ∧
    (ok 32 → amo (.amoFadd y d a b) .fadd 32 ∧ asks (.redFadd y a b) .fadd 32 0 .ack ∧ asks (.redFmax y a b) .fmax 32 0 .ack) ∧
    ((s.rd a).toNat % 64 + w.bits > 64 → exec (.amoAdd y w d a b) s = .next (s.trap cALIGN (s.rd a)))

/-- Fences (R54, R198, R199): a fence takes its place before the accesses that follow; SL, SS and ALL commit first; FENCE.I forgets the fetched code
once every store is performed, and waits until then. What FENCE.I waits for is the model's reading (log entry 22). -/
def Obligations.FenceResults : Prop :=
  ∀ (s : State) (k : FenceKind) (sc : Scope),
    (k = .ll ∨ k = .ls → ∃ fs, exec (.fence k sc) s = .next (s.modMe fun t =>
      { t.clearInstr with fences := fs ++ [⟨k, sc, t.seq⟩], pc := t.pc + 32, instret := t.instret + 1 }) ∧ ∀ f ∈ s.me.fences, f ∈ fs ∨ f.over s.pkg s.me = true) ∧
    (k ≠ .ll → k ≠ .ls → s.unwatched [] → ∃ fs, exec (.fence k sc) s = .next ((s.committed.modMe fun t =>
      { t.clearInstr with fences := fs ++ [⟨k, sc, t.seq⟩], pc := t.pc + 32, instret := t.instret + 1 }).modMe Strand.checkpoint) ∧
      ∀ f ∈ s.me.fences, f ∈ fs ∨ f.over s.pkg s.committed.me = true) ∧
    (s.unwatched [] → s.committed.me.storesDone s.pkg = true → exec .fenceI s = .next ((s.committed.modMe fun t =>
      { t.clearInstr with fetched := [], block := none, pc := t.pc + 32, instret := t.instret + 1 }).modMe Strand.checkpoint)) ∧
    (s.unwatched [] → s.committed.me.storesDone s.pkg = false →
      exec .fenceI s = .next (s.committed.modMe fun t => { t with block := some .fence }))

/-- Counters (R222 to R224): CADD and CMAX commit and send, as a release when REL is set; a negative CADD raises COUNTER_DECREASE; a wait sends its
target and the strand blocks; CARM answers 1 for a rank without a core. The kind of access a counter's address is checked as is the model's reading
(log entry 18). -/
def Obligations.CounterInstructions : Prop :=
  ∀ (s u : State) (r : Bool) (sc : Scope) (d a b : Reg) (l : Loc),
    ((s.rd b).toNat % 64 ≠ 0 → ∀ x ∈ [Instr.cadd r sc a b, .cmax r sc a b, .cwait sc d a b, .cwaitt sc d a b, .carm sc d a b],
      exec x s = .next (s.trap cALIGN (s.rd b))) ∧
    ((s.rd b).toNat % 64 = 0 → isWs l.phys = false → isHost l.phys = false →
    (s.resolve s.ci s.user (.atomic false) (s.rd b) 64 = (.ok [l], u) →
      (u.unwatched [] → (s.rd a).msb = false → ∃ t acc, exec (.cadd r sc a b) s = .next t ∧ u.commitsWith t acc ∧ acc.asks l.phys (.cadd (s.rd a)) .ack ∧
        acc.ordered = true ∧ acc.rel = if r then some sc else none) ∧
      (u.unwatched [] → ∃ t acc, exec (.cmax r sc a b) s = .next t ∧ u.commitsWith t acc ∧ acc.asks l.phys (.cmax (s.rd a)) .ack ∧
        acc.ordered = true ∧ acc.rel = if r then some sc else none) ∧
      ((s.rd a).msb = true → exec (.cadd r sc a b) s = .next (u.trap cCTRDEC (s.rd b)))) ∧
    (s.resolve s.ci s.user .load (s.rd b) 64 = (.ok [l], u) →
      (∃ acc, exec (.cwait sc d a b) s = .next ((u.blockOn (.cwait s.me.seq none false)).issue acc) ∧
        acc.asks l.phys (.wait (s.rd a)) (.wait d (s.rd a)) ∧ acc.acquire = true) ∧
      (∃ acc, exec (.cwaitt sc d a b) s = .next ((u.blockOn (.cwait s.me.seq (some (u.clock + (s.rd d).toNat)) false)).issue acc) ∧
        acc.asks l.phys (.wait (s.rd a)) (.wait d (s.rd a)) ∧ acc.acquire = true) ∧
      ∀ ws, (s.rd a).toNat % 64 = 0 → u.loaded (s.rd a) 10 ws → (Msg.ofWords ws).kind ≤ 1 → (wordAt ws 0).toNat % 16 = 0 → u.unwatched [] →
        wfld (wordAt ws 8) 24 40 = 0 →
        let e := u.rankEntry u.ci (wfld (wordAt ws 8) 0 24)
        (rankState e = 0 → exec (.carm sc d a b) s = .next (((u.committed.wr d 1).retire 32).modMe Strand.checkpoint)) ∧
        (rankState e ≠ 0 → ∃ acc, exec (.carm sc d a b) s = .next ((((u.committed.wr d 0).issue acc).retire 32).modMe Strand.checkpoint) ∧
          acc.asks l.phys (.arm (wordAt ws 9) (rankCore e) (wfld (wordAt ws 8) 0 24) true (u.stamped (Msg.ofWords ws))) .ack)))

/-- Rings and deques on the strand's side (R201, R233): aligned operands in device memory, a commit where the operation changes memory, and a
request to the block's home or the own home unit. -/
def Obligations.RingInstructions : Prop :=
  ∀ (s u v : State) (sc : Scope) (d a b : Reg) (ls es : List Loc) (l : Loc), isWs l.phys = false → isHost l.phys = false →
    (∀ k ∈ ls ++ es, isWs k.phys = false ∧ isHost k.phys = false) →
    ((s.rd a).toNat % 256 = 0 → (s.rd b).toNat % 64 = 0 → s.resolve s.ci s.user .store (s.rd a) 256 = (.ok (l :: ls), u) →
      (u.resolve u.ci u.user .load (s.rd b) 64 = (.ok es, v) → v.unwatched [] → ∃ t acc, exec (.enq sc d a b) s = .next t ∧ v.commitsWith t acc ∧
        acc.asks l.phys (.enq (s.rd a) (s.rd b) (es.headD ⟨0, false, none⟩).phys s.user) (.stat d)) ∧
      (u.resolve u.ci u.user .store (s.rd b) 64 = (.ok es, v) → v.unwatched [] → ∃ t acc, exec (.deq sc d a b) s = .next t ∧ v.commitsWith t acc ∧
        acc.asks l.phys (.deq (s.rd a) (s.rd b) (es.headD ⟨0, false, none⟩).phys s.user) (.stat d))) ∧
    ((s.rd a).toNat % 256 ≠ 0 → exec (.enq sc d a b) s = .next (s.trap cALIGN (s.rd a)) ∧ exec (.deq sc d a b) s = .next (s.trap cALIGN (s.rd a)) ∧
      exec (.ringstat sc d a) s = .next (s.trap cALIGN (s.rd a))) ∧
    ((s.rd a).toNat % 256 = 0 → s.resolve s.ci s.user .load (s.rd a) 256 = (.ok (l :: ls), u) → ∃ acc,
      exec (.ringstat sc d a) s = .next ((u.issue acc).retire 32) ∧ acc.asks l.phys (.ringstat (s.rd a)) (.count d)) ∧
    (∀ ws, (s.rd a).toNat % 64 = 0 → s.loaded (s.rd a) 8 ws → (wordAt ws 0).toNat % 16 = 0 → s.unwatched [] → ∃ t acc m,
      exec (.dqpush sc d a) s = .next t ∧ s.commitsWith t acc ∧ acc.asks (s.dequeGran s.ci) (.dqpush m) (.stat d) ∧ acc.ordered = true ∧
      m.w0 = wordAt ws 0 ∧ m.kind = 3 ∧ m.srank = (s.core s.ci).rank % 2 ^ 24 ∧ m.words.drop 2 = (Msg.ofWords ws).words.drop 2) ∧
    ((s.rd a).toNat % 64 = 0 → s.resolve s.ci s.user .store (s.rd a) 512 = (.ok (l :: ls), u) → u.unwatched
        (((l :: ls).map (·.phys)).zip ((gransUp (s.rd a).toNat 8).map ofN)) → ∃ t acc, exec (.dqpop sc d a) s = .next t ∧ u.commitsWith t acc ∧
      acc.asks (u.dequeGran u.ci) (.dqpop (s.rd a) l.phys s.user) (.stat d) ∧ acc.ordered = true) ∧
    ∃ acc, exec (.dqcount sc d) s = .next ((s.issue acc).retire 32) ∧ acc.asks (s.dequeGran s.ci) .dqcount (.sreg d 64 false)

/-- Messages (R8, R225 to R227, R230): a checked image goes out as a release, with the sender's settings and rank in its header; YIELD blocks the
strand for at most 65,535 cycles, with its pc past the instruction. Where a release waits is the model's reading (log entry 23). -/
def Obligations.MessageInstructions : Prop :=
  ∀ (s : State) (sc : Scope) (d a b : Reg) (ws : List Word),
    let m := Msg.ofWords ws
    let sends := fun (x : Instr) (op : ReqOp) (dst : Dest) => s.unwatched [] →
      ∃ t acc, exec x s = .next t ∧ s.commitsWith t acc ∧ acc.asks 0 op dst ∧ acc.rel = some sc ∧ acc.ordered = true ∧ acc.entry = false
    ((s.rd a).toNat % 64 = 0 → s.loaded (s.rd a) 8 ws → m.kind ≤ 1 → m.w0.toNat % 16 = 0 →
      sends (.msg sc d a b) (.message sc (wfld (s.rd b) 0 24) (s.stamped m)) (.stat d) ∧
      (0 < (s.rd b).toNat → (s.rd b).toNat ≤ 256 → sends (.spawn sc a b) (.spawn (s.stamped m) (s.rd b).toNat) .ack)) ∧
    (wfld (s.rd d) 56 4 ≤ 1 → (s.rd a).toNat % 16 = 0 → sends (.msgc sc d a b) (.message sc (wfld (s.rd b) 0 24)
      (s.stamped ⟨s.rd a, s.rd d, s.rd 24, s.rd 25, s.rd 26, s.rd 27, s.rd 28, s.rd 29⟩)) (.stat d)) ∧
    (wfld (s.rd d) 56 4 > 1 → exec (.msgc sc d a b) s = .next (s.trap cILL (illWord (.msgc sc d a b)))) ∧
    (s.rd a = 0 → exec (.yield sc a) s = .next s.wentOn) ∧
    (s.rd a ≠ 0 → exec (.yield sc a) s = .next (s.wentOn.blockOn (.yield (s.clock + min (s.rd a).toNat 65535))))

/-- RECV and END of an activation without a capsule (R12, R13, R228, R229): both commit; RECV then waits for a message, or traps where one whose
NaN mode does not match waits already; END waits for its loads, its core's own writes and, when it has a completion counter, its accesses, and
then frees the strand. That the check of RECV comes before its commit is the model's reading (log entry 68). -/
def Obligations.ActivationEnds : Prop :=
  ∀ (s : State) (sc : Scope), s.me.capsule = none → s.me.block = none → s.unwatched [] →
    let waits := s.committed.modMe fun t => { t with block := some (.ending sc) }
    ((∀ x ∈ (s.core s.ci).inbox, x.msg.w0 = s.me.handler → s.nanMatches s.ci x.msg = true) →
      exec (.recv sc) s = .next (s.committed.blockOn (.recv s.clock sc))) ∧
    (∀ x, s.unlogged → s.me.gate = false → (s.core s.ci).inbox = [x] → x.msg.w0 = s.me.handler → s.nanMatches s.ci x.msg = false →
      s.recvFor s.ci s.me.handler = none → exec (.recv sc) s = .next (s.trap cNANMODE x.msg.w1)) ∧
    (waits.endReady s.cur sc = false → exec (.endAct sc) s = .next waits) ∧
    (waits.endReady s.cur sc = true → s.me.compl = 0 → ∃ t, exec (.endAct sc) s = .next t ∧ t.strand s.cur = Strand.init ∧
      (∀ k, k ≠ s.cur → t.strand k = s.strand k) ∧ ∀ k, t.mem.readByte k = s.mem.readByte k) ∧
    (waits.endReady s.cur sc = true → s.me.compl ≠ 0 → ∃ t, exec (.endAct sc) s = .next t ∧ t.strand s.cur = Strand.init ∧
      t.flight = (waits.deviceAdd s.ci s.me.compl 1 1).flight ∧ t.homes = (waits.deviceAdd s.ci s.me.compl 1 1).homes ∧
      ∀ k, t.mem.readByte k = (waits.deviceAdd s.ci s.me.compl 1 1).mem.readByte k)

/-- Where stores, RECV and END complete (R12, R13, R34, R147, R149, R150, R151, R194, R228, R229). A store whose address resolves (at a window
address: where the checks of R34 pass), with room in the region buffer, puts its bits into the region and the pc goes on. A RECV with a message that
waits for its handler, once it is dispatched to it, has loaded s1 to s7 and gone on. An END with nothing outstanding frees the strand, and sends the
add of its completion counter. -/
def Obligations.StoresAndEndsComplete : Prop :=
  (∀ (s : State) (w : Width) (sc : Scope) (d a : Reg) (o : BitVec 10) (o6 : BitVec 6) (o9 : BitVec 9),
    let done := fun (x : Instr) (ea : Word) (n step v : Nat) (rel : Option Scope) => ∀ ls, (s.resolve s.ci s.user .store ea n).1 = .ok ls →
      ea.toNat + n ≤ 2 ^ 64 → s.me.bufUsed + (cutsOf step ea.toNat n ls).length ≤ 512 →
      ∃ t es, exec x s = .next t ∧ t.me.region = s.me.region ++ es ∧ stores es ea.toNat n v ∧ (∀ e ∈ es, e.rel = rel) ∧
        t.me.pc = s.me.pc + 32 ∧ t.me.regs = s.me.regs ∧ t.mem = s.mem
    let scalar := fun (x : Instr) (ea : Word) (rel : Option Scope) => done x ea w.bits (scalarStep ea.toNat w.bits) (s.rd d).toNat rel
    scalar (.st w d a o) (s.rd a + BitVec.ofInt 64 (o.toInt * w.bits)) none ∧
    scalar (.stRel w sc d a o6) (s.rd a + BitVec.ofInt 64 (o6.toInt * w.bits)) (some sc) ∧
    (s.isBound d = false → let ea := s.rd a + BitVec.ofInt 64 (o9.toInt * 1024)
      done (.stv w d a o9) ea 1024 (vectorStep ea.toNat w.bits) (s.rdV d).toNat none)) ∧
  (∀ (s : State) (w : Width) (d a i : Reg) (xs : List (Word × List Cut)), s.isBound d = false → s.isBound i = false →
    let eas := (List.range (1024 / w.bits)).map fun e => s.rd a + sextW w.bits (s.el i w.bits e) * ofN w.bits
    (s.resolveElems .store w.bits eas).1 = (xs, none) → (∀ ea ∈ eas, ea.toNat + w.bits ≤ 2 ^ 64) → s.me.bufUsed + (xs.map fun y => y.2.length).sum ≤ 512 →
    ∃ t es, exec (.stvx w d a i) s = .next t ∧ t.me.region = s.me.region ++ es ∧ (∀ e ∈ es, e.rel = none) ∧ t.me.pc = s.me.pc + 32 ∧
      t.me.regs = s.me.regs ∧ ∀ k < 1024 / w.bits, ∃ es' ⊆ es, stores es' (eas.getD k 0).toNat w.bits (s.el d w.bits k)) ∧
  (∀ (s : State) (user : Bool) (ea : Word) (n step : Nat), 0 < n → wbit ea 63 = true → s.winCheck s.ci user .store ea n = none → ea.toNat + n ≤ 2 ^ 64 ∧
    ∃ ls, s.resolve s.ci user .store ea n = (.ok ls, s) ∧ (cutsOf step ea.toNat n ls).length = (gransOf ea.toNat n).length) ∧
  (∀ (s : State) (sc : Scope) (m : Msg) (n : Nat), s.me.capsule = none → s.unwatched [] → s.unlogged → s.me.gate = false → m.w0 = s.me.handler →
    s.nanMatches s.ci m = true → (s.core s.ci).inbox = [⟨m, n⟩] → (s.core s.ci).deque = [] → (s.core s.ci).resume = [] → s.recvFor s.ci m.w0 = none →
    (s.core s.ci).park = false → s.dieRuns (dieOf s.ci) = true → s.resumeHeld s.ci = none → s.me.compl = 0 → ∃ t u, exec (.recv sc) s = .next t ∧ t.me.region = [] ∧
      exec .dispatch { t with pick := { t.pick with a := s.ci } } = .next u ∧ u.me.block = none ∧ u.me.pc = s.me.pc + 32 ∧ (u.core s.ci).inbox = [] ∧
      (∀ r : Reg, 1 ≤ r.val → r.val ≤ 7 → u.me.regs.rd r = (match r.val with
        | 1 => m.w2 | 2 => m.w3 | 3 => m.w4 | 4 => m.w5 | 5 => m.w6 | 6 => m.w7 | _ => m.w1)) ∧
      ∀ r : Reg, 8 ≤ r.val → u.me.regs.rd r = s.rd r) ∧
  ∀ (s : State) (sc : Scope), s.me.capsule = none → s.me.block = none → s.unwatched [] → (∀ i : Fin 64, s.me.slots[i].coming = false) →
    s.ownWrites s.ci s.me.act = false → (s.me.compl ≠ 0 → s.me.out = [] ∧ s.me.drain = [] ∧ s.me.region = [] ∧ s.me.fences = []) →
    ∃ t, exec (.endAct sc) s = .next t ∧ t.strand s.cur = Strand.init ∧ (∀ k, k ≠ s.cur → t.strand k = s.strand k) ∧
      (s.me.compl = 0 → ∀ k, t.mem.readByte k = s.mem.readByte k) ∧
      ∀ l, s.me.compl ≠ 0 → s.addPlace s.ci s.me.compl.toNat = .ok l → ∃ q, t.sent q ∧ q.gran = l.phys ∧ q.op = .cadd 1

/-- Barriers (R235 to R238), but for `.sys`, which is ILL: a strand that is no member gets 0; a member that is fewer than three phases ahead
sends its signal and gets its phase; one three ahead waits; BAR.WAIT waits for the member's phase counter. At which core the node of a barrier
stands is the model's choice (log entry 61). -/
def Obligations.BarrierInstructions : Prop :=
  ∀ (s : State) (sc : Scope) (d a b : Reg),
    let key := s.barKey sc s.ci (wfld (s.rd b) 0 4)
    let x := s.bars.get key Barrier.init
    (sc = .sys → ∀ i ∈ [Instr.barCfg sc d a b, .barArr sc d b, .barWait sc d a b, .barStat sc d a b], exec i s = .next (s.trap cILL (illWord i))) ∧
    (sc ≠ .sys →
      (∀ ws, (s.rd a).toNat % 256 = 0 → s.loaded (s.rd a) 4 ws → s.unwatched [] →
        (s.barBad sc x ws = true → exec (.barCfg sc d a b) s = .next (((s.committed.wr d 5).retire 32).modMe Strand.checkpoint)) ∧
        (s.barBad sc x ws = false → x.busy = true →
          exec (.barCfg sc d a b) s = .next (((s.committed.wr d 4).retire 32).modMe Strand.checkpoint)) ∧
        (s.barBad sc x ws = false → x.busy = false → ∃ t, exec (.barCfg sc d a b) s = .next t ∧
          t.bars.get key Barrier.init = barOf sc (barNode sc s.ci) ws ∧ (d ≠ 0 → t.rd d = 0) ∧ t.me.pc = s.me.pc + 32)) ∧
      (s.memberOf sc x = none → exec (.barWait sc d a b) s = .next (s.wrote d 0) ∧
        (s.unwatched [] → exec (.barArr sc d b) s = .next (((s.committed.wr d 0).retire 32).modMe Strand.checkpoint))) ∧
      (∀ i, s.memberOf sc x = some i → s.unwatched [] →
        (x.leads.getD i 0 ≥ 3 → exec (.barArr sc d b) s = .next (s.committed.blockOn (.barArr key))) ∧
        (x.leads.getD i 0 < 3 → ∃ acc, exec (.barArr sc d b) s =
          .next ((((State.wr { s.committed with bars := s.bars.set key { x with leads := listSet x.leads i (x.leads.getD i 0 + 1) } } d
            (ofN (x.phase + x.leads.getD i 0 + 1))).issue acc).retire 32).modMe Strand.checkpoint) ∧
          acc.asks 0 (.barArrive (s.gcore (nodeCore sc (barNode sc s.ci) x.word0)) key i) .ack ∧ acc.rel = some sc)) ∧
      (∀ i, s.memberOf sc x = some i → ∃ acc, exec (.barWait sc d a b) s =
          .next ((s.blockOn (.cwait s.me.seq (some (s.clock + (s.rd d).toNat)) false)).issue acc) ∧
        acc.asks (localAddr (s.gcore s.ci) (phaseOff sc x.pcoff s.cur)) (.wait (s.rd a)) (.wait d (s.rd a))) ∧
      (x.configured = false → exec (.barStat sc d a b) s = .next (s.wrote d 0)) ∧
      ∃ m, exec (.barStat sc d a b) s = .next (s.wrote d m))

/-- Streams (R252, R273 to R276): STRM.CFG binds v24 to v31 to an accepted descriptor at position 0, a tail stream with a new tail; STRM.END unbinds,
and the register reads zero; LOOPS branches while the tail stream has elements left. An operand bound to a stream of the wrong width, of the
wrong direction or at its end raises STREAM with its register, before anything is read or written (R257, R259). -/
def Obligations.StreamInstructions : Prop :=
  (∀ (s : State) (sc : Scope) (d a : Reg) (o : BitVec 14) (ws : List Word), s.me.streams.length = 8 →
    ((s.rd a).toNat % 512 = 0 → s.loaded (s.rd a) 8 ws → 24 ≤ d.val → streamRejects ws = false →
      (∀ r x, r ≠ d → s.boundStream r = some x → x.isTail = false) → ∃ t, exec (.strmCfg sc d a) s = .next t ∧
        t.boundStream d = some ⟨ws, 0⟩ ∧ (∀ r, r ≠ d → t.boundStream r = s.boundStream r) ∧
        t.me.tail = (if (Stream.mk ws 0).isTail then ⟨0, 0⟩ else s.me.tail) ∧ t.me.pc = s.me.pc + 32 ∧ t.me.regs.s = s.me.regs.s) ∧
    ((s.rd a).toNat % 512 = 0 → s.loaded (s.rd a) 8 ws → d.val < 24 ∨ streamRejects ws = true →
      exec (.strmCfg sc d a) s = .next (s.trap cSTREAM (s.rd a))) ∧
    (∃ t, exec (.strmEnd sc d) s = .next t ∧ t.isBound d = false ∧ t.me.pc = s.me.pc + 32 ∧ (s.isBound d = true → t.rdV d = 0) ∧
      (s.isBound d = false → t.rdV d = s.rdV d)) ∧
    (∀ x, s.boundStream a = some x → exec (.strmPos sc d a) s = .next (s.wrote d (ofN x.pos))) ∧
    (s.isBound a = false → exec (.strmPos sc d a) s = .next (s.wrote d (BitVec.allOnes 64))) ∧
    (s.me.tailStream = none → exec (.loops o) s = .next (s.trap cSTREAM (BitVec.allOnes 64))) ∧
    ∀ x, s.me.tailStream = some x →
      (x.total ≤ x.pos → exec (.loops o) s = .next s.wentOn) ∧
      (x.pos < x.total → exec (.loops o) s = .next (s.modMe fun t =>
        { t.clearInstr with tail := ⟨x.pos, (t.tail.iter + 1) % 2 ^ 24⟩, pc := t.pc + BitVec.ofInt 64 (o.toInt * 16), instret := t.instret + 1 }))) ∧
  (∀ (s : State) (t : LTy) (m : MSel) (d a b : Reg) (x : Stream), s.boundStream a = some x →
    x.lane.bits ≠ t.bits ∨ x.isWrite = true ∨ x.total ≤ x.pos →
    exec (.vadd t m d a b) s = .next (s.trap cSTREAM (ofN a.val)) ∧ exec (.vperm t d a b) s = .next (s.trap cSTREAM (ofN a.val)) ∧
    exec (.vredadd t m d a) s = .next (s.trap cSTREAM (ofN a.val)) ∧
    ∀ w i, exec (.ldv w a d i) s = .next (s.trap cSTREAM (ofN a.val)) ∧ exec (.stv w a d i) s = .next (s.trap cSTREAM (ofN a.val)))

/-- Control registers (R106, R155): a read gives the register's value; a write that the register's rules allow is what it then reads; an unlisted
number, a read-only register and a forbidden value raise ILL. What only reads state, or marks the log (R159, R300, R335, R378). -/
def Obligations.ControlRegisters : Prop :=
  (∀ (s : State) (d a : Reg) (n : BitVec 12), s.user = false →
    (∀ x, ctlInfo n.toNat = some x → exec (.ctlrd d n) s = .next (s.wrote d (s.ctlRead n.toNat))) ∧
    (ctlInfo n.toNat = none → exec (.ctlrd d n) s = .next (s.trap cILL (illWord (.ctlrd d n))) ∧
      exec (.ctlwr a n) s = .next (s.trap cILL (illWord (.ctlwr a n)))) ∧
    (∀ x, ctlInfo n.toNat = some x → x.ro = true ∨ ctlForbids n.toNat (s.rd a) = true → exec (.ctlwr a n) s = .next (s.trap cILL (illWord (.ctlwr a n)))) ∧
    (n.toNat ∈ [0x001, 0x002, 0x003, 0x004, 0x005, 0x006, 0x007, 0x008, 0x010, 0x011, 0x012, 0x013, 0x014, 0x030, 0x031, 0x033, 0x034, 0x035,
        0x040, 0x042, 0x043, 0x050] → ctlForbids n.toNat (s.rd a) = false →
      ∃ t, exec (.ctlwr a n) s = .next t ∧ t.ctlRead n.toNat = s.rd a ∧ t.me.pc = s.me.pc + 32 ∧ t.me.regs = s.me.regs ∧
        ∀ k, t.mem.readByte k = s.mem.readByte k) ∧
    (n.toNat = 0x000 → ctlForbids 0x000 (s.rd a) = false → ∃ t, exec (.ctlwr a n) s = .next t ∧ t.me.status.state = s.me.status.state ∧
      t.me.status.mode = (s.rd a).getLsbD 0 ∧ t.me.status.pmode = (s.rd a).getLsbD 1 ∧ t.me.status.trapped = (s.rd a).getLsbD 2) ∧
    (n.toNat = 0x041 → ctlForbids 0x041 (s.rd a) = false → (s.homeQuiet s.ci = false → exec (.ctlwr a n) s = .next s) ∧
      (s.homeQuiet s.ci = true → ∃ t, exec (.ctlwr a n) s = .next t ∧ t.ctlRead 0x041 = s.rd a ∧ (t.home (.core (t.gcore t.ci))).rewrite = true))) ∧
  (∀ (s : State) (sc : Scope) (d a : Reg),
    exec (.opstat sc d a) s = .next (s.wrote d (s.slot (quadOf s.ci) (wfld (s.rd a) 0 6)).word) ∧
    (∀ k < 6, s.rd a = ofN k → exec (.siftStat sc d a) s = .next (s.wrote d (ofN (s.myCore.sift.getD k 0)))) ∧
    (6 ≤ (s.rd a).toNat → exec (.siftStat sc d a) s = .next (s.wrote d (BitVec.allOnes 64))) ∧
    (∀ k < 5, s.rd a = ofN k → exec (.fabStat sc d a) s = .next (s.wrote d (ofN (s.fab.get k 0)))) ∧
    (s.rd a = 5 → s.ports < 2 ^ 32 → exec (.fabStat sc d a) s = .next (s.wrote d (ofN s.ports))) ∧
    (6 ≤ (s.rd a).toNat → exec (.fabStat sc d a) s = .next (s.wrote d (BitVec.allOnes 64))) ∧
    (s.recording s.ci = false → exec (.crumbMark a) s = .next s.wentOn))

/-- Operations over the package, in supervisor mode (R156 to R158, R232): no TLB keeps an entry that a TLBINV covers; the operation is under way, and
the strand waits with its pc past the instruction. RANKMAP writes the rank's entry and returns the old one. When a TLBINV takes effect is the model's
reading (log entry 37). -/
def Obligations.PackageOperations : Prop :=
  ∀ (s : State) (sc : Scope) (d a b : Reg), s.user = false →
    let starts := fun (t : State) (op : PackageOp) => t.pendings = s.pendings ++ [⟨op, s.ci, s.me.act⟩] ∧ t.me.block = some .package ∧
      t.me.pc = s.me.pc + 32
    let inv := fun (x : Instr) (op : PackageOp) => ∃ t, exec x s = .next t ∧ starts t op ∧ t.me.regs = s.me.regs ∧
      (∀ c, ∀ e ∈ (t.core c).itlb ++ (t.core c).dtlb, op.covers e = false) ∧ ∀ q, ∀ e ∈ (t.quad q).tlb, op.covers e = false
    inv (.tlbinvPage a b) (.tlbinvPage (s.rd a) (wfld (s.rd b) 0 4)) ∧ inv (.tlbinvCtx b) (.tlbinvCtx (wfld (s.rd b) 0 4)) ∧
    inv .tlbinvAll .tlbinvAll ∧
    (∃ t, exec .harvest s = .next t ∧ starts t (.harvest (s.ctxOf (dieOf s.ci))) ∧ t.me.regs = s.me.regs ∧ t.mem = s.mem) ∧
    (let rank := wfld (s.rd a) 0 24
     let old := s.rankEntry s.ci rank
     (rankEntryOk (s.rd b) = true → rank < 0xFFFFFE → rankChange old (s.rd b) = true → ∃ t, exec (.rankmap sc d a b) s = .next t ∧
       starts t (.rankmap rank (rankState old == 2)) ∧ t.rankEntry s.ci rank = s.rd b ∧ (d ≠ 0 → t.rd d = old) ∧
       ∀ r, r < 2 ^ 24 → r ≠ rank → t.rankEntry s.ci r = s.rankEntry s.ci r) ∧
     (rankEntryOk (s.rd b) = false ∨ 0xFFFFFE ≤ rank ∨ rankChange old (s.rd b) = false →
       exec (.rankmap sc d a b) s = .next (s.trap cILL (illWord (.rankmap sc d a b)))))

/-! ## Engines and the matrix unit -/

/-- A command of the copy engine, the Sifter, the router or the fabric engine (R315, R326 to R346, R376): once its descriptor is read and its checks
pass, it commits, releases, takes the next sequence number of its context, which d receives, and stands at the end of the context's queue with what it
sampled; a descriptor that is not aligned raises ALIGN, a broken one ILL. Where the release waits and which addresses are checked are the model's
readings (log entries 23 and 24). -/
def Obligations.EngineCommandsQueue : Prop :=
  ∀ (s p q u : State) (sc : Scope) (d a b : Reg) (ws : List Word), (s.rd a).toNat % 512 = 0 → s.loaded (s.rd a) 8 ws → s.me.gate = false →
    let queues := fun (x : Instr) (major op eng : Nat) (ctr : Word) (bad : List Word → Bool) (checks : (State → Out) → Out) (more : Cmd → State → State) =>
      let tl := tlWord major op ws
      (bad ws = true → exec x s = .next (s.trap cILL (illWord x))) ∧
      (bad ws = false → wfld tl 1 5 = 0 → (wbit tl 0 = true → wfld s.myCore.enote 4 60 ≠ 0) → Pass checks p →
        Pass (p.namedCounter (tlAddr tl) (.atomic false)) q → Pass (q.namedCounter ctr (.atomic false)) u → u.me.gate = false → u.unwatched [] →
        u.committed.released sc → (u.eng u.ci eng).queue.length < 16 →
        let n := (u.eng u.ci eng).seq + 1
        ∃ cmd, exec x s = .next (((more cmd ((u.committed.modEng u.ci eng fun y => { y with queue := y.queue ++ [cmd], seq := n }).wr d (ofN n))).retire 32).modMe
            Strand.checkpoint) ∧
          cmd.major = major ∧ cmd.op = op ∧ cmd.n = n ∧ cmd.desc = ws ∧ cmd.addr = s.rd a ∧ cmd.ctr = ctr ∧ cmd.user = u.user ∧
          cmd.fp = u.fpEnv u.ci ∧ cmd.act = u.me.act ∧ cmd.bad = none)
    let last := wordAt ws 1 + ofN (wfld (wordAt ws 3) 0 13 - 1) * wordAt ws 2
    let row := (s.rowSizes ws).1
    let list := (s.rowSizes ws).2
    let counters := fun (k : State → Out) => if wordAt ws 1 = 0 then k s else
      s.namedCounter (wordAt ws 1) (.atomic false) fun t => t.checkRanges (.atomic false) k [(wordAt ws 1, 64 * topkTokens ws)]
    (∀ i : Fin 5, queues ([Instr.cpy sc d a b, .cpy2d sc d a b, .cpyCvt sc d a b, .putSig sc d a b, .wsLoad sc d a b].get i) 0x34 i.val (copyCtx ws) (s.rd b)
      (copyBad i.val) (s.copyChecks i.val ws) fun _ t => t) ∧
    queues (.siftCfg sc d a b) 0x35 0 4 (s.rd b) tabBad (fun k => s.checkRanges .load k (tabRanges ws)) (fun _ t => t) ∧
    queues (.gath sc d a b) 0x35 1 4 (s.rd b) (siftBad false) (fun k => s.checkRanges .load (fun t => t.checkRanges .store (fun t => t.noHost (gathRuns ws row) k)
      [(wordAt ws 1, row), (last, row)]) [(wordAt ws 0, list)]) (fun _ t => t) ∧
    queues (.scat sc d a b) 0x35 2 4 (s.rd b) (siftBad true) (fun k => s.checkRanges .load (fun t => t.checkRanges .store (fun t => t.noHost [t.scatRun ws] k)
      [s.scatRun ws]) [(wordAt ws 0, list), (wordAt ws 1, row), (last, row)]) (fun _ t => t) ∧
    queues (.kbind sc d a b) 0x36 0 5 (s.rd b) kbindBad (fun k => if wordAt ws 2 = 0 then k s else s.checkRanges .store k [(wordAt ws 2, 256)]) (fun _ t => t) ∧
    queues (.ksend sc d a) 0x36 1 5 0 ksendBad (fun k => s.checkRanges .load (fun t => t.namedCounter (wordAt ws 2) (.atomic false) fun t =>
      t.namedCounter (wordAt ws 3) (.atomic false) k) [(wordAt ws 0, 128 * ksendPairs ws)]) (fun _ t => t) ∧
    queues (.kdrain sc d a b) 0x36 2 5 (s.rd b) kdrainBad (fun k => s.checkRanges .store (fun t => t.noHost [(wordAt ws 0, s.drainBits s.ci)] k) [(wordAt ws 0, 128)]) (fun _ t => t) ∧
    (wbit (wordAt ws 0) 37 = false → queues (.topkCfg sc d a b) 0x36 3 5 (s.rd b) topkBad counters fun _ t => t) ∧
    (wbit (wordAt ws 0) 37 = true → s.user = false →
      queues (.topkCfg sc d a b) 0x36 3 5 (s.rd b) topkBad (fun k => s.checkRanges .load (fun t => if wordAt ws 1 = 0 then k t else
        t.namedCounter (wordAt ws 1) (.atomic false) fun t => t.checkRanges (.atomic false) k [(wordAt ws 1, 64 * topkTokens ws)])
        [(wordAt ws 2, topkExperts ws)]) fun _ t => t) ∧
    (wbit (wordAt ws 0) 37 = true → s.user = true → topkBad ws = false → wfld (wordAt ws 4) 1 5 = 0 →
      (wbit (wordAt ws 4) 0 = true → wfld s.myCore.enote 4 60 ≠ 0) → exec (.topkCfg sc d a b) s = .next (s.trap cPROT 0)) ∧
    queues (.collRed sc d a b) 0x37 0 collCtx (s.rd b) (collBad 0) (s.collChecks 0 ws) (fun c t => t.joinGroup c) ∧
    queues (.collBcast sc d a b) 0x37 1 collCtx (s.rd b) (collBad 1) (s.collChecks 1 ws) (fun c t => t.joinGroup c) ∧
    queues (.tokSend sc d a b) 0x37 2 collCtx (s.rd b) tokBad (fun k => s.checkRanges .load k [(wordAt ws 0, wfld (wordAt ws 3) 24 16)]) fun _ t => t

/-- Matrix commands (R295 to R300, R307 to R309): OPREL, OPLOAD and the accumulator commands stand at the end of the core's matrix queue with their
descriptor, once their checks pass and the release is over; a full queue holds the strand. Where the release waits and which addresses are checked are
the model's readings (log entries 23, 24 and 26). -/
def Obligations.MatrixCommandsQueue : Prop :=
  ∀ (s p u : State) (sc : Scope) (a b : Reg) (ws : List Word), s.me.gate = false → s.myCore.mq.length < 16 → u.me.gate = false → u.unwatched [] →
    u.committed.released sc → u.myCore.mq.length < 16 →
    let queues := fun (x : Instr) (major op : Nat) (desc : List Word) (addr ctr : Word) (more : State → State) =>
      ∃ cmd, exec x s = .next ((more ((u.committed.modQuad (quadOf u.ci) fun y => { y with stamp := y.stamp + 1 }).modMyCore fun k =>
          { k with mq := k.mq ++ [cmd] })).retire 32 |>.modMe Strand.checkpoint) ∧
        cmd.major = major ∧ cmd.op = op ∧ cmd.desc = desc ∧ cmd.addr = addr ∧ cmd.ctr = ctr ∧ cmd.n = (u.quad (quadOf u.ci)).stamp
    let first := s.mkCmd 0x30 2 0 ws (s.rd a) (s.rd b)
    let move := fun (op : Nat) => s.mkCmd 0x32 op 0 ws (s.rd a) (s.rd b)
    let runs := endRuns first.loadRuns ++ first.zeroRun
    (u = s → (∀ n < 64, wbit (s.rd a) n = true → (s.slot (quadOf s.ci) n).st ≠ 0) → queues (.oprel sc a) 0x30 1 [] (s.rd a) 0 fun t => t) ∧
    (∀ n < 64, wbit (s.rd a) n = true → (s.slot (quadOf s.ci) n).st = 0 → (∀ m < n, wbit (s.rd a) m = true → (s.slot (quadOf s.ci) m).st ≠ 0) →
      exec (.oprel sc a) s = .next (s.trap cSLOT (ofN n))) ∧
    (0 < wfld (s.rd a) 8 8 → wfld (s.rd a) 0 8 + wfld (s.rd a) 8 8 ≤ tileCount → wfld (s.rd a) 16 48 = 0 → Pass (s.namedCounter (s.rd b) (.atomic false)) u →
      queues (.accClr sc a b) 0x32 0 [] (s.rd a) (s.rd b) fun t => t) ∧
    ((s.rd a).toNat % 512 = 0 → s.loaded (s.rd a) 8 ws → Pass (p.namedCounter (s.rd b) (.atomic false)) u →
      (loadBad ws = false → (s.slot (quadOf s.ci) first.loadSlot).st ≠ 0 →
        Pass (fun k => s.checkRanges .load (fun t => t.ownPkg k ((runs.map fun r => [r.1, r.1 + ofN (r.2 - 1)]).flatten)) runs) p →
        queues (.opload sc a b) 0x30 2 ws (s.rd a) (s.rd b) fun t => t.modSlot (quadOf s.ci) first.loadSlot OpSlot.load) ∧
      (accBad ws = false → Pass (fun k => s.checkRanges .store k (endRuns (move 2).accRuns)) p →
        queues (.accDrain sc a b) 0x32 2 ws (s.rd a) (s.rd b) fun t => t) ∧
      (accBad ws = false → Pass (fun k => s.checkRanges .load k (endRuns (move 3).accRuns)) p →
        queues (.accLoad sc a b) 0x32 3 ws (s.rd a) (s.rd b) fun t => t) ∧
      (scaleBad ws = false → Pass (fun k => s.checkRanges .load k (scaleRuns ws)) p → queues (.accScale sc a b) 0x32 1 ws (s.rd a) (s.rd b) fun t => t))

/-- OPCLAIM, TT.QCFG and the tile queues (R290, R297, R301 to R305): OPCLAIM takes the lowest free slot of its mask, or answers all ones; a record
whose slots are all claimed goes to the end of its queue with its slots pinned and status 0, or status 1 where the queue is full. TT.APPEND commits
and writes its copy of the record; once that is performed it adds 1 to COUNT, and once that is, d takes status 0 (R304). The slots a record
needs are read as log entry 26 says, and the order of the copy, the add and the status as log entry 33 says. -/
def Obligations.TileQueueInstructions : Prop :=
  ∀ (s p u : State) (sc : Scope) (d a b : Reg) (ws : List Word),
    let q := quadOf s.ci
    (s.unwatched [] → s.committed.released sc →
      ((∀ n < 64, wbit (s.rd a) n = true → (s.slot q n).st ≠ 0) →
        exec (.opclaim sc d a) s = .next (((s.committed.wr d (BitVec.allOnes 64)).retire 32).modMe Strand.checkpoint)) ∧
      (∀ n < 64, wbit (s.rd a) n = true → (s.slot q n).st = 0 → (∀ m < n, wbit (s.rd a) m = true → (s.slot q m).st ≠ 0) →
        ∃ t, exec (.opclaim sc d a) s = .next t ∧ (d ≠ 0 → t.rd d = ofN n) ∧ t.me.pc = s.me.pc + 32 ∧ (t.slot q n).st = (if (s.loadsOf q n).isEmpty then 1 else 2) ∧ (t.slot q n).pin = 0 ∧
          (t.slot q n).owner = (rowOf s.ci % 2 * 2 + colOf s.ci % 2) * 8 + s.cur % 8 ∧ ∀ m, m ≠ n → t.slot q m = s.slot q m) ∧
      exec (.ttQcfg sc a) s = .next (((s.committed.modQuad q fun x => { x with quantum := wfld (s.rd a) 0 16 }).retire 32).modMe Strand.checkpoint)) ∧
    ((s.rd a).toNat % 512 = 0 → s.loaded (s.rd a) 8 ws → s.me.gate = false → u.me.gate = false → u.unwatched [] → u.committed.released sc →
      let put := fun (x : Instr) (op : Nat) => ∀ tk : Task, tk = ⟨ws, s.rd a, s.ci, s.user, op, u.myCore.srseed, (u.quad q).stamp⟩ →
        (∀ n ∈ tk.slots, (s.slot q n).st ≠ 0 ∧ (u.slot q n).pin < 255) →
        Pass (s.namedCounter (wordAt ws 2) .load) p → Pass (p.namedCounter (wordAt ws 4) (.atomic false)) u →
        (((u.quad q).queue (recQueue ws)).length ≥ 64 → exec x s = .next (((u.committed.wr d 1).retire 32).modMe Strand.checkpoint)) ∧
        (((u.quad q).queue (recQueue ws)).length < 64 → exec x s = .next ((((((u.committed.pinSlots q tk.slots).modQuad q fun y =>
          { y with stamp := y.stamp + 1 }).wr d 0).retire 32).pushTq q (recQueue ws) (.task tk)).modMe Strand.checkpoint))
      (taskBad false ws = false → put (.ttEnq sc d a) 0) ∧ (pairBad (q % 64) ws = false → put (.ttPair sc d a) 2) ∧
      (grpBad ws = false → ∀ w : Walker, w = ⟨ws, s.rd a, s.ci, s.user, u.fpEnv u.ci, s.me.act, (u.quad q).stamp, [], [], 0⟩ →
        (∀ n ∈ w.pool, (s.slot q n).st ≠ 0 ∧ (s.slot q n).pin = 0) →
        Pass (s.namedCounter (wordAt ws 1) .load) p → Pass (p.namedCounter (wordAt ws 2) (.atomic false)) u →
        ((u.quad q).queue (wfld (wordAt ws 4) 16 2)).length < 64 → exec (.ttGrp sc d a) s = .next ((((((u.committed.pinSlots q w.pool).modQuad q fun y =>
          { y with stamp := y.stamp + 1 }).wr d 0).retire 32).pushTq q (wfld (wordAt ws 4) 16 2) (.walker w)).modMe Strand.checkpoint))) ∧
    ((s.rd a).toNat % 512 = 0 → (s.rd b).toNat % 512 = 0 → s.loaded (s.rd a) 8 ws → grpBad ws = false → ∀ ws2 : List Word, s.loaded (s.rd b) 8 ws2 →
      let dst := wordAt ws 0 + 512 * s.rd d
      let key := s.ownKey
      let exec := exec (.ttAppend sc d b a) s
      (∀ (ls : List Loc) (x g : State), s.me.gate = false → s.resolve s.ci s.user .store dst 512 = (.ok ls, x) →
        Pass (fun k => x.counterAddr State.stopAt (wordAt ws 1) (.atomic false) fun _ t => k t) u → u.me.gate = false → u.unwatched [] →
        u.committed.released sc → (u.io u.ownKey).phase = 0 →
        let y := u.committed.modMe fun t => { t with gate := true, wsGate := [] }
        State.engPutAll { y with unit := u.ownKey } y.ci y.user false isWs [⟨dst, 64, (wordAt ws2 0).toNat⟩] = (g, none) →
        exec = .next (({ g.modIo u.ownKey fun z => { z with got := [], need := [], walked := [], rows := [], stale := [] } with unit := u.unit } : State).modIo u.ownKey
          fun z => { z with phase := 1 })) ∧
      (s.me.gate = true → s.released sc → (s.io key).puts = [] → (s.io key).bad = none →
        (∀ g : State, 0 < (s.io key).phase → (s.io key).phase < 8 → State.engPutAll { s with unit := key } s.ci s.user false isWs
          [⟨dst + ofN (64 * (s.io key).phase), 64, (wordAt ws2 (s.io key).phase).toNat⟩] = (g, none) → exec = .next
            (({ g.modIo key fun z => { z with got := [], need := [], walked := [], rows := [], stale := [] } with unit := s.unit } : State).modIo key
              fun z => { z with phase := (s.io key).phase + 1 })) ∧
        (∀ l : Loc, (s.io key).phase = 8 → (sc = .sys → (s.io key).posted = []) → s.addPlace s.ci (wordAt ws 1).toNat = .ok l → s.me.entries < 32 →
          exec = .next (((s.logNow s.ci l.page).modIo key fun z => { z with puts := z.puts ++ [l.phys], phase := 9 }).route
            ⟨0, 0, 0, s.ci, l.phys, [l.phys], .cadd 1, false, false, srcCore (s.gcore s.ci), true, false, false, .unit key (wordAt ws 1).toNat false, s.cur % 8⟩)) ∧
        ((s.io key).phase = 9 → exec = .next (s.wr d 0).ownOver)))

/-! ## Capsules -/

/-- Capsule instructions without a capsule raise CAPSULE with tval 0; with one, reads of a word of its image, the edits of its itinerary and settings,
and CAPEND and CAPFWD (R359 to R363). CAPNEW (R351, R360) counts the creation, returns the new capsule's identity, and sends it on its way; CAPEND writes the tile
where it is told and, once that is performed, adds 1 to DONE and frees the blocks. A fault of CAPEND's tile write is read as log entry 32 says. -/
def Obligations.CapsuleInstructions : Prop :=
  (∀ (s : State) (sc : Scope) (d a b : Reg),
    (s.me.capsule = none → ∀ i ∈ [Instr.capfwd sc d a, .capend sc a, .caprd sc d a b, .capins sc d a b, .capdel sc d a, .capset sc d a b],
      exec i s = .next (s.trap cCAPSULE 0)) ∧
    ∀ h : HeldCapsule, s.me.capsule = some h → h.words.length = 24 →
      let edited := fun (ws : List Word) => (s.modMe fun t => { t with capsule := some { h with words := ws } }).wrote d 0
      let stops := fun (t : State) (n : Nat) (f : Nat → Word) => ∃ g, t.me.capsule = some g ∧ capLen g.words = n ∧ ∀ k < 16, capStop g.words k = f k
      let j := (s.rd a).toNat
      let n := capLen h.words
      (∀ k < 8, s.rd a = ofN (8 + k) → s.rd b = 0 → exec (.caprd sc d a b) s = .next (s.wrote d (wordAt h.words k))) ∧
      (∀ k < 16, s.rd a = ofN (16 + k) → s.rd b = 0 → exec (.caprd sc d a b) s = .next (s.wrote d (capStop h.words k))) ∧
      (n = 16 → exec (.capins sc d a b) s = .next (s.wrote d 1)) ∧
      (n < 16 → capPos h.words < j → j ≤ n → ∃ t, exec (.capins sc d a b) s = .next t ∧ (d ≠ 0 → t.rd d = 0) ∧
        stops t (n + 1) fun k => if k < j then capStop h.words k else if k = j then s.rd b else if k ≤ n then capStop h.words (k - 1) else capStop h.words k) ∧
      (n < 16 → ¬(capPos h.words < j ∧ j ≤ n) → exec (.capins sc d a b) s = .next (s.wrote d 2)) ∧
      (n ≤ 16 → capPos h.words < j → j < n → ∃ t, exec (.capdel sc d a) s = .next t ∧ (d ≠ 0 → t.rd d = 0) ∧
        stops t (n - 1) fun k => if k < j then capStop h.words k else if k + 1 < n then capStop h.words (k + 1) else if k + 1 = n then 0 else capStop h.words k) ∧
      (¬(capPos h.words < j ∧ j < n) → exec (.capdel sc d a) s = .next (s.wrote d 2)) ∧
      (s.rd a = 1 → exec (.capset sc d a b) s = .next (if (s.rd b).toNat > 3 then s.wrote d 5 else edited (putIn h.words 2 16 2 (s.rd b).toNat))) ∧
      (s.rd a = 3 → exec (.capset sc d a b) s = .next (edited (putIn h.words 2 32 32 ((s.rd b).toNat % 2 ^ 32)))) ∧
      (∀ k < 16, s.rd a = ofN (16 + k) → exec (.capset sc d a b) s = .next
        (if capPos h.words < k ∧ k < n then edited (listSet h.words (8 + k) (s.rd b)) else s.wrote d 2)) ∧
      (s.me.gate = false → s.unwatched [] → s.committed.released sc → s.rd a = 0 →
        exec (.capend sc a) s = .next ((s.committed.letGo.freeBlocks s.ci h.block).capDone s.ci h.words).ownOver ∧
        (capTbits h.words = s.landedTbits s.ci h → exec (.capfwd sc d a) s =
          let r := s.committed.forward h (s.landedTile s.ci h)
          .next (((r.2.wr d (ofN r.1)).retire 32).modMe Strand.checkpoint))) ∧
      (s.rd a ≠ 0 → (s.rd a).toNat % 64 = 0 → s.me.gate = false → ∀ (ls : List Loc) (u g : State), s.resolve s.ci s.user .store (s.rd a) (s.landedTbits s.ci h) = (.ok ls, u) →
        u.me.gate = false → u.unwatched [] → u.committed.released sc → (u.io u.ownKey).phase = 0 →
        let y := u.committed.modMe fun t => { t with gate := true, wsGate := [] }
        State.engPutAll { y with unit := u.ownKey } y.ci y.user false isWs
          [⟨s.rd a, s.landedTbits s.ci h, joinWords (y.landedTile y.ci h) % 2 ^ s.landedTbits s.ci h⟩] = (g, none) →
        exec (.capend sc a) s = .next (({ g.modIo u.ownKey fun z => { z with got := [], need := [], walked := [], rows := [], stale := [] } with unit := u.unit } : State).modIo
          u.ownKey fun z => { z with phase := 1 })) ∧
      (s.rd a ≠ 0 → s.me.gate = true → s.released sc →
        ((s.io s.ownKey).phase = 1 → (s.io s.ownKey).puts = [] → (s.io s.ownKey).bad = none →
          exec (.capend sc a) s = .next ((s.letGo.freeBlocks s.ci h.block).capDone s.ci h.words).ownOver) ∧
        ∀ v, s.me.gotten (s.rd a).toNat (capTbits h.words) = some (some v) → exec (.capfwd sc d a) s =
          let r := s.forward h (bitsWords v (capTbits h.words))
          .next (((r.2.wr d (ofN r.1)).retire 32).modMe Strand.checkpoint))) ∧
  (∀ (s : State) (sc : Scope) (d a b : Reg) (ws cs stops : List Word) (tile : Nat),
    (s.rd a).toNat % 512 = 0 → (s.rd b).toNat % 256 = 0 → s.loaded (s.rd a) 8 ws → s.loaded (s.rd b) 4 cs →
    (capnewBad ws cs = true → exec (.capnew sc d a b) s = .next (s.trap cCAPSULE (s.rd a))) ∧
    (capnewBad ws cs = false → (wordAt ws 1).toNat % 64 = 0 → s.loaded (wordAt ws 1) (wfld (wordAt ws 2) 0 5) stops →
      s.me.gotten (wordAt ws 0).toNat (wfld (wordAt ws 2) 5 16) = some (some tile) → s.unwatched [] →
      let n := (s.myCore.capSeq + 1) % 2 ^ 40
      let y := s.committed.modMyCore fun k => { k with capSeq := n }
      let image := y.newImage n ws cs stops
      wordAt image 0 = ofN (s.myCore.rank % 2 ^ 24 * 2 ^ 40 + n) ∧ capLen image = wfld (wordAt ws 2) 0 5 ∧ capTbits image = wfld (wordAt ws 2) 5 16 ∧
      s.me.gate = false → (s.newEnds image = true → s.committed.released .pkg) → exec (.capnew sc d a b) s = .next ((((y.goOn s.ci none image (bitsWords tile (wfld (wordAt ws 2) 5 16)) none).2.wr d (wordAt image 0)).retire 32).modMe
        Strand.checkpoint)))

/-! ## Requests at their homes -/

/-- PERFORM (R20 to R23, R47, R189, R196, R222, R223): a home that holds one request performs it whole: memory changes by what the request asks
of its granule and by nothing else, the watches a counter meets fire, and the answer goes out. -/
def Obligations.HomeResults : Prop :=
  ∀ (s : State) (h : HomeId) (r : Req), s.Inv → s.pick.home = h → s.pick.b = 0 → s.onlyAt h r → s.unlogged → (∀ g, h ≠ .bridge g) → r.gran % 64 = 0 →
    r.owner = .strand → r.ret = true → (s.pick.flag = true → s.pick.v = 0) →
    let does := fun (new : Option Word) (x : Resp) (more : State → Prop) => ∃ t, exec .perform s = .next t ∧ t.answers r x ∧
      (t.home h).arrivals = [] ∧ (match new with | some w => s.granWritten t r.gran w | none => t.mem = s.mem) ∧ more t
    let counted := fun (v : Nat) => does (some (ofN v)) (respFull 0) fun t =>
      (t.home h).watch = (s.home h).watch.filter (fun w => !(w.gran == r.gran && decide (w.target.toNat ≤ v))) ∧
      ∀ w ∈ (s.home h).watch, w.gran = r.gran → w.target.toNat ≤ v →
        (∀ core act seq part, w.kind = .waiter core act seq part → ∃ p ∈ t.flight, p.dst = .core core ∧ p.body = .resp act seq part (respFull (ofN v))) ∧
        ∀ core ctx rank fixed m, w.kind = .arm core ctx rank fixed m → ∃ p ∈ t.flight, p.dst = .core core ∧ p.ordered = true ∧ p.body = .message m
    let result := fun (op : AmoOp) (w : Nat) (fp : FpEnv) (o v c : Nat) =>
      match op with
      | .add => (o + v) % 2 ^ w | .and => o &&& v | .or => o ||| v | .xor => o ^^^ v
      | .min => if toSigned w v < toSigned w o then v else o | .max => if toSigned w o < toSigned w v then v else o
      | .minn => if v < o then v else o | .maxn => if o < v then v else o | .swap => v | .cas => if o = c then v else o
      | .fadd => (fadd .f32 fp (envLane fp 0 0) o v).1 | .fmax => fminmax .f32 fp.nanm true o v
    (s.queueAt r.gran = none → s.readAt r.gran = s.mem.readGran r.gran) ∧
    (r.op = .read → does none (match s.readAt r.gran with | some v => respFull v | none => respBad) fun _ => True) ∧
    ∀ old, s.mem.readGran r.gran = some old →
      (∀ mask bits, r.op = .write mask bits → ∃ new, (does (some new) (respFull 0) fun _ => True) ∧
        ∀ k < 64, new.getLsbD k = if mask.getLsbD k then bits.getLsbD k else old.getLsbD k) ∧
      (∀ op lo w v c fp, r.op = .amo op lo w v c fp → lo + w ≤ 64 → ∃ new fl same, (does (some new) ⟨old, false, fl, .full, same⟩ fun _ => True) ∧
        nfld new.toNat lo w = result op w fp (nfld old.toNat lo w) (v.toNat % 2 ^ w) (c.toNat % 2 ^ w) % 2 ^ w ∧
        ∀ k < 64, k < lo ∨ lo + w ≤ k → new.getLsbD k = old.getLsbD k) ∧
      (∀ n, r.op = .cadd n → counted (min (old.toNat + n.toNat) (2 ^ 64 - 1))) ∧ (∀ n, r.op = .cmax n → counted (max old.toNat n.toNat)) ∧
      ∀ target, r.op = .wait target →
        (target.toNat ≤ old.toNat → does none (respFull old) fun _ => True) ∧
        (old.toNat < target.toNat → s.watchFull h = false → does none ⟨0, false, 0, .accepted, false⟩ fun t =>
          (t.home h).watch = (s.home h).watch ++ [⟨r.gran, target, .waiter (s.gcore r.core) r.act r.seq r.part⟩])

/-- DELIVER, DRAIN, ANSWER, POSTED_WRITE_FLUSH, BANK_REPLAY_RETRY, BANKHASH_REWRITE and ESCAPE_CHANNEL_ENTRY (R47, R58, R61, R185, R186): each moves
what it names one step on, and no memory changes but by a posted write. The moment of the escape channel's entry is the model's reading (log entry
45). -/
def Obligations.OrderingSteps : Prop :=
  ∀ s : State, s.Inv →
    let a := s.pick.a
    let b := s.pick.b
    (∀ p r, s.flight[a]? = some p → p.body = .req r → s.mayMove a p = true → (∀ c, s.homeCore p.dst = some c → s.switchedOut c p.ctx = false) →
      (s.home p.dst).arrivals.length < arrivalCap p.dst → ∃ t, exec .deliver s = .next t ∧
        (t.home p.dst).arrivals = (s.home p.dst).arrivals ++ [r] ∧ t.flight = listDel s.flight a ∧ t.mem = s.mem) ∧
    (∀ sid e, s.strandOfAct a b = some sid → (s.strand sid).drain[s.pick.c]? = some e → (s.strand sid).mayDrain s.pkg s.pick.c = true →
      s.halted (dieOf a) = false → e.page = none → ∃ t, exec .drain s = .next t ∧ t.mem = s.mem ∧
        (t.strand sid).drain = listDel (s.strand sid).drain s.pick.c ∧ (t.strand sid).region = (s.strand sid).region ∧
        ∃ x ∈ (t.strand sid).out, x.seq = e.seq ∧ x.dest = .ack ∧ x.written = false ∧
          (∀ y ∈ x.parts, y.gran = e.gran ∧ ∃ m, y.op = .write (e.mask &&& m) (e.bits &&& m)) ∧ (isHost e.gran = false ∨ e.sa = true → x.parts.length = 1) ∧
          (0 < e.step → ∀ j < 64, e.mask.getLsbD j = true → ∃ y ∈ x.parts, ∃ m, m.getLsbD j = true ∧ y.op = .write (e.mask &&& m) (e.bits &&& m))) ∧
    (∀ p c act seq part v fl same sid y z, s.flight[a]? = some p → s.passes p = true → p.dst = .core (s.gcore c) → c < 2048 → s.switching (dieOf c) = false →
      p.body = .resp act seq part ⟨v, false, fl, .full, same⟩ → s.unlogged → s.strandOfAct c act = some sid →
      (∀ x ∈ (s.strand sid).out, x.parts.all (·.sent) = true) → (s.strand sid).out.find? (fun x => x.seq == seq) = some y → y.written = false →
      y.parts[part]? = some z → (∀ q ∈ y.parts, q.bad = false) → (∀ i q, y.parts[i]? = some q → i ≠ part → q.valued = true) →
        let got := fun (more : Strand → Prop) => ∃ t, exec .answer s = .next t ∧ t.flight = listDel s.flight a ∧ t.mem = s.mem ∧
          (t.strand sid).pc = (s.strand sid).pc ∧ more (t.strand sid)
        let word := fun (i : Nat) => match y.parts[i]? with
          | some q => mergeBits (if i = part then v else q.value) q.ovMask q.ovBits
          | none => 0
        (∃ N : Nat, (∀ j, N.testBit j = match pieceBit y.elems.flatten j with | some (i, b) => (word i).getLsbD b | none => false) ∧
          (∀ d w sx, y.dest = .sreg d w sx → got fun t => t.regs = (s.strand sid).regs.wr d (if sx then sextW w N else zextW w N)) ∧
          (∀ d w, y.dest = .vreg d w → got fun t => t.regs = (s.strand sid).regs.wrV d (BitVec.ofNat 1024 N)) ∧
          ∀ tag gen, y.dest = .slot tag gen → (s.strand sid).slotWaits tag gen = true → (s.strand sid).slots[tag.val].drop = false → got fun t =>
            t.regs = (s.strand sid).regs ∧ t.slots[tag.val].state = .landed ∧ t.slots[tag.val].value = BitVec.ofNat 1024 N ∧
            t.slots[tag.val].stamp = (s.strand sid).stamp) ∧
        ∀ d lo w, y.dest = .amo d lo w → y.parts = [z] → got fun t => t.regs = (s.strand sid).regs.wr d (ofN (nfld v.toNat lo w))) ∧
    (∀ p, (s.die a).posted[b]? = some p → (∀ x ∈ (s.die a).posted.take b, x.meets p.cover = false) → s.locked p.cover = false →
      p.gran % 64 = 0 → ∃ t, exec .postedWriteFlush s = .next t ∧
      s.granWritten t p.gran (mergeBits ((s.mem.readGran p.gran).getD 0) p.mask p.bits) ∧ (t.die a).posted = listDel (s.die a).posted b ∧
      ∀ r ∈ p.waiters, r.owner = .strand → (∀ x ∈ listDel (s.die a).posted b, r ∉ x.waiters) → t.answers r ⟨0, false, 0, .sysNow, false⟩) ∧
    (let h : HomeId := .core (s.gcore a)
     ∀ r n, (s.home h).replay[b]? = some (r, n) → n ≤ s.clock → s.homeIdle h = false →
      (s.bankIsBusy a r = true → ∃ t, exec .bankReplayRetry s = .next t ∧ (t.home h).replay = listSet (s.home h).replay b (r, s.clock + 2) ∧ t.mem = s.mem) ∧
      (s.bankIsBusy a r = false → s.clearOf h r → s.unlogged → r.owner = .strand → (s.pick.flag = true → s.pick.v = 0) →
        ∀ v, r.op = .read → s.readAt r.gran = some v → ∃ t, exec .bankReplayRetry s = .next t ∧
        (t.home h).replay = listDel (s.home h).replay b ∧ t.mem = s.mem ∧ t.answers r (respFull v))) ∧
    (let h : HomeId := .core (s.gcore a)
     (s.home h).rewrite = true → ∃ t, exec .bankhashRewrite s = .next t ∧ t.homeIdle h = true ∧
      (t.home h).rewrite = false ∧ (t.home h).busyTo = s.clock + 32768 ∧ t.mem = s.mem) ∧
    (∀ p, s.flight[a]? = some p → p.ordered = false → p.escape = false → p.since + (s.core (routerOf p.src)).escwait.toNat ≤ s.clock →
      ∃ t, exec .escapeChannelEntry s = .next t ∧ t.flight = listSet s.flight a { p with escape := true } ∧ t.mem = s.mem)

/-! ## Leases, walkers and agents -/

/-- LEASE_GRANT, LEASE_RECALL, LEASE_IDLE_RETURN (R192) and PAGE_WALK_COMPLETE (R113, R164). TLBINV_COMPLETE, HARVEST_COMPLETE, RANKMAP_COMPLETE (R27,
R116, R156, R157, R232): the operation is over and its strand goes on; a TLBINV has the faults it covers walked again, a HARVEST leaves no dirty log
in its context, and what was held for a released rank is on its way. DIRTY_LOG_MERGE (R117) empties one log; FAULT_REWALK (R116) lets the
continuations of a page that is mapped resume. When a TLBINV is over is the model's reading (log entry 37). -/
def Obligations.AgentSteps : Prop :=
  (∀ s : State,
    let q := s.pick.a
    let line := s.pick.b
    let own := s.lineHome q line
    let unit : HomeId := .quadUnit (s.pkg * 512 + q)
    let gone := fun (t : State) => (t.quad q).leases = (s.quad q).leases.filter (fun l => l.line != line) ∧ t.mem = s.mem
    ((∃ r ∈ (s.home unit).arrivals, r.onLine line = true) → s.lessee line = none → s.lineAway q line = false → (∀ r ∈ (s.home own).arrivals, r.onLine line = false) →
      (∀ r ∈ (s.home own).replay, r.1.onLine line = false) → (∀ x ∈ (s.home own).holds, ∀ g ∈ x.block, lineOf g ≠ line) →
      (∀ w ∈ (s.home own).watch, lineOf w.gran ≠ line) → (s.quad q).leases.length < 16 → ∃ t, exec .leaseGrant s = .next t ∧
        (t.quad q).leases = (s.quad q).leases ++ [⟨line, s.clock⟩] ∧ t.mem = s.mem) ∧
    ((∀ r ∈ (s.home unit).arrivals, lineOf r.gran ≠ line) →
      ((∃ r ∈ (s.home own).arrivals, r.onLine line = true) → s.lessee line = some q → ∃ t, exec .leaseRecall s = .next t ∧ gone t ∧
        (t.quad q).predictor.get (predIndex line) 0 = (s.quad q).predictor.get (predIndex line) 0 - 2) ∧
      ∀ l, (s.quad q).leases.find? (fun l => l.line == line) = some l → l.last + 2048 ≤ s.clock → ∃ t, exec .leaseIdleReturn s = .next t ∧ gone t) ∧
    ∀ w v, (s.quad q).walks[s.pick.b]? = some w → (s.quad q).onWalker s.pick.b = true → w.fault = none →
      v = (s.modQuad q fun x => { x with walks := listDel x.walks s.pick.b }) →
      (∀ act fetch x u, w.who = .strand act fetch → v.endWalk w.core fetch w.va = (x, u) → exec .pageWalkComplete s =
        .next (u.modAct w.core act fun t => { t with walked := t.walked ++ [⟨fetch, w.va / 2 ^ 19, x⟩] })) ∧
      ∀ act seq tag gen user sid a level pte at_ x ls u, w.who = .tagged act seq tag gen user → s.switching (dieOf w.core) = false →
        s.strandOfAct w.core act = some sid → (s.strand sid).out.find? (fun x => x.seq == seq) = some a → (s.strand sid).slotWaits tag gen = true →
        v.endWalk w.core false w.va = (.leaf level pte at_, x) →
        let slot := (s.strand sid).slots[tag.val]
        x.tagResolve w.core user slot.addr slot.loadBits = (.ready ls, u) → ∃ t, exec .pageWalkComplete s = .next t ∧ t.mem = x.mem ∧
          (t.quad q).walks = listDel (s.quad q).walks s.pick.b ∧
          ∃ b ∈ (t.strand sid).out, b.seq = seq ∧ b.walk = false ∧ b.dest = .slot tag slot.gen ∧ b.parts.map (·.gran) = (slot.cuts ls).map (·.loc.phys)) ∧
  (∀ (s : State) (p : Pending) (sid : Nat),
    let k := s.pick.a
    let ended := fun (t : State) => t.pendings = listDel s.pendings k ∧ (t.strand sid).block = none ∧ (t.strand sid).regs = (s.strand sid).regs
    (s.pendings[k]? = some p → s.strandOfAct p.core p.act = some sid →
      (p.op.isInv = true → ∃ t, exec .tlbinvComplete s = .next t ∧ ended t ∧ t.mem = s.mem ∧
        ∀ q, (t.quad q).faults = (s.quad q).faults.map fun f => if p.op.coversFault f then { f with again := true } else f) ∧
      (∀ ctx, p.op = .harvest ctx → ∃ t, exec .harvestComplete s = .next t ∧ ended t ∧ ∀ c, s.ctxOf (dieOf c) = ctx → (t.core c).dirtyLog = []) ∧
      ∀ rank release, p.op = .rankmap rank release → ∃ t, exec .rankmapComplete s = .next t ∧ ended t ∧ t.mem = s.mem ∧
        (release = true → (∀ x ∈ listDel s.pendings k, ∀ b, x.op ≠ .rankmap rank b) → ∀ c, ¬(rankState (s.rankEntry c rank) = 2 ∧ rankCore (s.rankEntry c rank) = s.gcore c) →
          ∀ x ∈ (t.core c).rankHeld, x.isFor (s.ctxOf (dieOf p.core)) rank = false)) ∧
    (1024 ≤ (s.core k).dirtyLog.length → ∃ t, exec .dirtyLogMerge s = .next t ∧ (t.core k).dirtyLog = [] ∧ (t.core k).itlb = (s.core k).itlb ∧
      ∀ c, c ≠ k → t.core c = s.core c) ∧
    ∀ f, (s.quad k).faults[s.pick.b]? = some f → f.again = true →
      let found := walkRoot s.mem s.pkg (s.ctxRegsOf (dieOfQuad k) f.ctx).ptroot (f.page * 2 ^ 19)
      (found = .page → ∃ t, exec .faultRewalk s = .next t ∧ (t.quad k).faults = listSet (s.quad k).faults s.pick.b { f with again := false } ∧
        t.mem = s.mem) ∧
      ∀ c act, found ≠ .page → f.conts = [(c, act)] → s.strandOfAct c act = none → ((s.core c).images.any fun t => t.act == act) = true →
        (∀ sid pg kind addr, (s.strand sid).block ≠ some (.faultTable pg kind addr)) → ∃ t, exec .faultRewalk s = .next t ∧
          (t.quad k).faults = listDel (s.quad k).faults s.pick.b ∧ (t.core c).resume = (s.core c).resume ++ [(act, s.clock)] ∧ t.mem = s.mem)

/-! ## Waits that end -/

/-- SFU_RESULT, YIELD_EXPIRY, CWAITT_TIMEOUT and BARRIER_PHASE_COMPLETE (R162, R168, R215, R223, R230). Cycles are the model's (log entry 3), and an
SFU result is computed as log entry 19 says. -/
def Obligations.WaitsEnd : Prop :=
  ∀ (s : State) (sid : Nat), s.Inv →
    (∀ r, (s.quad s.pick.a).sfu[s.pick.b]? = some r → r.ready ≤ s.clock → s.unlogged → s.switchedOut r.core r.ctx = false →
      s.strandOfAct r.core r.act = some sid → (s.strand sid).slotWaits r.tag r.gen = true → (s.strand sid).slots[r.tag.val].drop = false → ∃ t, exec .sfuResult s = .next t ∧
        (t.quad s.pick.a).sfu = listDel (s.quad s.pick.a).sfu s.pick.b ∧ (t.strand sid).slots[r.tag.val].state = .landed ∧
        (t.strand sid).slots[r.tag.val].value = BitVec.ofNat 1024 (sfuEval r.fn r.fp r.x).1 ∧
        (t.strand sid).slots[r.tag.val].stamp = (s.strand sid).stamp ∧ (t.strand sid).regs = (s.strand sid).regs ∧ t.mem = s.mem) ∧
    (∀ n, s.pick.a = sid → (s.strand sid).block = some (.yield n) → n ≤ s.clock → exec .yieldExpiry s =
      .next (s.modStrand sid fun t => { t with block := none, status := ⟨.ready, t.status.trapped, t.status.pmode, t.status.mode⟩ })) ∧
    (∀ seq dl a p ps, s.pick.a = sid → (s.strand sid).block = some (.cwait seq (some dl) false) → dl ≤ s.clock →
      (s.strand sid).out.find? (fun x => x.seq == seq) = some a → a.parts = p :: ps → p.done = true → ∃ t r, exec .cwaittTimeout s = .next t ∧
        (t.strand sid).block = some (.cwait seq (some dl) true) ∧ t.mem = s.mem ∧ r.op = .cancel ∧ r.act = (s.strand sid).act ∧ r.seq = seq ∧
        r.gran = p.gran ∧ t.sent r) ∧
    (let key := s.pick.a
     let b := s.bars.get key Barrier.init
     s.membersRun key = true → b.configured = true → (∀ n ∈ b.arrived, 0 < n) → barScope key ≠ .pod → ∃ t, exec .barrierPhaseComplete s = .next t ∧
      (t.bars.get key Barrier.init).phase = b.phase + 1 ∧ (t.bars.get key Barrier.init).leads = b.leads.map (· - 1) ∧
      ((s.strand sid).block = some (.barArr key) → (t.strand sid).block = none ∧ (t.strand sid).status.state = .ready) ∧
      t.mem = s.mem ∧ ∀ m ∈ barMembers (barScope key) (barNodeOf key) b.word0, ∃ r, t.sent r ∧ r.op = .cadd 1 ∧
        r.gran = localAddr (s.gcore (memberCore (barScope key) m)) (phaseOff (barScope key) b.pcoff m))

/-! ## Activations -/

/-- MESSAGE_ARRIVAL, SPILL_REINJECT and DISPATCH (R9, R208, R211): a message enters its inbox with its stamp; a strand dispatched to it starts at its
handler with the payload in s1 to s6, the header in s7, m0 all ones and everything else zero. INHERITANCE_NOTICE, STEAL_REQUEST, STEAL_VICTIM_REPLY
and STEAL_BACKOFF_EXPIRY (R212 to R214): a victim ships half its records, rounded up, topmost first, as KIND 6. The order of a thief's directions and
what becomes of the records it gets are the model's (log entry 16). -/
def Obligations.ActivationSteps : Prop :=
  (∀ (s : State) (c : Nat) (m : Msg), c < 2048 →
    (∀ p, s.flight[s.pick.a]? = some p → p.body = .message m → p.dst = .core (s.gcore c) → p.rank = none → s.mayMove s.pick.a p = true →
      s.switchedOut c p.ctx = false → (s.core c).ringTakes m = true → ∃ t, exec .messageArrival s = .next t ∧
        (t.core c).inbox = (s.core c).inbox ++ [⟨m, s.clock⟩] ∧ t.flight = listDel s.flight s.pick.a ∧ t.mem = s.mem) ∧
    (∀ n rest, s.pick.a = c → (s.core c).rankHeld = [] → (s.core c).spill = .message ⟨m, n⟩ :: rest → ((s.core c).inbox.filter fun y => y.msg.prio == m.prio).length < 256 →
      ∃ t, exec .spillReinject s = .next t ∧ (t.core c).inbox = (s.core c).inbox ++ [⟨m, n⟩] ∧ (t.core c).spill = rest ∧ t.mem = s.mem) ∧
    ∀ n sid, s.pick.a = c → s.unlogged → (s.core c).park = false → s.dieRuns (dieOf c) = true → (s.core c).inbox = [⟨m, n⟩] → (s.core c).deque = [] →
      (s.core c).resume = [] → s.resumeHeld c = none → s.recvFor c m.w0 = none → s.freeStrandOf c = some sid → s.nanMatches c m = true → ∃ t, exec .dispatch s = .next t ∧
        (t.core c).inbox = [] ∧ (∀ k, k ≠ sid → t.strand k = s.strand k) ∧ t.mem = s.mem ∧ (t.strand sid).bound = true ∧ (t.strand sid).pc = m.w0 ∧
        (t.strand sid).status = ⟨.ready, false, false, false⟩ ∧ (t.strand sid).region = [] ∧
        (∀ r : Reg, (t.strand sid).regs.rd r = (match r.val with
          | 1 => m.w2 | 2 => m.w3 | 3 => m.w4 | 4 => m.w5 | 5 => m.w6 | 6 => m.w7 | 7 => m.w1 | _ => 0)) ∧
        (∀ r : Fin 32, (t.strand sid).regs.v[r] = 0) ∧ ∀ r : Fin 8, (t.strand sid).regs.m[r] = if r = 0 then BitVec.allOnes 32 else 0) ∧
  (∀ (s : State) (c : Nat), c < 2048 →
    (∀ p d g cls, s.flight[s.pick.a]? = some p → p.body = .inherit g cls false → p.dst = .bridge (s.gdie d) → d < 8 → s.mayMove s.pick.a p = true →
      (∀ x ∈ s.flight.take s.pick.a, x.isNotice p.dst g = false) → (∀ e ∈ (s.die d).inherit, e.1 ≠ g) → (s.die d).inherit.length < 256 → ∃ t, exec .inheritanceNotice s = .next t ∧
        (t.die d).inherit = (s.die d).inherit ++ [(g, cls)] ∧ t.flight = listDel s.flight s.pick.a) ∧
    (∀ p d g cls, s.flight[s.pick.a]? = some p → p.body = .inherit g cls true → p.dst = .bridge (s.gdie d) → d < 8 → s.mayMove s.pick.a p = true →
      (∀ x ∈ s.flight.take s.pick.a, x.isNotice p.dst g = false) → ∃ t, exec .inheritanceNotice s = .next t ∧ (t.die d).inherit = (s.die d).inherit.filter fun e => e.1 != g) ∧
    (∀ dir row col more, s.pick.a = c → s.mayStealNow c = true → (s.core c).steal.viaQuad = false → s.stealDirs c = (dir, row, col) :: more →
      ∃ t p, exec .stealRequest s = .next t ∧ (t.core c).steal.pending = true ∧ (t.core c).steal.next = (dir + 1) % 4 ∧ t.flight = s.flight ++ [p] ∧
        p.dst = .core (s.gcore (coreAt (dieOf c) row col)) ∧ p.ordered = true ∧ p.body = .stealReq (s.gcore c) false) ∧
    (∀ p thief, s.flight[s.pick.a]? = some p → p.body = .stealReq thief false → p.dst = .core (s.gcore c) → p.rank = none →
      s.mayMove s.pick.a p = true → s.switchedOut c p.ctx = false → s.pick.flag = false →
      ((s.core c).park = true → ∃ t, exec .stealVictimReply s = .next t ∧ (t.core c).asks = (s.core c).asks ++ [thief] ∧
        t.flight = listDel s.flight s.pick.a ∧ (t.core c).deque = (s.core c).deque) ∧
      ((s.core c).park = false → s.dieRuns (dieOf c) = true → s.unlogged → (s.core c).asks = [] →
      let dq := (s.core c).deque
      let stay := dq.length - (dq.length + 1) / 2
      ∃ t x, exec .stealVictimReply s = .next t ∧ (t.core c).deque = dq.take stay ∧ t.flight = listDel s.flight s.pick.a ++ [x] ∧ x.dst = .core thief ∧
        ∃ ms, x.body = .stealReply ms ∧ ms.map (fun m => (m.w0, m.words.drop 2)) = (dq.drop stay).reverse.map (fun q => (q.msg.w0, q.msg.words.drop 2)) ∧
          ∀ m ∈ ms, m.kind = 6)) ∧
    ∀ n, s.pick.a = c → (s.core c).steal.backoff = some n → n ≤ s.clock → ∃ t, exec .stealBackoffExpiry s = .next t ∧ (t.core c).steal.backoff = none ∧
      (t.core c).inbox = (s.core c).inbox ∧ ∀ k, k ≠ c → t.core k = s.core k)

/-- LAUNCH_RING_REGISTER, TAIL_NOTICE, LAUNCH_RING_POLL and LAUNCH_EXPANSION (R205 to R207): a ring is known by its block; its tail is learnt from a
notice or by a poll of host memory; a record of one message puts it into its core's inbox and moves HEAD. What makes a ring invalid, and how much one
step expands, are the model's readings (log entry 35). -/
def Obligations.LaunchSteps : Prop :=
  ∀ (s : State) (d : Nat), d < 8 → s.Inv →
    (s.pick.a = d → ∃ t, exec .launchRingRegister s = .next t ∧ (t.launchRing d (ringKey (wfld (s.die d).ctxsel 0 4) s.pick.b)).block = s.pick.w ∧
      ∀ k, k ≠ ringKey (wfld (s.die d).ctxsel 0 4) s.pick.b → t.launchRing d k = s.launchRing d k) ∧
    (∀ p key r, s.flight[s.pick.a]? = some p → p.body = .tail d key → s.mayMove s.pick.a p = true → key / 16 = s.ctxOf d →
      (s.launchRing d key).block ≠ 0 → (s.launchRing d key).invalid = false → s.launchBlock d (s.launchRing d key).block = some r →
      ∃ t, exec .tailNotice s = .next t ∧ (t.launchRing d key).tail = r.tail.toNat ∧ t.flight = listDel s.flight s.pick.a ∧ t.mem = s.mem) ∧
    (∀ r, s.pick.a = d → (s.launchRing d s.pick.b).block ≠ 0 → (s.launchRing d s.pick.b).invalid = false → s.pick.b / 16 = s.ctxOf d → (s.die d).frozen = 0 →
      s.launchBlock d (s.launchRing d s.pick.b).block = some r → isHost r.tailGran = true → (s.launchRing d s.pick.b).polled + 1024 ≤ s.clock →
      ∃ t, exec .launchRingPoll s = .next t ∧ (t.launchRing d s.pick.b).tail = r.tail.toNat ∧ (t.launchRing d s.pick.b).polled = s.clock ∧ t.mem = s.mem) ∧
    ∀ r : Ready, s.pick.a = d → s.unlogged → s.dieRuns d = true → (∀ k ∈ s.ringKeys d, s.offer d k ≠ .bad) → (s.die d).expansion = none →
      s.chooseRecord d = some r → launchBad r.ws = false → launchMode r.ws = 0 → launchCount r.ws = 1 → wordAt r.ws 11 = 0 →
      s.switchedOut (launchCore r.ws 0) (s.ctxOf d) = false → (s.core (launchCore r.ws 0)).door = none → (s.core (launchCore r.ws 0)).ringTakes (launchMsg r.ws 0) = true →
      (r.blk.locs.headD ⟨0, false, none⟩).phys % 64 = 0 → ∃ t, exec .launchExpansion s = .next t ∧
        (t.core (launchCore r.ws 0)).inbox = (s.core (launchCore r.ws 0)).inbox ++ [⟨launchMsg r.ws 0, s.clock⟩] ∧
        (t.die d).expansion = none ∧ s.granWritten t (r.blk.locs.headD ⟨0, false, none⟩).phys (r.blk.head + 1)

/-! ## The matrix unit's steps -/

/-- TILE_TASK_ISSUE, TILE_TASK_COMPLETE, PAIR_COMMIT, PAIR_TIMEOUT, GROUP_START, GROUP_FINISH, MATRIX_COMMAND_START and MATRIX_COMMAND_COMPLETE (R283,
R284, R286 to R292, R295, R308): a task issues to a free array for its cycles and then writes its tiles; both halves of a pair commit together, or a
half that has waited too long is dropped; a walker starts and ends its groups; ACC.CLR zeroes its tiles. How halves are matched, and the order of a
group's tiles, are the model's readings (log entries 27 and 28). -/
def Obligations.MatrixSteps : Prop :=
  ∀ s : State,
    let q := s.pick.a
    let k := s.pick.b
    (∀ array j t, s.dieRuns (dieOfQuad q) = true → s.unlogged → s.dropUnread q = none → (s.quad q).arrays.findIdx? (·.isNone) = some array → j < 4 →
      ([3, 2, 1, 0].filter fun i => s.headOpen q i) = [j] → (s.quad q).queue j = [.task t] → recPair t.rec_ = false → ∃ u r, exec .tileTaskIssue s = .next u ∧
        (u.quad q).arrays[array]? = some (some r) ∧ r.task = some t ∧ r.start = s.clock ∧
        r.len = taskCycles (recTyA t.rec_) (recTyB t.rec_) (wfld (wordAt t.rec_ 1) 16 16) ∧ (u.quad q).queue j = [] ∧
        (u.quad q).skips.get j 0 = 0 ∧ ∀ n, u.tile q n = s.tile q n) ∧
    (∀ r t x, (s.quad q).arrays.getD k none = some r → r.task = some t → r.start + r.len ≤ s.clock → recPair t.rec_ = false → t.tiles = [x] →
      wordAt t.rec_ 4 = 0 → ∃ u, exec .tileTaskComplete s = .next u ∧ (u.quad q).arrays.getD k none = none ∧
        s.tileTook u q x (wfld (wordAt t.rec_ 1) 48 16) t.cols ((s.taskWork q t).1.headD []) ∧ (∀ n, n ≠ x → u.tile q n = s.tile q n) ∧ u.mem = s.mem) ∧
    (∀ h o x y, (s.quad q).halves[k]? = some h → s.otherHalf q h.task.rec_ = some o → recLead h.task.rec_ = true → h.full = true → o.full = true →
      let p := dieOfQuad q * 64 + recPartner h.task.rec_
      p ≠ q → h.task.tiles = [x] → o.task.tiles = [y] → ∀ hs os, h.cells = [hs] → o.cells = [os] → s.tileTasked q h.task.stamp x = false → s.tileTasked p o.task.stamp y = false →
      wordAt h.task.rec_ 4 = 0 → wordAt o.task.rec_ 4 = 0 → ∃ u, exec .pairCommit s = .next u ∧
        s.tileTook u q x (wfld (wordAt h.task.rec_ 1) 48 16) h.task.cols hs ∧ s.tileTook u p y (wfld (wordAt o.task.rec_ 1) 48 16) o.task.cols os ∧
        (u.quad q).halves = (s.quad q).halves.filter (fun z => z.task.stamp != h.task.stamp) ∧
        (u.quad p).halves = (s.quad p).halves.filter (fun z => z.task.stamp != o.task.stamp)) ∧
    (∀ h, (s.quad q).halves[k]? = some h →
      (if s.pick.flag then h.full = false else recLead h.task.rec_ = true ∧ s.switching (dieOfQuad q) = false ∧ h.start + (s.quad q).pairtmo.toNat ≤ s.clock) →
      ∃ u, exec .pairTimeout s = .next u ∧ (∀ z ∈ (u.quad q).halves, z.task.stamp ≠ h.task.stamp) ∧ ∀ p n, u.tile p n = s.tile p n) ∧
    (∀ w, s.walkerAt q k = some w → s.walkerBad w = none → s.dieRuns (dieOfQuad q) = true →
      (∀ g r u, w.runs[s.pick.c]? = none → w.runs.length < w.lanes → (∃ i < w.lanes, ∀ z ∈ w.runs, z.lane ≠ i) →
        State.nextGroup { s with unit := s.walkerKey w } w = (.ok (some (g, r, false)), u) → u.walkerAt q k = some w → u.groupSpan w.core r = none →
        ∃ t lane, exec .groupStart s = .next t ∧ t.mem = u.mem ∧ lane < w.lanes ∧ (∀ z ∈ w.runs, z.lane ≠ lane) ∧ t.walkerAt q k = some
          { w with begun := g :: w.begun, runs := w.runs ++ [⟨g, r, lane, 0, 0, false, false, grpM r == 0 || grpN r == 0 || grpK r == 0⟩] }) ∧
      ∀ g u, w.runs[s.pick.c]? = some g → g.loaded = false → g.done = false → State.loadChunk { s with unit := s.runKey w g } q w g = (.ok (), u) →
        u.walkerAt q k = some w → ∃ t, exec .groupStart s = .next t ∧ t.mem = u.mem ∧
          t.walkerAt q k = some { w with runs := w.runs.map fun z => if z.lane = g.lane then { z with loaded := true } else z } ∧
          ∀ n, t.slot q n = u.slot q n) ∧
    (∀ w g, s.walkerAt q k = some w → w.runs[s.pick.c]? = some g → g.busy = false →
      (g.done = true → s.walkerBad w = none → (s.io (s.runKey w g)).puts = [] → wordAt w.desc 2 = 0 →
        (w.fin + 1 < w.limit → ∃ t, exec .groupFinish s = .next t ∧
          t.walkerAt q k = some { w with runs := w.runs.filter fun z => z.lane != g.lane, fin := w.fin + 1 }) ∧
        (w.limit ≤ w.fin + 1 → (s.quad q).queue k = [.walker w] → ∃ t, exec .groupFinish s = .next t ∧ (t.quad q).queue k = [])) ∧
      (s.walkerBad w ≠ none → (∀ z ∈ w.runs, z.busy = false) → (∀ x ∈ s.walkerKeys w, (s.io x).puts = []) → (s.quad q).queue k = [.walker w] →
        ∃ t, exec .groupFinish s = .next t ∧ (t.quad q).queue k = [])) ∧
    (∀ x rest, (s.core q).mq = x :: rest → s.matReady (quadOf q) x = true → s.dieRuns (dieOf q) = true → s.drainSpan q x = none →
      ∃ t, exec .matrixCommandStart s = .next t ∧ (t.core q).mq = rest ∧ (t.core q).mrun = (s.core q).mrun ++ [{ x with start := s.clock, amt :=
        if x.major = 0x30 ∧ x.op = 2 ∧ (s.slot (quadOf q) x.loadSlot).st = 0 then 1 else x.amt }]) ∧
    ∀ x, (s.core q).mrun[k]? = some x → x.bad = none → x.sent = false → (s.io (s.unitKey q 7 x.n)).puts = [] → s.dieFinishes (dieOf q) = true →
      x.major = 0x32 → x.op = 0 → x.ctr = 0 → ∃ t, exec .matrixCommandComplete s = .next t ∧
      (∀ n ∈ accTiles x, t.tile (quadOf q) n = List.replicate 4096 0) ∧ (∀ n, n ∉ accTiles x → t.tile (quadOf q) n = s.tile (quadOf q) n) ∧
      (t.core q).mrun = (s.core q).mrun.filter (fun y => y.n != x.n) ∧ t.mem = s.mem

/-! ## The copy engine and the weight store -/

/-- COPY_COMMAND_START, COPY_CHUNK, COPY_COMMAND_COMPLETE and ENGINE_FAULT_STOP (R316 to R322): a command starts, reads its next chunk and sends its bits
to their homes, and is over with its byte count once every write is performed, or stops with a record. WS_BANK_REFRESH, WS_PHASE_CHANGE and the
requests of a phase (R324, R325). That the writes of a chunk are sent in one step is the model's choice (log entry 13). -/
def Obligations.CopySteps : Prop :=
  ∀ s : State,
    let c := s.pick.a
    let k := s.pick.b
    let i := s.pick.c
    let run := (s.eng c k).run
    (∀ x rest, (s.eng c k).queue = x :: rest → k < 4 → run.length < 4 → s.dieRuns (dieOf c) = true → s.ownSpans c x.dstBits x.dstRows = none →
      ∃ t, exec .copyCommandStart s = .next t ∧ (t.eng c k).queue = rest ∧ (t.eng c k).run = run ++ [{ x with start := s.clock }] ∧ t.mem = s.mem) ∧
    (∀ x vs v y u w ls, run[i]? = some x → k < 4 → x.bad = none → x.sent = false → s.dieRuns (dieOf c) = true → s.toPeer c x = false →
      s.overlaps c x = false → x.op ≠ 2 →
      let key := s.unitKey c k x.n
      let h := x.chunk false x.pos
      let src := x.srcRow h.row + ofN h.lo
      let dst := x.dstRow h.row + ofN h.lo
      s.chunkFree c k (run.take i) x [(src, h.n)] [(dst, h.n)] = true → dst.toNat + h.n ≤ 2 ^ 64 →
      State.engRuns { s with unit := key } c x.user (fun _ => false) [(src, h.n)] = (.ok vs, y) → y.engRead c x.user src h.n = (.ok v, u) →
      u.engLocs c x.user (x.op == 4) dst h.n = (.ok ls, w) → (w.eng c k).run = run → (∀ l ∈ ls, l.page = none ∧ ∀ p ∈ (w.io key).puts, grainUnit p ≠ l.phys) →
      (ls.map (·.phys)).Nodup →
      ∃ t es, exec .copyChunk s = .next t ∧ t.mem = w.mem ∧ (t.eng c k).run[i]? = some
        { x with pos := x.pos + ceilDiv h.n 1024, flags := orFlags x.flags 0, sent := decide (x.chunks ≤ x.pos + ceilDiv h.n 1024) } ∧
        stores es dst.toNat h.n v ∧ es.map (·.gran) = (cutsOf 8 dst.toNat h.n ls).map (·.loc.phys) ∧
        ∀ e ∈ es, ∃ r, t.sent r ∧ r.op = .write e.mask e.bits ∧ r.gran = e.gran ∧ r.owner = .unit key e.addr.toNat true) ∧
    (∀ x, run[i]? = some x → k < 4 → x.bad = none → x.sent = true → x.cells = 0 → (s.io (s.unitKey c k x.n)).puts = [] → s.dieFinishes (dieOf c) = true →
      x.op ≠ 2 → x.amt = 0 → ∃ t, exec .copyCommandComplete s = .next t ∧ (∀ y ∈ (t.eng c k).run, y.n ≠ x.n) ∧
        t = s.endCmd c k x 0 (if x.op = 3 ∧ wordAt x.desc 3 ≠ 0 then (wordAt x.desc 3).toNat else (x.rows * x.len + 7) / 8)) ∧
    (∀ x cause addr, k < 7 → run[i]? = some x → x.bad = some (cause, addr) → x.cells = 0 → (s.io (s.unitKey c k x.n)).puts = [] → ∃ t, exec .engineFaultStop s = .next t ∧
      t = (s.cmdFault c x cause addr).endCmd c k x 1 0 ∧ ∀ y ∈ (t.eng c k).run, y.n ≠ x.n) ∧
    (∀ x cause addr, k = 7 → (s.core c).mrun[i]? = some x → x.bad = some (cause, addr) → x.cells = 0 → (s.io (s.unitKey c 7 x.n)).puts = [] → ∃ t, exec .engineFaultStop s = .next t ∧
      ∀ y ∈ (t.core c).mrun, y.n ≠ x.n) ∧
    exec .wsBankRefresh s = .next s ∧
    ((s.die c).wsWant = some true → s.wsLoading c = false → s.wsWriting c = false → ∃ t, exec .wsPhaseChange s = .next t ∧ (t.die c).wsPhase = true ∧ (t.die c).wsWant = none) ∧
    ((s.die c).wsWant = some false → s.wsReading c = false → ∃ t, exec .wsPhaseChange s = .next t ∧ (t.die c).wsPhase = false ∧ (t.die c).wsWant = none) ∧
    (∃ t, exec .wsReadPhaseRequest s = .next t ∧ (t.die c).wsPhase = (s.die c).wsPhase ∧ (t.die c).wsWant = if (s.die c).wsPhase then none else some true) ∧
    ∃ t, exec .wsWritePhaseRequest s = .next t ∧ (t.die c).wsPhase = (s.die c).wsPhase ∧ (t.die c).wsWant = if (s.die c).wsPhase then some false else none

/-! ## The Sifter and the router -/

/-- TOPK.SEND and TOPK.RD (R343, R345): a score goes to the rank's core, or status 1 where the rank has none; a read of a mailbox is a request to
the own home unit, which answers BAD where no configuration names it, and empties it. SIFTER_COMMAND_COMPLETE, ROUTER_COMMAND_COMPLETE, TOPK_CFG_COMPLETE, KEYED_BATCH and TOPK_SCORE (R329, R336, R338, R341,
R342): a table, a binding and a mailbox configuration take effect; a batch is processed pair by pair, a pair going to the first
empty entry or being summed into its own; a score enters its mailbox. The steps a command takes are the model's choice, and what the unit does besides is
read as log entries 13 and 31 say. -/
def Obligations.RouterSteps : Prop :=
  (∀ (s : State) (sc : Scope) (d a b : Reg), s.me.gate = false → s.unwatched [] → s.committed.released sc →
    let rank := wfld (s.rd b) 0 24
    let e := s.rankEntry s.ci rank
    let token := wfld (s.rd b) 0 9
    (rankState e = 0 → exec (.topkSend sc d a b) s = .next (((s.committed.wr d 1).retire 32).modMe Strand.checkpoint)) ∧
    (rankState e ≠ 0 → (∀ c ctx, (s.core c).holdsFor ctx rank = false) → ∃ t, exec (.topkSend sc d a b) s = .next t ∧ (d ≠ 0 → t.rd d = 0) ∧ t.me.pc = s.me.pc + 32 ∧ ∃ p ∈ t.flight,
      p.dst = .core (rankCore e) ∧ p.body = .score ⟨wfld (s.rd a) 0 9, wfld (s.rd a) 16 12, wfld (s.rd a) 32 32⟩ ∧ p.rank = some (rank % 2 ^ 24)) ∧
    ((s.rd a).toNat % 64 = 0 → s.offDevice (s.rd a) = false → ∃ acc, exec (.topkRd sc d a b) s =
      .next (((s.committed.issue acc).retire 32).modMe Strand.checkpoint) ∧ acc.ordered = true ∧
      acc.asks (localAddr (s.gcore s.ci) (0x1D40000 + 1024 * token)) (.topkRd token (s.rd a) s.user) (.stat d)) ∧
    ((s.rd a).toNat % 64 = 0 → s.offDevice (s.rd a) = true → exec (.topkRd sc d a b) s = .next (s.trap cPROT (s.rd a))) ∧
    ((s.rd a).toNat % 64 ≠ 0 → exec (.topkRd sc d a b) s = .next (s.trap cALIGN (s.rd a)))) ∧
  (∀ (s : State) (h : HomeId) (r : Req) (token : Nat) (dst : Word) (user : Bool), s.pick.home = h → s.pick.b = 0 → s.onlyAt h r → s.unlogged →
    (∀ g, h ≠ .bridge g) → r.owner = .strand → r.op = .topkRd token dst user →
    ((s.core r.core).topk = none → ∃ t, exec .perform s = .next t ∧ t.answers r (respFull 64)) ∧
    ∀ ws, (s.core r.core).topk = some ws → token < topkTokens ws → (s.core r.core).mail.get token [] = [] → ∃ t, exec .perform s = .next t ∧
      t.answers r (respFull (ofN (if 0 < topkDepth ws then 32 else 0))) ∧ (t.core r.core).mailCount.get token 0 = 0) ∧
  (∀ (s : State) (c : Nat), c < 2048 → s.Inv →
    let begins := fun (i : Instr) (k : Nat) (x : Cmd) => ∃ t, exec i s = .next t ∧ (t.eng c k).run = [{ x with start := s.clock }] ∧
      (t.eng c k).queue = (s.eng c k).queue.drop 1
    let heads := fun (k : Nat) (x : Cmd) => s.pick.a = c ∧ (s.eng c k).queue.head? = some x ∧ (s.eng c k).run = [] ∧ s.dieRuns (dieOf c) = true
    let runs := fun (k : Nat) (x : Cmd) => s.pick.a = c ∧ (s.eng c k).run = [x] ∧ x.bad = none ∧ x.sent = false ∧
      (s.io (s.unitKey c k x.n)).puts = [] ∧ s.dieRuns (dieOf c) = true
    let ended := fun (t : State) (k : Nat) (x : Cmd) => ∀ y ∈ (t.eng c k).run, y.n ≠ x.n
    let arrives := fun (b : Body) => ∃ p, s.flight[s.pick.a]? = some p ∧ p.body = b ∧ p.dst = .core (s.gcore c) ∧ p.rank = none ∧
      s.mayMove s.pick.a p = true ∧ s.switchedOut c p.ctx = false
    (∀ x, heads 4 x → x.op = 0 → begins .sifterCommandComplete 4 x) ∧
    (∀ x, heads 5 x → x.op = 1 ∨ (x.op = 0 ∧ (s.core c).keyed = [] ∧ wbit (wordAt x.desc 1) 33 = false) → begins .routerCommandComplete 5 x) ∧
    (∀ x, heads 5 x → x.op = 3 → begins .topkCfgComplete 5 x) ∧
    (∀ x, runs 4 x → x.op = 0 → ∃ t, exec .sifterCommandComplete s = .next t ∧ t.table c (tabReg x.desc) = x.desc ∧
      (∀ n, n ≠ tabReg x.desc → t.table c n = s.table c n) ∧ ended t 4 x) ∧
    (∀ x, runs 5 x → x.op = 0 → wbit (wordAt (x.desc.take 3) 1) 33 = false → ∃ t, exec .routerCommandComplete s = .next t ∧
      (t.core c).binding = some (x.desc.take 3) ∧ ended t 5 x) ∧
    (∀ x, runs 5 x → x.op = 3 → wbit (wordAt x.desc 0) 37 = false → ∃ t, exec .topkCfgComplete s = .next t ∧ (t.core c).topk = some (x.desc.take 4) ∧
      (∀ n, (t.core c).mail.get n [] = []) ∧ ended t 5 x) ∧
    (∀ x, arrives (.keyed x) → s.pick.flag = false → s.unlogged → ∃ t, exec .keyedBatch s = .next t ∧
      (t.core c).keyed = (s.core c).keyed ++ [⟨x, 0, 0, 0, false, false⟩] ∧ t.flight = listDel s.flight s.pick.a ∧ t.mem = s.mem) ∧
    (∀ x b key v, s.pick.flag = true → s.pick.a = c → (s.core c).keyed = [⟨x, 0, 0, 0, false, false⟩] → x.pairs = [(key, v)] → (s.core c).binding = some b →
      s.tableTaken c = false → ∃ t r, exec .keyedBatch s = .next t ∧ t.sent r ∧ r.op = .keyed key v ∧ r.core = c ∧ r.cover = s.pairGrans c b key ∧
        (t.core c).keyed = [⟨x, 0, 0, 0, true, false⟩] ∧ t.mem = s.mem) ∧
    (∀ r x b key v old, s.pick.home = .core (s.gcore c) → s.pick.b = 0 → (s.pick.flag = true → s.pick.v = 0) → s.onlyAt (.core (s.gcore c)) r → s.unlogged →
      (∀ k n w, r.owner ≠ .unit k n w) → r.op = .keyed key v → r.core = c → (s.core c).keyed = [⟨x, 0, 0, 0, true, false⟩] → (s.core c).binding = some b →
      key ≠ BitVec.allOnes 64 → wbit (wordAt b 1) 32 = true → wfld (wordAt b 1) 30 2 = 0 →
      let g := s.entryGran c b ((mix64 key).toNat % bindSize b)
      let counted := fun (t : State) => (t.core c).keyed = [⟨x, 1, 0, 0, false, false⟩]
      g % 64 = 0 → s.watched c g = false → s.watched c (g + 64) = false → s.mem.readGran (g + 64) = some old →
      (s.mem.readGran g = some (BitVec.allOnes 64) → ∃ t, exec .perform s = .next t ∧ t.mem.readGran g = some key ∧ t.mem.readGran (g + 64) = some v ∧
        counted t) ∧
      (s.mem.readGran g = some key → ∃ t, exec .perform s = .next t ∧ s.granWritten t (g + 64) (old + v) ∧ counted t)) ∧
    ∀ x ws, arrives (.score x) → s.unlogged → (s.core c).topk = some ws → x.token < topkTokens ws → wordAt ws 1 = 0 →
      let mail := (s.core c).mail.get x.token []
      let count := fun (t : State) => (t.core c).mailCount.get x.token 0 = (s.core c).mailCount.get x.token 0 + 1
      (x.expert < topkExperts ws → fdecode .f32 false x.score ≠ .nan → s.isDead (dieOf c) x.expert = false → ∃ t, exec .topkScore s = .next t ∧
        (t.core c).mail.get x.token [] = foldScore ws mail x.score x.expert ∧ count t) ∧
      (topkExperts ws ≤ x.expert ∨ fdecode .f32 false x.score = .nan ∨ s.isDead (dieOf c) x.expert = true → ∃ t, exec .topkScore s = .next t ∧
        (t.core c).mail.get x.token [] = mail ∧ count t))

/-! ## Capsules and links on their way -/

/-- CAPSULE_ARRIVAL and CAPSULE_SPILL_LANDING (R353, R371); CELL_ARRIVAL, CELL_LOST, TOKEN_ROW_ARRIVAL, PORT_DOWN and LINK_RETRAIN (R369 to R378);
REDUCTION_CELL_COMBINE (R372 to R374). What other packages send stands in State.pick (log entries 15 and 47): a cell of theirs waits
in its port's reassembly buffer until no lower one of its transfer is there on a granule of its own. The steps of a collective, and when a match forms
and fails, are the model's reading (log entry 38), as is the moment at which a row is read (log entry 39). -/
def Obligations.FabricSteps : Prop :=
  ∀ (s : State) (c : Nat), c < 2048 → s.Inv →
    let lands := fun (t : State) (b : Nat) (ws : List Word) (srank : Nat) =>
      (t.core c).blocks = (s.core c).blocks ++ [(b, capBlocks (capTbits ws))] ∧ (t.core c).inbox = (s.core c).inbox ++ [⟨capNotice ws b srank, s.clock⟩]
    (∀ p hd ws srank b, s.flight[s.pick.a]? = some p → p.body = .capsule hd ws srank → p.dst = .core (s.gcore c) → p.rank = none → s.mayMove s.pick.a p = true →
      s.switchedOut c p.ctx = false → (s.core c).spill = [] → (s.die (dieOf c)).switch = none → freeRun (s.core c).blocks (capBlocks (capTbits ws)) = some b →
      s.stopRefused c ws = none → (s.core c).ringTakes (capNotice ws b srank) = true →
      ∃ t, exec .capsuleArrival s = .next t ∧ lands t b ws srank) ∧
    (∀ ws srank b, s.pick.a = c → (s.core c).spill = [.capsule ws srank] → (s.die (dieOf c)).switch = none →
      freeRun (s.core c).blocks (capBlocks (capTbits ws)) = some b → s.stopRefused c ws = none →
      ((s.core c).inbox.filter fun y => y.msg.prio == (capNotice ws b srank).prio).length < 256 →
      ∃ t, exec .capsuleSpillLanding s = .next t ∧ lands t b ws srank ∧ (t.core c).spill = []) ∧
    (∀ p x, s.pick.flag = false → s.flight[s.pick.a]? = some p → p.body = .cell x → x.eng < 7 →
      (x.sent = false → s.cellBefore s.pick.a x = false → ∃ t, exec .cellArrival s = .next t ∧
        t.flight[s.pick.a]? = some { p with body := .cell { x with sent := true } } ∧
        ∀ e ∈ x.grans, ∃ r, t.sent r ∧ r.gran = e.1 ∧ r.op = .write e.2.1 e.2.2) ∧
      (x.sent = true → (s.io (s.cellKey x)).puts = [] → (s.io (s.cellKey x)).bad = none → ∀ y, (s.eng x.core x.eng).run.find? (fun y => y.n == x.n) = some y →
        y.op ≠ 3 → y.ctr = 0 → ∃ t, exec .cellArrival s = .next t ∧ t.flight = listDel s.flight s.pick.a ∧ t.mem = s.mem ∧
        (t.eng x.core x.eng).run = (s.eng x.core x.eng).run.map fun y =>
          if y.n = x.n then { y with cells := y.cells - 1, amt := y.amt + if x.eng = collCtx then 0 else x.bytes } else y) ∧
      (x.sent = false → ∃ t, exec .cellLost s = .next t ∧ t.flight = listDel s.flight s.pick.a ∧
        t.mem = s.mem ∧ t.fab.get 2 0 = (s.fab.get 2 0 + 1) % 2 ^ 64 ∧
        (t.eng x.core x.eng).run = (s.eng x.core x.eng).run.map fun y => if y.n = x.n then { y with cells := y.cells - 1, amt := y.amt + x.bytes } else y)) ∧
    (∀ bs, let p := s.pick
      let gs := gransOf p.b (wfld p.w 32 32)
      p.flag = true → p.v = 0 → p.bytes = bs → wfld p.w 32 32 ≠ 0 → (∀ g ∈ gs, isPeer s.pkg g = false ∧ spaceOf g ≤ 1) →
      (s.reasm.filter fun y => y.port == p.a).length < 4096 → s.landed.get p.c [] = [] → ∃ t es, exec .cellArrival s = .next t ∧ t.mem = s.mem ∧
        stores es p.b (wfld p.w 32 32) (joinBytes bs % 2 ^ wfld p.w 32 32) ∧
        t.reasm = s.reasm ++ [⟨p.a, p.c, wfld p.w 0 32, es.map fun e => (e.gran, e.mask, e.bits), false⟩]) ∧
    (∀ x, s.pick.flag = true → s.pick.v = 1 → s.reasm[s.pick.a]? = some x →
      (x.sent = false → (∀ y ∈ s.reasm, y.xfer = x.xfer → y.seq < x.seq → meet (y.grans.map (·.1)) (x.grans.map (·.1)) = false) →
        ∃ t, exec .cellArrival s = .next t ∧ t.reasm = listSet s.reasm s.pick.a { x with sent := true } ∧
          ∀ e ∈ x.grans, ∃ r, t.sent r ∧ r.gran = e.1 ∧ r.op = .write e.2.1 e.2.2) ∧
      (x.sent = true → (s.io (s.inKey x)).puts = [] → ∃ t, exec .cellArrival s = .next t ∧ t.reasm = listDel s.reasm s.pick.a ∧ t.mem = s.mem)) ∧
    (s.pick.flag = true → s.flight.length ≤ s.pick.a → crc8 s.pick.w ≠ wfld s.pick.w 0 8 → ∃ t, exec .capsuleArrival s = .next t ∧ t.mem = s.mem ∧
      t.cores = s.cores ∧ t.flight = s.flight ∧ t.fab.get 1 0 = (s.fab.get 1 0 + 1) % 2 ^ 64) ∧
    (s.pick.flag = true →
      (crc8 s.pick.w ≠ wfld s.pick.w 0 8 → ∃ t, exec .tokenRowArrival s = .next t ∧ t.mem = s.mem ∧ t.fab.get 0 0 = (s.fab.get 0 0 + 1) % 2 ^ 64) ∧
      (crc8 s.pick.w = wfld s.pick.w 0 8 → s.pick.a = c → s.pick.v.toNat % 2 ^ 24 / 2048 ≠ s.pkg → ∃ t p r, exec .tokenRowArrival s = .next t ∧
        t.flight = s.flight ++ [p] ∧ p.dst = .core (s.gcore c) ∧ p.ordered = true ∧ p.body = .tokenRow r ∧ r.header = s.pick.w ∧ r.land = s.pick.b ∧
        r.dn = s.pick.c ∧ r.sent = false ∧ ∀ k < s.pick.bytes.length / 8, (r.words.getD k 0).toNat = nfld (joinBytes s.pick.bytes) (64 * k) 64)) ∧
    (s.pick.flag = false → s.pick.v = 0 → ∀ p r, s.flight[s.pick.a]? = some p → p.body = .tokenRow r → p.dst = .core (s.gcore c) →
      (r.sent = false → s.rowBefore s.pick.a p = false → p.rank = none → s.mayMove s.pick.a p = true → s.switchedOut c p.ctx = false →
        ∃ t, exec .tokenRowArrival s = .next t ∧ ∀ k < r.words.length + 1, ∃ q, t.sent q ∧ q.gran = localAddr (s.gcore c) (r.land + 64 * k) ∧
          q.op = .write wholeMask ((r.header :: r.words).getD k 0)) ∧
      (r.sent = true → (s.io (s.rowKey r)).puts = [] → (s.io (s.rowKey r)).bad = none → r.dn ≠ 0 → ∃ t q, exec .tokenRowArrival s = .next t ∧
        t.sent q ∧ q.gran = localAddr (s.gcore c) r.dn ∧ q.op = .cadd 1)) ∧
    (s.pick.flag = false → s.pick.v ≠ 0 → s.pick.a = c → s.dieRuns (dieOf c) = true → ∀ x, x.n = s.pick.v.toNat →
      ((s.eng c collCtx).run ++ (s.eng c collCtx).queue).find? (fun y => y.op == 2 && !y.sent && y.bad.isNone) = some x →
      (x ∈ (s.eng c collCtx).queue → s.tokSpan c x = none → ∃ t, exec .tokenRowArrival s = .next t ∧ (t.eng c collCtx).run = (s.eng c collCtx).run ++ [{ x with start := s.clock }] ∧
        (t.eng c collCtx).queue = (s.eng c collCtx).queue.filter fun y => y.n != x.n) ∧
      ((∀ y ∈ (s.eng c collCtx).queue, y.n ≠ x.n) → ∀ v u, State.engRead { s with unit := s.unitKey c collCtx x.n } c x.user (wordAt x.desc 0) x.rowBits = (.ok v, u) →
        let e := s.rankEntry c (wfld (wordAt x.desc 3) 0 24)
        u.rankEntry c (wfld (wordAt x.desc 3) 0 24) = e → rankState e ≠ 0 → (∀ k ctx, (u.core k).holdsFor ctx (wfld (wordAt x.desc 3) 0 24) = false) → ∃ t, exec .tokenRowArrival s = .next t ∧ ∃ p ∈ t.flight, p.dst = .core (rankCore e) ∧ p.ordered = true ∧
          p.body = .tokenRow ⟨s.sealHeader c (wordAt x.desc 2), (wordAt x.desc 1).toNat, (wordAt x.desc 4).toNat, splitWords v (x.rowBits / 64), c, x.n, false⟩)) ∧
    (∃ t, exec .portDown s = .next t ∧ (s.ports < 2 ^ 32 → ∀ p < 32, t.ports.testBit p = if p = s.pick.a % 32 then false else s.ports.testBit p)) ∧
    (∃ t, exec .linkRetrain s = .next t ∧ t.fab.get 4 0 = (s.fab.get 4 0 + 1) % 2 ^ 64 ∧
      (s.ports < 2 ^ 32 → ∀ p < 32, t.ports.testBit p = if p = s.pick.a % 32 then true else s.ports.testBit p)) ∧
    ∀ x, s.pick.flag = false → s.pick.a = c → s.collCmd c s.pick.b = some x →
      let ctx := s.ctxOf (dieOf c)
      let key := s.unitKey c collCtx x.n
      let clean := fun (u : State) (keep : Bool) =>
        ({ u.modIo key fun z => { z with got := if keep then z.got else [], need := [], walked := [], rows := [], stale := [] } with unit := s.unit } : State)
      let runs := s.dieRuns (dieOf c) = true ∧ ∃ z ∈ (s.eng c collCtx).run, z.n = x.n
      (∀ ms, s.dieRuns (dieOf c) = true → x.agreed = false → s.members c x = some ms →
        ((∃ m ∈ ms, collAgree x m.2 = false ∨ m.2.unmapped = true) → exec .reductionCellCombine s = .next (s.failMatch c x ms) ∧
          (s.failMatch c x ms).fab.get 3 0 = (s.fab.get 3 0 + 1) % 2 ^ 64) ∧
        ((∀ m ∈ ms, collAgree x m.2 = true ∧ m.2.unmapped = false) → s.farJoined c x = true →
          exec .reductionCellCombine s = .next (s.markAgreed ctx ms))) ∧
      (runs → x.agreed = false → s.members c x = none → x.op = 0 → x.gave < x.cellCount → s.rootFar c x = false →
        s.redCell? ctx x x.gave = none → s.redRoom ctx x x.gave = true → ∀ v u,
        State.engRead { s with unit := key } c x.user (wordAt x.desc 0 + ofN (x.gave * x.perCell * x.ity.bits)) (x.giveBits x.gave) = (.ok v, u) →
        ∃ t, exec .reductionCellCombine s = .next t ∧ (∀ z ∈ (t.eng c collCtx).run, z.n = x.n → z.gave = x.gave + 1) ∧ ∃ env, t.redCells = s.redCells ++
          [⟨ctx, collGid x.desc, x.groupPlace, x.matchWords, x.gave, env, (s.places c c x).map fun i => (i, v)⟩] ∧
          (0 ∈ s.places c c x → env = some x.fp)) ∧
      (runs → x.agreed = true → x.sent = false → s.receives c c x = true → x.took < x.cellCount → ∀ y u, s.redCell? ctx x x.took = some y → y.full x = true →
        let of_ := fun (i : Nat) => ((y.got.find? fun w => w.1 == i).map (·.2)).getD 0
        let v := if x.op = 0 then x.collCell (y.env.getD ⟨0, false, 0, 0⟩) y.cell ((upFrom 0 (collSize x.desc)).map of_)
          else of_ (((upFrom 0 (collSize x.desc)).find? fun i => collRank x.desc i == collRoot x.desc).getD 0)
        State.engPutAll { s with unit := key } c x.user false notDevice
          [⟨wordAt x.desc 1 + ofN (x.took * x.perCell * x.oty.bits), x.takeBits x.took, v⟩] = (u, none) →
        exec .reductionCellCombine s = .next (((clean u true).tookCell c x 0).sweepCells c x)) ∧
      (x.agreed = true → x.sent = true → x.cellCount ≤ x.gave → x.cells = 0 → (s.io key).puts = [] → s.dieFinishes (dieOf c) = true →
        exec .reductionCellCombine s = .next ((s.endCmd c collCtx x 0
          ((if s.receives c c x then ceilDiv x.outBits 8 else ceilDiv x.inBits 8) - x.amt)).sweepCells c x))

/-! ## Contexts, replay and the host -/

/-- CONTEXT_SWITCH, HALT_CONFIRM, CONTEXT_SAVE_COMPLETE and CONTEXT_RESTORE (R121 to R126): a switch is asked for, halts its die, saves the context
with its strands, and brings the other one to run, with its device rings read at once. That a saved context stands in State.saved beside its image,
and where it is restored, are the model's choices (log entry 36). A request made while another is served waits its turn (R388). -/
def Obligations.ContextSwitchSteps : Prop :=
  ∀ (s : State) (d : Nat), d < 8 → s.pick.a = d →
    (s.pick.flag = false → (s.die d).asked = [] →
      (wbit s.pick.w 4 = false → s.servesRequest d = true → ∃ t, exec .contextSwitch s = .next t ∧ (t.die d).switch = some ⟨wfld s.pick.w 0 4, false, 0, 0⟩ ∧
        (t.die d).ctxDone = false ∧ (t.die d).asked = [] ∧ ∀ k, k ≠ d → t.die k = s.die k) ∧
      (wbit s.pick.w 4 = false → s.servesRequest d = false → ∃ t, exec .contextSwitch s = .next t ∧ (t.die d).asked = [(0x500, s.pick.w)] ∧
        (t.die d).switch = (s.die d).switch ∧ (t.die d).frozen = (s.die d).frozen) ∧
      (wbit s.pick.w 4 = true → (∀ k < 8, s.servesRequest k = true) → ∃ t, exec .contextSwitch s = .next t ∧
        ∀ k < 8, (t.die k).switch = some ⟨wfld s.pick.w 0 4, true, 0, 0⟩ ∧ (t.die k).ctxDone = false)) ∧
    (∀ w rest, s.pick.flag = true → (s.die d).asked = (0x500, w) :: rest → wbit w 4 = false → s.servesRequest d = true → ∃ t, exec .contextSwitch s = .next t ∧
      (t.die d).switch = some ⟨wfld w 0 4, false, 0, 0⟩ ∧ (t.die d).asked = rest) ∧
    ∀ ctx phase since, (s.die d).switch = some ⟨ctx, false, phase, since⟩ →
      (phase = 0 → ∃ t, exec .haltConfirm s = .next t ∧ (t.die d).switch = some ⟨ctx, false, 1, s.clock⟩ ∧ t.halted d = true ∧ t.mem = s.mem ∧
        ∀ k, (t.strand k).regs = (s.strand k).regs ∧ (t.strand k).pc = (s.strand k).pc) ∧
      (phase = 1 → s.settled d = true → ∃ t x, exec .contextSaveComplete s = .next t ∧ (t.die d).ctxDone = true ∧
        (t.die d).switch = some ⟨ctx, false, 2, since⟩ ∧ (∀ k, k / 2048 = d → t.strand k = Strand.init) ∧ (∀ k, k / 2048 ≠ d → t.strand k = s.strand k) ∧
        (t.saved.find? fun e => e.1 == savedKey (s.ctxOf d) d) = some (savedKey (s.ctxOf d) d, x) ∧ x.clock = since ∧ ∀ k, k / 2048 = d →
          (x.strands.get k Strand.init).regs = (s.strand k).regs ∧ (x.strands.get k Strand.init).pc = (s.strand k).pc ∧
          (x.strands.get k Strand.init).status = (s.strand k).status) ∧
      (phase = 2 → ctx < 16 → (s.saved.find? fun e => e.1 == savedKey ctx d) = none → s.imageReady d ctx = true →
        let r := s.modDie d fun k => { k with ctx := ofN ctx, switch := none, rowCache := [] }
        exec .contextRestore s = .next ((r.ringKeys d).foldl (fun u k => u.openRing d k) r)) ∧
      (phase = 2 → ctx < 16 → ∀ x, (s.saved.find? fun e => e.1 == savedKey ctx d) = some (savedKey ctx d, x) → s.imageReady d ctx = true →
        (x.strands.map (·.1)).Nodup → ∃ r : State, exec .contextRestore s = .next (((r.ringKeys d).foldl (fun u k => u.openRing d k) r).resend d) ∧
          r.ctxOf d = ctx ∧ (r.die d).switch = none ∧ ∀ e ∈ x.strands, (r.strand e.1).regs = e.2.regs ∧ (r.strand e.1).pc = e.2.pc)

/-- CENSUS_FREEZE, CENSUS_THAW, PARK, CKPT, CHECKPOINT_COMPLETE, CDATA_READ and CDATA_WRITE (R218, R388 to R392). The length of an image is a constant
without a body (log entry 10), and where an image is kept is the model's choice (log entry 43). That a thaw waits for a freeze under way is the
model's reading (log entry 40). -/
def Obligations.CensusSteps : Prop :=
  ∀ (s : State) (d : Nat), d < 8 → s.Inv → (s.pick.a = d →
    (s.pick.flag = false → (s.die d).asked = [] → (s.die d).frozen = 0 → s.servesRequest d = true → ∃ t, exec .censusFreeze s = .next t ∧
      (t.die d).frozen = 1 ∧ t.halted d = true ∧ (t.die d).asked = [] ∧ t.mem = s.mem) ∧
    (s.pick.flag = true → (s.die d).frozen = 1 → s.ckpt = none → s.drained d = true → ∃ t, exec .censusFreeze s = .next t ∧ (t.die d).frozen = 2 ∧ t.mem = s.mem ∧
      (t.die d).items = (s.flight.filter fun p => p.ordered && s.ownDie p.dst == d) ∧
      t.flight = s.flight.filter fun p => !(p.ordered && s.ownDie p.dst == d)) ∧
    (s.pick.flag = true → (s.die d).frozen = 1 → s.ckpt ≠ none → (∀ k < 8, s.drained k = true) → ∃ t, exec .censusFreeze s = .next t ∧ t.mem = s.mem ∧
      ∀ k < 8, (t.die k).frozen = 2) ∧
    ((s.die d).asked = [] → (s.die d).frozen = 1 → ∃ t, exec .censusThaw s = .next t ∧ (t.die d).frozen = 1 ∧ (t.die d).asked = [(0x540, 0)]) ∧
    ((s.die d).asked = [] → (s.die d).frozen = 2 → s.ckpt = none → ∃ t more, exec .censusThaw s = .next t ∧ (t.die d).frozen = 0 ∧ (t.die d).items = [] ∧
      t.flight = (s.die d).items ++ s.flight ++ more) ∧
    ((s.die d).frozen ≠ 2 → exec .cdataRead s = .next { s with reads := s.reads ++ [BitVec.allOnes 64] }) ∧
    ((s.die d).frozen = 2 → let a := (s.die d).caddr
      (wfld a 56 8 = 3 → wfld a 44 8 = 3 → wfld a 52 4 = s.ctxOf d → wfld a 20 24 < 256 → wfld a 0 20 = 0 →
        exec .cdataRead s = .next { s with reads := s.reads ++ [(s.core (d * 256 + wfld a 20 24)).bankhash] }) ∧
      (wfld a 56 8 = 4 → wfld a 44 8 = 10 → wfld a 52 4 = s.ctxOf d → wfld a 20 24 < 256 → wfld a 0 20 = 0 → s.pick.w.toNat ≤ 1 →
        exec .cdataWrite s = .next (s.modCore (d * 256 + wfld a 20 24) fun k => { k with park := s.pick.w == 1 })) ∧
      (wfld a 56 8 = 11 → wfld a 44 8 = 0 → wfld a 52 4 = s.ctxOf d → wfld a 20 24 < 2048 → wfld a 0 20 = 0 → s.pick.w = 0 →
        (s.strand (d * 2048 + wfld a 20 24)).status.state = .stopped → (s.strand (d * 2048 + wfld a 20 24)).capsule = none →
        ∃ t, exec .cdataWrite s = .next t ∧ t.strand (d * 2048 + wfld a 20 24) = Strand.init ∧
          ∀ k, k ≠ d * 2048 + wfld a 20 24 → t.strand k = s.strand k)) ∧
    (∃ t, exec .park s = .next t ∧ (t.core (d * 256 + wfld s.pick.w 0 8)).park = wbit s.pick.w 8 ∧ t.mem = s.mem ∧
      ∀ c, c ≠ d * 256 + wfld s.pick.w 0 8 → t.core c = s.core c)) ∧
    (s.pick.a = d → (s.die d).asked = [] → s.pick.w.toNat % 512 = 0 → (∀ k < 8, s.servesRequest k = true) → ∃ t, exec .ckpt s = .next t ∧
      let ws := s.hostWords s.pick.w.toNat 8
      if (wordAt ws 1).toNat < Config.imageBytes then t.mem = (s.putStatus ws 2).mem ∧ t.ckpt = none else t.ckpt = some ⟨ws⟩ ∧ ∀ k < 8, (t.die k).frozen = 1) ∧
    ∀ k, s.ckpt = some k →
      (s.pick.flag = true → ∃ t, exec .checkpointComplete s = .next t ∧ t.ckpt = none ∧ t.tier = s.tier ∧ ∀ e < 8, (t.die e).frozen = 0) ∧
      (s.pick.flag = false → (∀ e < 8, (s.die e).frozen = 2) → wbit (wordAt k.desc 3) 0 = false → ∃ t, exec .checkpointComplete s = .next t ∧
        t.ckpt = none ∧ (t.tier.find? fun e => e.1 == (wordAt k.desc 0).toNat) = some ((wordAt k.desc 0).toNat, s.snapshot) ∧ ∀ e < 8, (t.die e).frozen = 0) ∧
      ∀ x, s.pick.flag = false → (∀ e < 8, (s.die e).frozen = 2) → wbit (wordAt k.desc 3) 0 = true →
        (s.tier.find? fun e => e.1 == (wordAt k.desc 0).toNat) = some ((wordAt k.desc 0).toNat, x) → exec .checkpointComplete s =
          .next ((((s.reproduce x).readTier (wordAt k.desc 0).toNat).thawAll.putStatus k.desc (Config.imageBytes * 4 + 1))) ∧
          ∀ n, ((s.reproduce x).strand n).regs = (x.strands.get n Strand.init).regs ∧ ((s.reproduce x).strand n).pc = (x.strands.get n Strand.init).pc

/-- HOST_WRITE, HOST_READ, CONFIG_REGISTER_WRITE, DETSET, POWER_UP_BOOT, ATTESTATION_QUOTE, POWERED_HOUR, SUPPLY_DROOP_EVENT, REPLAY_RING_READ and
REPLAY_DEPARTURE (R21, R379, R383, R384, R387, R388, R393 to R395). That the bridge takes the accesses of the host one at a time, and what of a write is
refused, are the model's readings (log entry 40). What power-up keeps and the bytes a quote signs are the model's readings (log
entry 41), the hash and the signature are functions without a body (log entry 8), the life log's numbers are the model's own (log entry 42), and what
REPLAY_DEPARTURE is told is an operand (log entry 44). -/
def Obligations.HostSteps : Prop :=
  ∀ (s : State) (d : Nat), s.Inv → d < 8 →
    (s.pick.a = d →
      (s.pick.flag = false → s.pick.b % 8 = 0 → s.hostDie s.pick.b = some d →
        (s.pick.bytes ≠ [] → s.hostDie (s.pick.b + 8 * s.pick.bytes.length - 1) = some d → ∃ t, exec .hostWrite s = .next t ∧ t.mem = s.mem ∧
          (t.die d).hostq = (s.die d).hostq ++ [⟨true, s.pick.b, s.pick.bytes, false⟩]) ∧
        (s.pick.b % 64 = 0 → s.hostDie (s.pick.b + 63) = some d → ∃ t, exec .hostRead s = .next t ∧ t.mem = s.mem ∧
          (t.die d).hostq = (s.die d).hostq ++ [⟨false, s.pick.b, [], false⟩])) ∧
      (∀ x rest, s.pick.flag = false → s.pick.bytes = [] → (s.die d).hostq = x :: rest →
        let n := 8 * x.bytes.length
        let io := s.io (bridgeKey d)
        (x.sent = false → x.write = true → (s.die d).frozen = 0 → (s.die d).switch = none → n ≠ 0 → x.at_ + n ≤ 2 ^ 64 →
          ((∀ g ∈ gransOf x.at_ n, isWs g = true → s.wsClosed (g % 2 ^ 60 / 2 ^ 35) = false) → ∃ t es, exec .hostWrite s = .next t ∧ t.mem = s.mem ∧
            (t.die d).hostq = { x with sent := true } :: rest ∧ stores es x.at_ n (joinBytes x.bytes) ∧
            ∀ e ∈ es, ∃ r, t.sent r ∧ r.gran = e.gran ∧ r.op = .write e.mask e.bits) ∧
          ((∃ g ∈ gransOf x.at_ n, isWs g = true ∧ s.wsClosed (g % 2 ^ 60 / 2 ^ 35) = true) → ∃ t, exec .hostWrite s = .next t ∧ t.mem = s.mem ∧
            (t.die d).hostq = rest ∧ t.life = (s.lifeAdd lifeRefused 1).life)) ∧
        (x.sent = true → x.write = true → io.puts = [] → ∃ t, exec .hostWrite s = .next t ∧ t.mem = s.mem ∧ (t.die d).hostq = rest ∧
          (io.bad = none → t.life = s.life) ∧ ∀ a, io.bad = some (cCTRSTORE, a) → t.life = (s.lifeAdd lifeRefused 1).life) ∧
        (x.sent = false → x.write = false → (s.die d).frozen = 0 → (s.die d).switch = none → ∃ t r, exec .hostWrite s = .next t ∧ t.mem = s.mem ∧
          (t.die d).hostq = { x with sent := true } :: rest ∧ t.sent r ∧ r.gran = x.at_ ∧ r.op = .read) ∧
        (∀ w, x.sent = true → x.write = false → io.got.find? (fun y => y.1 == x.at_) = some (x.at_, some w) → ∃ t, exec .hostWrite s = .next t ∧
          t.mem = s.mem ∧ (t.die d).hostq = rest ∧ t.reads = s.reads ++ [w])) ∧
      (s.pick.flag = true → isHost s.pick.b = true → s.pick.b % 8 = 0 → ∀ x, s.pick.bytes = [x] → ∃ t, exec .hostWrite s = .next t ∧
        t.mem.readByte (s.pick.b / 8) = some x ∧ ∀ k, k ≠ s.pick.b / 8 → t.mem.readByte k = s.mem.readByte k) ∧
      (s.pick.flag = true → (s.pick.b = 0x600 → exec .hostRead s = .next { s with reads := s.reads ++ [s.boot] }) ∧
        (s.pick.b = 0x680 → exec .hostRead s = .next { s with reads := s.reads ++ [(s.die d).caddr] })) ∧
      (∃ t, exec .configRegisterWrite s = .next t ∧ (s.pick.b = 0x680 → (t.die d).caddr = s.pick.w) ∧
        (s.pick.b = 0x400 → t.ctxsel d = wfld s.pick.w 0 4) ∧ (s.pick.b = 0x480 → (t.die d).crumb.get (s.ctxsel d) 0 = s.pick.w) ∧
        (s.pick.b = 0x640 → (t.die d).replayRing.get (s.ctxsel d) 0 = s.pick.w)) ∧
      (s.ctxsel d = s.ctxOf d → (wbit s.pick.w 1 = true → wbit s.pick.w 0 = true) → ∃ t, exec .detset s = .next t ∧
        (∀ c ∈ coresOfDie d, (t.core c).det = ofN (wfld s.pick.w 0 3)) ∧ ∀ c, c ∉ coresOfDie d → t.core c = s.core c) ∧
      (∀ r ls ws, let id := crumbIdOf ws
        ((coresOfDie d).any s.readsLog) = true → s.replayEmpty d = false → s.crumbFull d = false → s.ringRead (dieCore d) false .load (s.replayBlock d).toNat = .ok r →
        s.devGrans (dieCore d) false .load (gransUp (r.entry r.head.toNat) 4) = .ok ls → ls.mapM (fun l => s.mem.readGran l.phys) = some ws →
        s.sourceExists d id = true → id.kind ≠ 10 → s.forcing (s.sourceCore d id) id.kind = true →
        (r.locs.headD ⟨0, false, none⟩).phys % 64 = 0 → ∃ t, exec .replayRingRead s = .next t ∧
          s.granWritten t (r.locs.headD ⟨0, false, none⟩).phys (r.head + 1) ∧
          (t.die d).replay.get (crumbKey id.unit id.src id.strand id.kind) [] =
            (s.die d).replay.get (crumbKey id.unit id.src id.strand id.kind) [] ++ [(wordAt ws 1, wordAt ws 2)]) ∧
      (let key := s.pick.b
       let id : CrumbId := ⟨key / 16 / 8 / 2 ^ 24, key / 16 / 8 % 2 ^ 24, key / 16 % 8, key % 16⟩
       s.forcing (s.sourceCore d id) id.kind = true → (s.nextCrumb d key).isSome = true → s.crumbFull d = false →
       ((∃ e, (s.die d).waitFrom.find? (fun e => e.1 == key) = some e ∧ e.2 + 2 ^ 24 ≤ s.clock) ∨ s.pick.flag = true) →
        ∃ t, exec .replayDeparture s = .next t ∧ ∀ c, s.ctxOf (dieOf c) = s.ctxOf d → (t.core c).det = (s.core c).det &&& 1)) ∧
    (s.pick.images = [] → ∃ t, exec .powerUpBoot s = .next t ∧ t.boot = 0 ∧ t.attest = List.replicate 64 0 ∧ t.attested = 0 ∧ t.life = s.life ∧
      (∀ k, t.strand k = Strand.init) ∧ (∀ c, t.core c = Core.init) ∧ t.flight = [] ∧ t.saved = []) ∧
    (∀ x, s.pick.images = [x] → ∃ t, exec .powerUpBoot s = .next t ∧
      if Config.verifies (Config.sha3 x.bytes) x.signature then t.boot = 0 ∧ t.attested = 1 ∧
        t.attest = Config.sha3 (List.replicate 64 0 ++ Config.sha3 x.bytes) else t.boot = 1 ∧ t.attested = 0 ∧ t.attest = List.replicate 64 0) ∧
    (exec .attestationQuote s = .next { s with quotes := s.quotes ++ [Config.sign (s.pick.bytes ++ s.attest ++ splitBytes s.attested 8)] }) ∧
    (s.pick.flag = false → ∃ t, exec .poweredHour s = .next t ∧ t.life.get lifeHours 0 = min (s.life.get lifeHours 0 + 1) (2 ^ 32 - 1) ∧
      t.life.get (lifeBin (s.life.get lifeMonth 0) s.pick.a) 0 = min (s.life.get (lifeBin (s.life.get lifeMonth 0) s.pick.a) 0 + 1) (2 ^ 32 - 1) ∧ t.mem = s.mem) ∧
    ∃ t, exec .supplyDroopEvent s = .next t ∧ t.life.get lifeDroop 0 = min (s.life.get lifeDroop 0 + 1) (2 ^ 32 - 1) ∧ t.mem = s.mem
end

