-- ==== Sys2Proof/Laws/Maps.lean ====
section
/-! SUPPORT. What keyed tables do: reading after a write, and a second write to the same number. -/

namespace Sys2Proof.Machine

variable {α : Type}

@[simp] theorem KMap.get_nil (k : Nat) (d : α) : KMap.get ([] : KMap α) k d = d := rfl

@[simp] theorem KMap.get_set (m : KMap α) (k : Nat) (v d : α) : (m.set k v).get k d = v := by
  induction m with
  | nil => simp [KMap.set, KMap.get]
  | cons e m ih =>
    obtain ⟨j, x⟩ := e
    simp only [KMap.set]
    split
    · simp [KMap.get]
    · split
      · simp [KMap.get]
      · next h => simp [KMap.get, h, ih]

theorem KMap.get_set_ne (m : KMap α) (k j : Nat) (v d : α) (h : j ≠ k) : (m.set k v).get j d = m.get j d := by
  induction m with
  | nil => simp [KMap.set, KMap.get, Ne.symm h]
  | cons e m ih =>
    obtain ⟨i, x⟩ := e
    simp only [KMap.set]
    split
    · simp [KMap.get, Ne.symm h]
    · split
      · next h' => subst h'; simp [KMap.get, Ne.symm h]
      · simp only [KMap.get, ih]

@[simp] theorem KMap.set_set (m : KMap α) (k : Nat) (v w : α) : (m.set k v).set k w = m.set k w := by
  induction m with
  | nil => simp [KMap.set]
  | cons e m ih =>
    obtain ⟨j, x⟩ := e
    simp only [KMap.set]
    split
    · simp [KMap.set]
    · split
      · simp [KMap.set]
      · next h h' => simp [KMap.set, h, h', ih]

@[simp] theorem KMap.get_erase (m : KMap α) (k : Nat) (d : α) : (m.erase k).get k d = d := by
  induction m with
  | nil => rfl
  | cons e m ih =>
    obtain ⟨j, x⟩ := e
    by_cases h : j = k
    · subst h; simpa [KMap.erase] using ih
    · simpa [KMap.erase, KMap.get, h] using ih

@[simp] theorem listMod_length (l : List α) (k : Nat) (f : α → α) : (listMod l k f).length = l.length := by
  induction l generalizing k with
  | nil => simp [listMod]
  | cons x l ih => cases k <;> simp [listMod, ih]

@[simp] theorem upFrom_length (lo n : Nat) : (upFrom lo n).length = n := by
  induction n generalizing lo with
  | zero => rfl
  | succ n ih => simp [upFrom, ih]

theorem mem_upFrom (x lo n : Nat) : x ∈ upFrom lo n ↔ lo ≤ x ∧ x < lo + n := by
  induction n generalizing lo with
  | zero => simp only [upFrom, List.not_mem_nil, false_iff]; omega
  | succ n ih => simp only [upFrom, List.mem_cons, ih]; omega

end Sys2Proof.Machine
end

