-- ==== Sys2Proof/Laws/State.lean ====
section
/-! SUPPORT. What each update of the state leaves alone, one lemma per field and update, and what reading gives after an
update. -/

namespace Sys2Proof.Machine

variable (s : State)

@[simp] theorem State.modStrand_pkg (k : Nat) (f : Strand → Strand) : (s.modStrand k f).pkg = s.pkg := rfl
@[simp] theorem State.modStrand_clock (k : Nat) (f : Strand → Strand) : (s.modStrand k f).clock = s.clock := rfl
@[simp] theorem State.modStrand_cur (k : Nat) (f : Strand → Strand) : (s.modStrand k f).cur = s.cur := rfl
@[simp] theorem State.modStrand_agenda (k : Nat) (f : Strand → Strand) : (s.modStrand k f).agenda = s.agenda := rfl
@[simp] theorem State.modStrand_pick (k : Nat) (f : Strand → Strand) : (s.modStrand k f).pick = s.pick := rfl
@[simp] theorem State.modStrand_free (k : Nat) (f : Strand → Strand) : (s.modStrand k f).free = s.free := rfl
@[simp] theorem State.modStrand_acts (k : Nat) (f : Strand → Strand) : (s.modStrand k f).acts = s.acts := rfl
@[simp] theorem State.modStrand_mem (k : Nat) (f : Strand → Strand) : (s.modStrand k f).mem = s.mem := rfl
@[simp] theorem State.modStrand_cores (k : Nat) (f : Strand → Strand) : (s.modStrand k f).cores = s.cores := rfl
@[simp] theorem State.modStrand_quads (k : Nat) (f : Strand → Strand) : (s.modStrand k f).quads = s.quads := rfl
@[simp] theorem State.modStrand_dies (k : Nat) (f : Strand → Strand) : (s.modStrand k f).dies = s.dies := rfl
@[simp] theorem State.modStrand_homes (k : Nat) (f : Strand → Strand) : (s.modStrand k f).homes = s.homes := rfl
@[simp] theorem State.modStrand_ctxs (k : Nat) (f : Strand → Strand) : (s.modStrand k f).ctxs = s.ctxs := rfl
@[simp] theorem State.modStrand_ranks (k : Nat) (f : Strand → Strand) : (s.modStrand k f).ranks = s.ranks := rfl
@[simp] theorem State.modStrand_bars (k : Nat) (f : Strand → Strand) : (s.modStrand k f).bars = s.bars := rfl
@[simp] theorem State.modStrand_flight (k : Nat) (f : Strand → Strand) : (s.modStrand k f).flight = s.flight := rfl
@[simp] theorem State.modStrand_pendings (k : Nat) (f : Strand → Strand) : (s.modStrand k f).pendings = s.pendings := rfl
@[simp] theorem State.modStrand_marks (k : Nat) (f : Strand → Strand) : (s.modStrand k f).marks = s.marks := rfl
@[simp] theorem State.modStrand_life (k : Nat) (f : Strand → Strand) : (s.modStrand k f).life = s.life := rfl
@[simp] theorem State.modStrand_fab (k : Nat) (f : Strand → Strand) : (s.modStrand k f).fab = s.fab := rfl
@[simp] theorem State.modStrand_ports (k : Nat) (f : Strand → Strand) : (s.modStrand k f).ports = s.ports := rfl
@[simp] theorem State.modStrand_redCells (k : Nat) (f : Strand → Strand) : (s.modStrand k f).redCells = s.redCells := rfl
@[simp] theorem State.modStrand_reasm (k : Nat) (f : Strand → Strand) : (s.modStrand k f).reasm = s.reasm := rfl
@[simp] theorem State.modStrand_landed (k : Nat) (f : Strand → Strand) : (s.modStrand k f).landed = s.landed := rfl
@[simp] theorem State.modStrand_spray (k : Nat) (f : Strand → Strand) : (s.modStrand k f).spray = s.spray := rfl
@[simp] theorem State.modStrand_saved (k : Nat) (f : Strand → Strand) : (s.modStrand k f).saved = s.saved := rfl
@[simp] theorem State.modStrand_ckpt (k : Nat) (f : Strand → Strand) : (s.modStrand k f).ckpt = s.ckpt := rfl
@[simp] theorem State.modStrand_tier (k : Nat) (f : Strand → Strand) : (s.modStrand k f).tier = s.tier := rfl
@[simp] theorem State.modStrand_boot (k : Nat) (f : Strand → Strand) : (s.modStrand k f).boot = s.boot := rfl
@[simp] theorem State.modStrand_attest (k : Nat) (f : Strand → Strand) : (s.modStrand k f).attest = s.attest := rfl
@[simp] theorem State.modStrand_attested (k : Nat) (f : Strand → Strand) : (s.modStrand k f).attested = s.attested := rfl
@[simp] theorem State.modStrand_quotes (k : Nat) (f : Strand → Strand) : (s.modStrand k f).quotes = s.quotes := rfl
@[simp] theorem State.modStrand_reads (k : Nat) (f : Strand → Strand) : (s.modStrand k f).reads = s.reads := rfl
@[simp] theorem State.modStrand_ios (k : Nat) (f : Strand → Strand) : (s.modStrand k f).ios = s.ios := rfl
@[simp] theorem State.modStrand_unit (k : Nat) (f : Strand → Strand) : (s.modStrand k f).unit = s.unit := rfl

@[simp] theorem State.modMe_pkg (f : Strand → Strand) : (s.modMe f).pkg = s.pkg := rfl
@[simp] theorem State.modMe_clock (f : Strand → Strand) : (s.modMe f).clock = s.clock := rfl
@[simp] theorem State.modMe_cur (f : Strand → Strand) : (s.modMe f).cur = s.cur := rfl
@[simp] theorem State.modMe_agenda (f : Strand → Strand) : (s.modMe f).agenda = s.agenda := rfl
@[simp] theorem State.modMe_pick (f : Strand → Strand) : (s.modMe f).pick = s.pick := rfl
@[simp] theorem State.modMe_free (f : Strand → Strand) : (s.modMe f).free = s.free := rfl
@[simp] theorem State.modMe_acts (f : Strand → Strand) : (s.modMe f).acts = s.acts := rfl
@[simp] theorem State.modMe_mem (f : Strand → Strand) : (s.modMe f).mem = s.mem := rfl
@[simp] theorem State.modMe_cores (f : Strand → Strand) : (s.modMe f).cores = s.cores := rfl
@[simp] theorem State.modMe_quads (f : Strand → Strand) : (s.modMe f).quads = s.quads := rfl
@[simp] theorem State.modMe_dies (f : Strand → Strand) : (s.modMe f).dies = s.dies := rfl
@[simp] theorem State.modMe_homes (f : Strand → Strand) : (s.modMe f).homes = s.homes := rfl
@[simp] theorem State.modMe_ctxs (f : Strand → Strand) : (s.modMe f).ctxs = s.ctxs := rfl
@[simp] theorem State.modMe_ranks (f : Strand → Strand) : (s.modMe f).ranks = s.ranks := rfl
@[simp] theorem State.modMe_bars (f : Strand → Strand) : (s.modMe f).bars = s.bars := rfl
@[simp] theorem State.modMe_flight (f : Strand → Strand) : (s.modMe f).flight = s.flight := rfl
@[simp] theorem State.modMe_pendings (f : Strand → Strand) : (s.modMe f).pendings = s.pendings := rfl
@[simp] theorem State.modMe_marks (f : Strand → Strand) : (s.modMe f).marks = s.marks := rfl
@[simp] theorem State.modMe_life (f : Strand → Strand) : (s.modMe f).life = s.life := rfl
@[simp] theorem State.modMe_fab (f : Strand → Strand) : (s.modMe f).fab = s.fab := rfl
@[simp] theorem State.modMe_ports (f : Strand → Strand) : (s.modMe f).ports = s.ports := rfl
@[simp] theorem State.modMe_redCells (f : Strand → Strand) : (s.modMe f).redCells = s.redCells := rfl
@[simp] theorem State.modMe_reasm (f : Strand → Strand) : (s.modMe f).reasm = s.reasm := rfl
@[simp] theorem State.modMe_landed (f : Strand → Strand) : (s.modMe f).landed = s.landed := rfl
@[simp] theorem State.modMe_spray (f : Strand → Strand) : (s.modMe f).spray = s.spray := rfl
@[simp] theorem State.modMe_saved (f : Strand → Strand) : (s.modMe f).saved = s.saved := rfl
@[simp] theorem State.modMe_ckpt (f : Strand → Strand) : (s.modMe f).ckpt = s.ckpt := rfl
@[simp] theorem State.modMe_tier (f : Strand → Strand) : (s.modMe f).tier = s.tier := rfl
@[simp] theorem State.modMe_boot (f : Strand → Strand) : (s.modMe f).boot = s.boot := rfl
@[simp] theorem State.modMe_attest (f : Strand → Strand) : (s.modMe f).attest = s.attest := rfl
@[simp] theorem State.modMe_attested (f : Strand → Strand) : (s.modMe f).attested = s.attested := rfl
@[simp] theorem State.modMe_quotes (f : Strand → Strand) : (s.modMe f).quotes = s.quotes := rfl
@[simp] theorem State.modMe_reads (f : Strand → Strand) : (s.modMe f).reads = s.reads := rfl
@[simp] theorem State.modMe_ios (f : Strand → Strand) : (s.modMe f).ios = s.ios := rfl
@[simp] theorem State.modMe_unit (f : Strand → Strand) : (s.modMe f).unit = s.unit := rfl

@[simp] theorem State.wr_pkg (d : Reg) (x : Word) : (s.wr d x).pkg = s.pkg := rfl
@[simp] theorem State.wr_clock (d : Reg) (x : Word) : (s.wr d x).clock = s.clock := rfl
@[simp] theorem State.wr_cur (d : Reg) (x : Word) : (s.wr d x).cur = s.cur := rfl
@[simp] theorem State.wr_agenda (d : Reg) (x : Word) : (s.wr d x).agenda = s.agenda := rfl
@[simp] theorem State.wr_pick (d : Reg) (x : Word) : (s.wr d x).pick = s.pick := rfl
@[simp] theorem State.wr_free (d : Reg) (x : Word) : (s.wr d x).free = s.free := rfl
@[simp] theorem State.wr_acts (d : Reg) (x : Word) : (s.wr d x).acts = s.acts := rfl
@[simp] theorem State.wr_mem (d : Reg) (x : Word) : (s.wr d x).mem = s.mem := rfl
@[simp] theorem State.wr_cores (d : Reg) (x : Word) : (s.wr d x).cores = s.cores := rfl
@[simp] theorem State.wr_quads (d : Reg) (x : Word) : (s.wr d x).quads = s.quads := rfl
@[simp] theorem State.wr_dies (d : Reg) (x : Word) : (s.wr d x).dies = s.dies := rfl
@[simp] theorem State.wr_homes (d : Reg) (x : Word) : (s.wr d x).homes = s.homes := rfl
@[simp] theorem State.wr_ctxs (d : Reg) (x : Word) : (s.wr d x).ctxs = s.ctxs := rfl
@[simp] theorem State.wr_ranks (d : Reg) (x : Word) : (s.wr d x).ranks = s.ranks := rfl
@[simp] theorem State.wr_bars (d : Reg) (x : Word) : (s.wr d x).bars = s.bars := rfl
@[simp] theorem State.wr_flight (d : Reg) (x : Word) : (s.wr d x).flight = s.flight := rfl
@[simp] theorem State.wr_pendings (d : Reg) (x : Word) : (s.wr d x).pendings = s.pendings := rfl
@[simp] theorem State.wr_marks (d : Reg) (x : Word) : (s.wr d x).marks = s.marks := rfl
@[simp] theorem State.wr_life (d : Reg) (x : Word) : (s.wr d x).life = s.life := rfl
@[simp] theorem State.wr_fab (d : Reg) (x : Word) : (s.wr d x).fab = s.fab := rfl
@[simp] theorem State.wr_ports (d : Reg) (x : Word) : (s.wr d x).ports = s.ports := rfl
@[simp] theorem State.wr_redCells (d : Reg) (x : Word) : (s.wr d x).redCells = s.redCells := rfl
@[simp] theorem State.wr_reasm (d : Reg) (x : Word) : (s.wr d x).reasm = s.reasm := rfl
@[simp] theorem State.wr_landed (d : Reg) (x : Word) : (s.wr d x).landed = s.landed := rfl
@[simp] theorem State.wr_spray (d : Reg) (x : Word) : (s.wr d x).spray = s.spray := rfl
@[simp] theorem State.wr_saved (d : Reg) (x : Word) : (s.wr d x).saved = s.saved := rfl
@[simp] theorem State.wr_ckpt (d : Reg) (x : Word) : (s.wr d x).ckpt = s.ckpt := rfl
@[simp] theorem State.wr_tier (d : Reg) (x : Word) : (s.wr d x).tier = s.tier := rfl
@[simp] theorem State.wr_boot (d : Reg) (x : Word) : (s.wr d x).boot = s.boot := rfl
@[simp] theorem State.wr_attest (d : Reg) (x : Word) : (s.wr d x).attest = s.attest := rfl
@[simp] theorem State.wr_attested (d : Reg) (x : Word) : (s.wr d x).attested = s.attested := rfl
@[simp] theorem State.wr_quotes (d : Reg) (x : Word) : (s.wr d x).quotes = s.quotes := rfl
@[simp] theorem State.wr_reads (d : Reg) (x : Word) : (s.wr d x).reads = s.reads := rfl
@[simp] theorem State.wr_ios (d : Reg) (x : Word) : (s.wr d x).ios = s.ios := rfl
@[simp] theorem State.wr_unit (d : Reg) (x : Word) : (s.wr d x).unit = s.unit := rfl

@[simp] theorem State.wrV_pkg (d : Reg) (x : Vec) : (s.wrV d x).pkg = s.pkg := rfl
@[simp] theorem State.wrV_clock (d : Reg) (x : Vec) : (s.wrV d x).clock = s.clock := rfl
@[simp] theorem State.wrV_cur (d : Reg) (x : Vec) : (s.wrV d x).cur = s.cur := rfl
@[simp] theorem State.wrV_agenda (d : Reg) (x : Vec) : (s.wrV d x).agenda = s.agenda := rfl
@[simp] theorem State.wrV_pick (d : Reg) (x : Vec) : (s.wrV d x).pick = s.pick := rfl
@[simp] theorem State.wrV_free (d : Reg) (x : Vec) : (s.wrV d x).free = s.free := rfl
@[simp] theorem State.wrV_acts (d : Reg) (x : Vec) : (s.wrV d x).acts = s.acts := rfl
@[simp] theorem State.wrV_mem (d : Reg) (x : Vec) : (s.wrV d x).mem = s.mem := rfl
@[simp] theorem State.wrV_cores (d : Reg) (x : Vec) : (s.wrV d x).cores = s.cores := rfl
@[simp] theorem State.wrV_quads (d : Reg) (x : Vec) : (s.wrV d x).quads = s.quads := rfl
@[simp] theorem State.wrV_dies (d : Reg) (x : Vec) : (s.wrV d x).dies = s.dies := rfl
@[simp] theorem State.wrV_homes (d : Reg) (x : Vec) : (s.wrV d x).homes = s.homes := rfl
@[simp] theorem State.wrV_ctxs (d : Reg) (x : Vec) : (s.wrV d x).ctxs = s.ctxs := rfl
@[simp] theorem State.wrV_ranks (d : Reg) (x : Vec) : (s.wrV d x).ranks = s.ranks := rfl
@[simp] theorem State.wrV_bars (d : Reg) (x : Vec) : (s.wrV d x).bars = s.bars := rfl
@[simp] theorem State.wrV_flight (d : Reg) (x : Vec) : (s.wrV d x).flight = s.flight := rfl
@[simp] theorem State.wrV_pendings (d : Reg) (x : Vec) : (s.wrV d x).pendings = s.pendings := rfl
@[simp] theorem State.wrV_marks (d : Reg) (x : Vec) : (s.wrV d x).marks = s.marks := rfl
@[simp] theorem State.wrV_life (d : Reg) (x : Vec) : (s.wrV d x).life = s.life := rfl
@[simp] theorem State.wrV_fab (d : Reg) (x : Vec) : (s.wrV d x).fab = s.fab := rfl
@[simp] theorem State.wrV_ports (d : Reg) (x : Vec) : (s.wrV d x).ports = s.ports := rfl
@[simp] theorem State.wrV_redCells (d : Reg) (x : Vec) : (s.wrV d x).redCells = s.redCells := rfl
@[simp] theorem State.wrV_reasm (d : Reg) (x : Vec) : (s.wrV d x).reasm = s.reasm := rfl
@[simp] theorem State.wrV_landed (d : Reg) (x : Vec) : (s.wrV d x).landed = s.landed := rfl
@[simp] theorem State.wrV_spray (d : Reg) (x : Vec) : (s.wrV d x).spray = s.spray := rfl
@[simp] theorem State.wrV_saved (d : Reg) (x : Vec) : (s.wrV d x).saved = s.saved := rfl
@[simp] theorem State.wrV_ckpt (d : Reg) (x : Vec) : (s.wrV d x).ckpt = s.ckpt := rfl
@[simp] theorem State.wrV_tier (d : Reg) (x : Vec) : (s.wrV d x).tier = s.tier := rfl
@[simp] theorem State.wrV_boot (d : Reg) (x : Vec) : (s.wrV d x).boot = s.boot := rfl
@[simp] theorem State.wrV_attest (d : Reg) (x : Vec) : (s.wrV d x).attest = s.attest := rfl
@[simp] theorem State.wrV_attested (d : Reg) (x : Vec) : (s.wrV d x).attested = s.attested := rfl
@[simp] theorem State.wrV_quotes (d : Reg) (x : Vec) : (s.wrV d x).quotes = s.quotes := rfl
@[simp] theorem State.wrV_reads (d : Reg) (x : Vec) : (s.wrV d x).reads = s.reads := rfl
@[simp] theorem State.wrV_ios (d : Reg) (x : Vec) : (s.wrV d x).ios = s.ios := rfl
@[simp] theorem State.wrV_unit (d : Reg) (x : Vec) : (s.wrV d x).unit = s.unit := rfl

@[simp] theorem State.wrM_pkg (d : MReg) (x : Mask) : (s.wrM d x).pkg = s.pkg := rfl
@[simp] theorem State.wrM_clock (d : MReg) (x : Mask) : (s.wrM d x).clock = s.clock := rfl
@[simp] theorem State.wrM_cur (d : MReg) (x : Mask) : (s.wrM d x).cur = s.cur := rfl
@[simp] theorem State.wrM_agenda (d : MReg) (x : Mask) : (s.wrM d x).agenda = s.agenda := rfl
@[simp] theorem State.wrM_pick (d : MReg) (x : Mask) : (s.wrM d x).pick = s.pick := rfl
@[simp] theorem State.wrM_free (d : MReg) (x : Mask) : (s.wrM d x).free = s.free := rfl
@[simp] theorem State.wrM_acts (d : MReg) (x : Mask) : (s.wrM d x).acts = s.acts := rfl
@[simp] theorem State.wrM_mem (d : MReg) (x : Mask) : (s.wrM d x).mem = s.mem := rfl
@[simp] theorem State.wrM_cores (d : MReg) (x : Mask) : (s.wrM d x).cores = s.cores := rfl
@[simp] theorem State.wrM_quads (d : MReg) (x : Mask) : (s.wrM d x).quads = s.quads := rfl
@[simp] theorem State.wrM_dies (d : MReg) (x : Mask) : (s.wrM d x).dies = s.dies := rfl
@[simp] theorem State.wrM_homes (d : MReg) (x : Mask) : (s.wrM d x).homes = s.homes := rfl
@[simp] theorem State.wrM_ctxs (d : MReg) (x : Mask) : (s.wrM d x).ctxs = s.ctxs := rfl
@[simp] theorem State.wrM_ranks (d : MReg) (x : Mask) : (s.wrM d x).ranks = s.ranks := rfl
@[simp] theorem State.wrM_bars (d : MReg) (x : Mask) : (s.wrM d x).bars = s.bars := rfl
@[simp] theorem State.wrM_flight (d : MReg) (x : Mask) : (s.wrM d x).flight = s.flight := rfl
@[simp] theorem State.wrM_pendings (d : MReg) (x : Mask) : (s.wrM d x).pendings = s.pendings := rfl
@[simp] theorem State.wrM_marks (d : MReg) (x : Mask) : (s.wrM d x).marks = s.marks := rfl
@[simp] theorem State.wrM_life (d : MReg) (x : Mask) : (s.wrM d x).life = s.life := rfl
@[simp] theorem State.wrM_fab (d : MReg) (x : Mask) : (s.wrM d x).fab = s.fab := rfl
@[simp] theorem State.wrM_ports (d : MReg) (x : Mask) : (s.wrM d x).ports = s.ports := rfl
@[simp] theorem State.wrM_redCells (d : MReg) (x : Mask) : (s.wrM d x).redCells = s.redCells := rfl
@[simp] theorem State.wrM_reasm (d : MReg) (x : Mask) : (s.wrM d x).reasm = s.reasm := rfl
@[simp] theorem State.wrM_landed (d : MReg) (x : Mask) : (s.wrM d x).landed = s.landed := rfl
@[simp] theorem State.wrM_spray (d : MReg) (x : Mask) : (s.wrM d x).spray = s.spray := rfl
@[simp] theorem State.wrM_saved (d : MReg) (x : Mask) : (s.wrM d x).saved = s.saved := rfl
@[simp] theorem State.wrM_ckpt (d : MReg) (x : Mask) : (s.wrM d x).ckpt = s.ckpt := rfl
@[simp] theorem State.wrM_tier (d : MReg) (x : Mask) : (s.wrM d x).tier = s.tier := rfl
@[simp] theorem State.wrM_boot (d : MReg) (x : Mask) : (s.wrM d x).boot = s.boot := rfl
@[simp] theorem State.wrM_attest (d : MReg) (x : Mask) : (s.wrM d x).attest = s.attest := rfl
@[simp] theorem State.wrM_attested (d : MReg) (x : Mask) : (s.wrM d x).attested = s.attested := rfl
@[simp] theorem State.wrM_quotes (d : MReg) (x : Mask) : (s.wrM d x).quotes = s.quotes := rfl
@[simp] theorem State.wrM_reads (d : MReg) (x : Mask) : (s.wrM d x).reads = s.reads := rfl
@[simp] theorem State.wrM_ios (d : MReg) (x : Mask) : (s.wrM d x).ios = s.ios := rfl
@[simp] theorem State.wrM_unit (d : MReg) (x : Mask) : (s.wrM d x).unit = s.unit := rfl

@[simp] theorem State.retire_pkg (n : Nat) : (s.retire n).pkg = s.pkg := rfl
@[simp] theorem State.retire_clock (n : Nat) : (s.retire n).clock = s.clock := rfl
@[simp] theorem State.retire_cur (n : Nat) : (s.retire n).cur = s.cur := rfl
@[simp] theorem State.retire_agenda (n : Nat) : (s.retire n).agenda = s.agenda := rfl
@[simp] theorem State.retire_pick (n : Nat) : (s.retire n).pick = s.pick := rfl
@[simp] theorem State.retire_free (n : Nat) : (s.retire n).free = s.free := rfl
@[simp] theorem State.retire_acts (n : Nat) : (s.retire n).acts = s.acts := rfl
@[simp] theorem State.retire_mem (n : Nat) : (s.retire n).mem = s.mem := rfl
@[simp] theorem State.retire_cores (n : Nat) : (s.retire n).cores = s.cores := rfl
@[simp] theorem State.retire_quads (n : Nat) : (s.retire n).quads = s.quads := rfl
@[simp] theorem State.retire_dies (n : Nat) : (s.retire n).dies = s.dies := rfl
@[simp] theorem State.retire_homes (n : Nat) : (s.retire n).homes = s.homes := rfl
@[simp] theorem State.retire_ctxs (n : Nat) : (s.retire n).ctxs = s.ctxs := rfl
@[simp] theorem State.retire_ranks (n : Nat) : (s.retire n).ranks = s.ranks := rfl
@[simp] theorem State.retire_bars (n : Nat) : (s.retire n).bars = s.bars := rfl
@[simp] theorem State.retire_flight (n : Nat) : (s.retire n).flight = s.flight := rfl
@[simp] theorem State.retire_pendings (n : Nat) : (s.retire n).pendings = s.pendings := rfl
@[simp] theorem State.retire_marks (n : Nat) : (s.retire n).marks = s.marks := rfl
@[simp] theorem State.retire_life (n : Nat) : (s.retire n).life = s.life := rfl
@[simp] theorem State.retire_fab (n : Nat) : (s.retire n).fab = s.fab := rfl
@[simp] theorem State.retire_ports (n : Nat) : (s.retire n).ports = s.ports := rfl
@[simp] theorem State.retire_redCells (n : Nat) : (s.retire n).redCells = s.redCells := rfl
@[simp] theorem State.retire_reasm (n : Nat) : (s.retire n).reasm = s.reasm := rfl
@[simp] theorem State.retire_landed (n : Nat) : (s.retire n).landed = s.landed := rfl
@[simp] theorem State.retire_spray (n : Nat) : (s.retire n).spray = s.spray := rfl
@[simp] theorem State.retire_saved (n : Nat) : (s.retire n).saved = s.saved := rfl
@[simp] theorem State.retire_ckpt (n : Nat) : (s.retire n).ckpt = s.ckpt := rfl
@[simp] theorem State.retire_tier (n : Nat) : (s.retire n).tier = s.tier := rfl
@[simp] theorem State.retire_boot (n : Nat) : (s.retire n).boot = s.boot := rfl
@[simp] theorem State.retire_attest (n : Nat) : (s.retire n).attest = s.attest := rfl
@[simp] theorem State.retire_attested (n : Nat) : (s.retire n).attested = s.attested := rfl
@[simp] theorem State.retire_quotes (n : Nat) : (s.retire n).quotes = s.quotes := rfl
@[simp] theorem State.retire_reads (n : Nat) : (s.retire n).reads = s.reads := rfl
@[simp] theorem State.retire_ios (n : Nat) : (s.retire n).ios = s.ios := rfl
@[simp] theorem State.retire_unit (n : Nat) : (s.retire n).unit = s.unit := rfl

@[simp] theorem State.jump_pkg (pc : Word) : (s.jump pc).pkg = s.pkg := rfl
@[simp] theorem State.jump_clock (pc : Word) : (s.jump pc).clock = s.clock := rfl
@[simp] theorem State.jump_cur (pc : Word) : (s.jump pc).cur = s.cur := rfl
@[simp] theorem State.jump_agenda (pc : Word) : (s.jump pc).agenda = s.agenda := rfl
@[simp] theorem State.jump_pick (pc : Word) : (s.jump pc).pick = s.pick := rfl
@[simp] theorem State.jump_free (pc : Word) : (s.jump pc).free = s.free := rfl
@[simp] theorem State.jump_acts (pc : Word) : (s.jump pc).acts = s.acts := rfl
@[simp] theorem State.jump_mem (pc : Word) : (s.jump pc).mem = s.mem := rfl
@[simp] theorem State.jump_cores (pc : Word) : (s.jump pc).cores = s.cores := rfl
@[simp] theorem State.jump_quads (pc : Word) : (s.jump pc).quads = s.quads := rfl
@[simp] theorem State.jump_dies (pc : Word) : (s.jump pc).dies = s.dies := rfl
@[simp] theorem State.jump_homes (pc : Word) : (s.jump pc).homes = s.homes := rfl
@[simp] theorem State.jump_ctxs (pc : Word) : (s.jump pc).ctxs = s.ctxs := rfl
@[simp] theorem State.jump_ranks (pc : Word) : (s.jump pc).ranks = s.ranks := rfl
@[simp] theorem State.jump_bars (pc : Word) : (s.jump pc).bars = s.bars := rfl
@[simp] theorem State.jump_flight (pc : Word) : (s.jump pc).flight = s.flight := rfl
@[simp] theorem State.jump_pendings (pc : Word) : (s.jump pc).pendings = s.pendings := rfl
@[simp] theorem State.jump_marks (pc : Word) : (s.jump pc).marks = s.marks := rfl
@[simp] theorem State.jump_life (pc : Word) : (s.jump pc).life = s.life := rfl
@[simp] theorem State.jump_fab (pc : Word) : (s.jump pc).fab = s.fab := rfl
@[simp] theorem State.jump_ports (pc : Word) : (s.jump pc).ports = s.ports := rfl
@[simp] theorem State.jump_redCells (pc : Word) : (s.jump pc).redCells = s.redCells := rfl
@[simp] theorem State.jump_reasm (pc : Word) : (s.jump pc).reasm = s.reasm := rfl
@[simp] theorem State.jump_landed (pc : Word) : (s.jump pc).landed = s.landed := rfl
@[simp] theorem State.jump_spray (pc : Word) : (s.jump pc).spray = s.spray := rfl
@[simp] theorem State.jump_saved (pc : Word) : (s.jump pc).saved = s.saved := rfl
@[simp] theorem State.jump_ckpt (pc : Word) : (s.jump pc).ckpt = s.ckpt := rfl
@[simp] theorem State.jump_tier (pc : Word) : (s.jump pc).tier = s.tier := rfl
@[simp] theorem State.jump_boot (pc : Word) : (s.jump pc).boot = s.boot := rfl
@[simp] theorem State.jump_attest (pc : Word) : (s.jump pc).attest = s.attest := rfl
@[simp] theorem State.jump_attested (pc : Word) : (s.jump pc).attested = s.attested := rfl
@[simp] theorem State.jump_quotes (pc : Word) : (s.jump pc).quotes = s.quotes := rfl
@[simp] theorem State.jump_reads (pc : Word) : (s.jump pc).reads = s.reads := rfl
@[simp] theorem State.jump_ios (pc : Word) : (s.jump pc).ios = s.ios := rfl
@[simp] theorem State.jump_unit (pc : Word) : (s.jump pc).unit = s.unit := rfl

@[simp] theorem State.modCore_pkg (k : Nat) (f : Core → Core) : (s.modCore k f).pkg = s.pkg := rfl
@[simp] theorem State.modCore_clock (k : Nat) (f : Core → Core) : (s.modCore k f).clock = s.clock := rfl
@[simp] theorem State.modCore_cur (k : Nat) (f : Core → Core) : (s.modCore k f).cur = s.cur := rfl
@[simp] theorem State.modCore_agenda (k : Nat) (f : Core → Core) : (s.modCore k f).agenda = s.agenda := rfl
@[simp] theorem State.modCore_pick (k : Nat) (f : Core → Core) : (s.modCore k f).pick = s.pick := rfl
@[simp] theorem State.modCore_free (k : Nat) (f : Core → Core) : (s.modCore k f).free = s.free := rfl
@[simp] theorem State.modCore_acts (k : Nat) (f : Core → Core) : (s.modCore k f).acts = s.acts := rfl
@[simp] theorem State.modCore_mem (k : Nat) (f : Core → Core) : (s.modCore k f).mem = s.mem := rfl
@[simp] theorem State.modCore_strands (k : Nat) (f : Core → Core) : (s.modCore k f).strands = s.strands := rfl
@[simp] theorem State.modCore_quads (k : Nat) (f : Core → Core) : (s.modCore k f).quads = s.quads := rfl
@[simp] theorem State.modCore_dies (k : Nat) (f : Core → Core) : (s.modCore k f).dies = s.dies := rfl
@[simp] theorem State.modCore_homes (k : Nat) (f : Core → Core) : (s.modCore k f).homes = s.homes := rfl
@[simp] theorem State.modCore_ctxs (k : Nat) (f : Core → Core) : (s.modCore k f).ctxs = s.ctxs := rfl
@[simp] theorem State.modCore_ranks (k : Nat) (f : Core → Core) : (s.modCore k f).ranks = s.ranks := rfl
@[simp] theorem State.modCore_bars (k : Nat) (f : Core → Core) : (s.modCore k f).bars = s.bars := rfl
@[simp] theorem State.modCore_flight (k : Nat) (f : Core → Core) : (s.modCore k f).flight = s.flight := rfl
@[simp] theorem State.modCore_pendings (k : Nat) (f : Core → Core) : (s.modCore k f).pendings = s.pendings := rfl
@[simp] theorem State.modCore_marks (k : Nat) (f : Core → Core) : (s.modCore k f).marks = s.marks := rfl
@[simp] theorem State.modCore_life (k : Nat) (f : Core → Core) : (s.modCore k f).life = s.life := rfl
@[simp] theorem State.modCore_fab (k : Nat) (f : Core → Core) : (s.modCore k f).fab = s.fab := rfl
@[simp] theorem State.modCore_ports (k : Nat) (f : Core → Core) : (s.modCore k f).ports = s.ports := rfl
@[simp] theorem State.modCore_redCells (k : Nat) (f : Core → Core) : (s.modCore k f).redCells = s.redCells := rfl
@[simp] theorem State.modCore_reasm (k : Nat) (f : Core → Core) : (s.modCore k f).reasm = s.reasm := rfl
@[simp] theorem State.modCore_landed (k : Nat) (f : Core → Core) : (s.modCore k f).landed = s.landed := rfl
@[simp] theorem State.modCore_spray (k : Nat) (f : Core → Core) : (s.modCore k f).spray = s.spray := rfl
@[simp] theorem State.modCore_saved (k : Nat) (f : Core → Core) : (s.modCore k f).saved = s.saved := rfl
@[simp] theorem State.modCore_ckpt (k : Nat) (f : Core → Core) : (s.modCore k f).ckpt = s.ckpt := rfl
@[simp] theorem State.modCore_tier (k : Nat) (f : Core → Core) : (s.modCore k f).tier = s.tier := rfl
@[simp] theorem State.modCore_boot (k : Nat) (f : Core → Core) : (s.modCore k f).boot = s.boot := rfl
@[simp] theorem State.modCore_attest (k : Nat) (f : Core → Core) : (s.modCore k f).attest = s.attest := rfl
@[simp] theorem State.modCore_attested (k : Nat) (f : Core → Core) : (s.modCore k f).attested = s.attested := rfl
@[simp] theorem State.modCore_quotes (k : Nat) (f : Core → Core) : (s.modCore k f).quotes = s.quotes := rfl
@[simp] theorem State.modCore_reads (k : Nat) (f : Core → Core) : (s.modCore k f).reads = s.reads := rfl
@[simp] theorem State.modCore_ios (k : Nat) (f : Core → Core) : (s.modCore k f).ios = s.ios := rfl
@[simp] theorem State.modCore_unit (k : Nat) (f : Core → Core) : (s.modCore k f).unit = s.unit := rfl

@[simp] theorem State.modMyCore_pkg (f : Core → Core) : (s.modMyCore f).pkg = s.pkg := rfl
@[simp] theorem State.modMyCore_clock (f : Core → Core) : (s.modMyCore f).clock = s.clock := rfl
@[simp] theorem State.modMyCore_cur (f : Core → Core) : (s.modMyCore f).cur = s.cur := rfl
@[simp] theorem State.modMyCore_agenda (f : Core → Core) : (s.modMyCore f).agenda = s.agenda := rfl
@[simp] theorem State.modMyCore_pick (f : Core → Core) : (s.modMyCore f).pick = s.pick := rfl
@[simp] theorem State.modMyCore_free (f : Core → Core) : (s.modMyCore f).free = s.free := rfl
@[simp] theorem State.modMyCore_acts (f : Core → Core) : (s.modMyCore f).acts = s.acts := rfl
@[simp] theorem State.modMyCore_mem (f : Core → Core) : (s.modMyCore f).mem = s.mem := rfl
@[simp] theorem State.modMyCore_strands (f : Core → Core) : (s.modMyCore f).strands = s.strands := rfl
@[simp] theorem State.modMyCore_quads (f : Core → Core) : (s.modMyCore f).quads = s.quads := rfl
@[simp] theorem State.modMyCore_dies (f : Core → Core) : (s.modMyCore f).dies = s.dies := rfl
@[simp] theorem State.modMyCore_homes (f : Core → Core) : (s.modMyCore f).homes = s.homes := rfl
@[simp] theorem State.modMyCore_ctxs (f : Core → Core) : (s.modMyCore f).ctxs = s.ctxs := rfl
@[simp] theorem State.modMyCore_ranks (f : Core → Core) : (s.modMyCore f).ranks = s.ranks := rfl
@[simp] theorem State.modMyCore_bars (f : Core → Core) : (s.modMyCore f).bars = s.bars := rfl
@[simp] theorem State.modMyCore_flight (f : Core → Core) : (s.modMyCore f).flight = s.flight := rfl
@[simp] theorem State.modMyCore_pendings (f : Core → Core) : (s.modMyCore f).pendings = s.pendings := rfl
@[simp] theorem State.modMyCore_marks (f : Core → Core) : (s.modMyCore f).marks = s.marks := rfl
@[simp] theorem State.modMyCore_life (f : Core → Core) : (s.modMyCore f).life = s.life := rfl
@[simp] theorem State.modMyCore_fab (f : Core → Core) : (s.modMyCore f).fab = s.fab := rfl
@[simp] theorem State.modMyCore_ports (f : Core → Core) : (s.modMyCore f).ports = s.ports := rfl
@[simp] theorem State.modMyCore_redCells (f : Core → Core) : (s.modMyCore f).redCells = s.redCells := rfl
@[simp] theorem State.modMyCore_reasm (f : Core → Core) : (s.modMyCore f).reasm = s.reasm := rfl
@[simp] theorem State.modMyCore_landed (f : Core → Core) : (s.modMyCore f).landed = s.landed := rfl
@[simp] theorem State.modMyCore_spray (f : Core → Core) : (s.modMyCore f).spray = s.spray := rfl
@[simp] theorem State.modMyCore_saved (f : Core → Core) : (s.modMyCore f).saved = s.saved := rfl
@[simp] theorem State.modMyCore_ckpt (f : Core → Core) : (s.modMyCore f).ckpt = s.ckpt := rfl
@[simp] theorem State.modMyCore_tier (f : Core → Core) : (s.modMyCore f).tier = s.tier := rfl
@[simp] theorem State.modMyCore_boot (f : Core → Core) : (s.modMyCore f).boot = s.boot := rfl
@[simp] theorem State.modMyCore_attest (f : Core → Core) : (s.modMyCore f).attest = s.attest := rfl
@[simp] theorem State.modMyCore_attested (f : Core → Core) : (s.modMyCore f).attested = s.attested := rfl
@[simp] theorem State.modMyCore_quotes (f : Core → Core) : (s.modMyCore f).quotes = s.quotes := rfl
@[simp] theorem State.modMyCore_reads (f : Core → Core) : (s.modMyCore f).reads = s.reads := rfl
@[simp] theorem State.modMyCore_ios (f : Core → Core) : (s.modMyCore f).ios = s.ios := rfl
@[simp] theorem State.modMyCore_unit (f : Core → Core) : (s.modMyCore f).unit = s.unit := rfl

@[simp] theorem State.addFlags_pkg (n : Nat) : (s.addFlags n).pkg = s.pkg := rfl
@[simp] theorem State.addFlags_clock (n : Nat) : (s.addFlags n).clock = s.clock := rfl
@[simp] theorem State.addFlags_cur (n : Nat) : (s.addFlags n).cur = s.cur := rfl
@[simp] theorem State.addFlags_agenda (n : Nat) : (s.addFlags n).agenda = s.agenda := rfl
@[simp] theorem State.addFlags_pick (n : Nat) : (s.addFlags n).pick = s.pick := rfl
@[simp] theorem State.addFlags_free (n : Nat) : (s.addFlags n).free = s.free := rfl
@[simp] theorem State.addFlags_acts (n : Nat) : (s.addFlags n).acts = s.acts := rfl
@[simp] theorem State.addFlags_mem (n : Nat) : (s.addFlags n).mem = s.mem := rfl
@[simp] theorem State.addFlags_strands (n : Nat) : (s.addFlags n).strands = s.strands := rfl
@[simp] theorem State.addFlags_quads (n : Nat) : (s.addFlags n).quads = s.quads := rfl
@[simp] theorem State.addFlags_dies (n : Nat) : (s.addFlags n).dies = s.dies := rfl
@[simp] theorem State.addFlags_homes (n : Nat) : (s.addFlags n).homes = s.homes := rfl
@[simp] theorem State.addFlags_ctxs (n : Nat) : (s.addFlags n).ctxs = s.ctxs := rfl
@[simp] theorem State.addFlags_ranks (n : Nat) : (s.addFlags n).ranks = s.ranks := rfl
@[simp] theorem State.addFlags_bars (n : Nat) : (s.addFlags n).bars = s.bars := rfl
@[simp] theorem State.addFlags_flight (n : Nat) : (s.addFlags n).flight = s.flight := rfl
@[simp] theorem State.addFlags_pendings (n : Nat) : (s.addFlags n).pendings = s.pendings := rfl
@[simp] theorem State.addFlags_marks (n : Nat) : (s.addFlags n).marks = s.marks := rfl
@[simp] theorem State.addFlags_life (n : Nat) : (s.addFlags n).life = s.life := rfl
@[simp] theorem State.addFlags_fab (n : Nat) : (s.addFlags n).fab = s.fab := rfl
@[simp] theorem State.addFlags_ports (n : Nat) : (s.addFlags n).ports = s.ports := rfl
@[simp] theorem State.addFlags_redCells (n : Nat) : (s.addFlags n).redCells = s.redCells := rfl
@[simp] theorem State.addFlags_reasm (n : Nat) : (s.addFlags n).reasm = s.reasm := rfl
@[simp] theorem State.addFlags_landed (n : Nat) : (s.addFlags n).landed = s.landed := rfl
@[simp] theorem State.addFlags_spray (n : Nat) : (s.addFlags n).spray = s.spray := rfl
@[simp] theorem State.addFlags_saved (n : Nat) : (s.addFlags n).saved = s.saved := rfl
@[simp] theorem State.addFlags_ckpt (n : Nat) : (s.addFlags n).ckpt = s.ckpt := rfl
@[simp] theorem State.addFlags_tier (n : Nat) : (s.addFlags n).tier = s.tier := rfl
@[simp] theorem State.addFlags_boot (n : Nat) : (s.addFlags n).boot = s.boot := rfl
@[simp] theorem State.addFlags_attest (n : Nat) : (s.addFlags n).attest = s.attest := rfl
@[simp] theorem State.addFlags_attested (n : Nat) : (s.addFlags n).attested = s.attested := rfl
@[simp] theorem State.addFlags_quotes (n : Nat) : (s.addFlags n).quotes = s.quotes := rfl
@[simp] theorem State.addFlags_reads (n : Nat) : (s.addFlags n).reads = s.reads := rfl
@[simp] theorem State.addFlags_ios (n : Nat) : (s.addFlags n).ios = s.ios := rfl
@[simp] theorem State.addFlags_unit (n : Nat) : (s.addFlags n).unit = s.unit := rfl

@[simp] theorem State.modQuad_pkg (k : Nat) (f : Quad → Quad) : (s.modQuad k f).pkg = s.pkg := rfl
@[simp] theorem State.modQuad_clock (k : Nat) (f : Quad → Quad) : (s.modQuad k f).clock = s.clock := rfl
@[simp] theorem State.modQuad_cur (k : Nat) (f : Quad → Quad) : (s.modQuad k f).cur = s.cur := rfl
@[simp] theorem State.modQuad_agenda (k : Nat) (f : Quad → Quad) : (s.modQuad k f).agenda = s.agenda := rfl
@[simp] theorem State.modQuad_pick (k : Nat) (f : Quad → Quad) : (s.modQuad k f).pick = s.pick := rfl
@[simp] theorem State.modQuad_free (k : Nat) (f : Quad → Quad) : (s.modQuad k f).free = s.free := rfl
@[simp] theorem State.modQuad_acts (k : Nat) (f : Quad → Quad) : (s.modQuad k f).acts = s.acts := rfl
@[simp] theorem State.modQuad_mem (k : Nat) (f : Quad → Quad) : (s.modQuad k f).mem = s.mem := rfl
@[simp] theorem State.modQuad_strands (k : Nat) (f : Quad → Quad) : (s.modQuad k f).strands = s.strands := rfl
@[simp] theorem State.modQuad_cores (k : Nat) (f : Quad → Quad) : (s.modQuad k f).cores = s.cores := rfl
@[simp] theorem State.modQuad_dies (k : Nat) (f : Quad → Quad) : (s.modQuad k f).dies = s.dies := rfl
@[simp] theorem State.modQuad_homes (k : Nat) (f : Quad → Quad) : (s.modQuad k f).homes = s.homes := rfl
@[simp] theorem State.modQuad_ctxs (k : Nat) (f : Quad → Quad) : (s.modQuad k f).ctxs = s.ctxs := rfl
@[simp] theorem State.modQuad_ranks (k : Nat) (f : Quad → Quad) : (s.modQuad k f).ranks = s.ranks := rfl
@[simp] theorem State.modQuad_bars (k : Nat) (f : Quad → Quad) : (s.modQuad k f).bars = s.bars := rfl
@[simp] theorem State.modQuad_flight (k : Nat) (f : Quad → Quad) : (s.modQuad k f).flight = s.flight := rfl
@[simp] theorem State.modQuad_pendings (k : Nat) (f : Quad → Quad) : (s.modQuad k f).pendings = s.pendings := rfl
@[simp] theorem State.modQuad_marks (k : Nat) (f : Quad → Quad) : (s.modQuad k f).marks = s.marks := rfl
@[simp] theorem State.modQuad_life (k : Nat) (f : Quad → Quad) : (s.modQuad k f).life = s.life := rfl
@[simp] theorem State.modQuad_fab (k : Nat) (f : Quad → Quad) : (s.modQuad k f).fab = s.fab := rfl
@[simp] theorem State.modQuad_ports (k : Nat) (f : Quad → Quad) : (s.modQuad k f).ports = s.ports := rfl
@[simp] theorem State.modQuad_redCells (k : Nat) (f : Quad → Quad) : (s.modQuad k f).redCells = s.redCells := rfl
@[simp] theorem State.modQuad_reasm (k : Nat) (f : Quad → Quad) : (s.modQuad k f).reasm = s.reasm := rfl
@[simp] theorem State.modQuad_landed (k : Nat) (f : Quad → Quad) : (s.modQuad k f).landed = s.landed := rfl
@[simp] theorem State.modQuad_spray (k : Nat) (f : Quad → Quad) : (s.modQuad k f).spray = s.spray := rfl
@[simp] theorem State.modQuad_saved (k : Nat) (f : Quad → Quad) : (s.modQuad k f).saved = s.saved := rfl
@[simp] theorem State.modQuad_ckpt (k : Nat) (f : Quad → Quad) : (s.modQuad k f).ckpt = s.ckpt := rfl
@[simp] theorem State.modQuad_tier (k : Nat) (f : Quad → Quad) : (s.modQuad k f).tier = s.tier := rfl
@[simp] theorem State.modQuad_boot (k : Nat) (f : Quad → Quad) : (s.modQuad k f).boot = s.boot := rfl
@[simp] theorem State.modQuad_attest (k : Nat) (f : Quad → Quad) : (s.modQuad k f).attest = s.attest := rfl
@[simp] theorem State.modQuad_attested (k : Nat) (f : Quad → Quad) : (s.modQuad k f).attested = s.attested := rfl
@[simp] theorem State.modQuad_quotes (k : Nat) (f : Quad → Quad) : (s.modQuad k f).quotes = s.quotes := rfl
@[simp] theorem State.modQuad_reads (k : Nat) (f : Quad → Quad) : (s.modQuad k f).reads = s.reads := rfl
@[simp] theorem State.modQuad_ios (k : Nat) (f : Quad → Quad) : (s.modQuad k f).ios = s.ios := rfl
@[simp] theorem State.modQuad_unit (k : Nat) (f : Quad → Quad) : (s.modQuad k f).unit = s.unit := rfl

@[simp] theorem State.modDie_pkg (k : Nat) (f : Die → Die) : (s.modDie k f).pkg = s.pkg := rfl
@[simp] theorem State.modDie_clock (k : Nat) (f : Die → Die) : (s.modDie k f).clock = s.clock := rfl
@[simp] theorem State.modDie_cur (k : Nat) (f : Die → Die) : (s.modDie k f).cur = s.cur := rfl
@[simp] theorem State.modDie_agenda (k : Nat) (f : Die → Die) : (s.modDie k f).agenda = s.agenda := rfl
@[simp] theorem State.modDie_pick (k : Nat) (f : Die → Die) : (s.modDie k f).pick = s.pick := rfl
@[simp] theorem State.modDie_free (k : Nat) (f : Die → Die) : (s.modDie k f).free = s.free := rfl
@[simp] theorem State.modDie_acts (k : Nat) (f : Die → Die) : (s.modDie k f).acts = s.acts := rfl
@[simp] theorem State.modDie_mem (k : Nat) (f : Die → Die) : (s.modDie k f).mem = s.mem := rfl
@[simp] theorem State.modDie_strands (k : Nat) (f : Die → Die) : (s.modDie k f).strands = s.strands := rfl
@[simp] theorem State.modDie_cores (k : Nat) (f : Die → Die) : (s.modDie k f).cores = s.cores := rfl
@[simp] theorem State.modDie_quads (k : Nat) (f : Die → Die) : (s.modDie k f).quads = s.quads := rfl
@[simp] theorem State.modDie_homes (k : Nat) (f : Die → Die) : (s.modDie k f).homes = s.homes := rfl
@[simp] theorem State.modDie_ctxs (k : Nat) (f : Die → Die) : (s.modDie k f).ctxs = s.ctxs := rfl
@[simp] theorem State.modDie_ranks (k : Nat) (f : Die → Die) : (s.modDie k f).ranks = s.ranks := rfl
@[simp] theorem State.modDie_bars (k : Nat) (f : Die → Die) : (s.modDie k f).bars = s.bars := rfl
@[simp] theorem State.modDie_flight (k : Nat) (f : Die → Die) : (s.modDie k f).flight = s.flight := rfl
@[simp] theorem State.modDie_pendings (k : Nat) (f : Die → Die) : (s.modDie k f).pendings = s.pendings := rfl
@[simp] theorem State.modDie_marks (k : Nat) (f : Die → Die) : (s.modDie k f).marks = s.marks := rfl
@[simp] theorem State.modDie_life (k : Nat) (f : Die → Die) : (s.modDie k f).life = s.life := rfl
@[simp] theorem State.modDie_fab (k : Nat) (f : Die → Die) : (s.modDie k f).fab = s.fab := rfl
@[simp] theorem State.modDie_ports (k : Nat) (f : Die → Die) : (s.modDie k f).ports = s.ports := rfl
@[simp] theorem State.modDie_redCells (k : Nat) (f : Die → Die) : (s.modDie k f).redCells = s.redCells := rfl
@[simp] theorem State.modDie_reasm (k : Nat) (f : Die → Die) : (s.modDie k f).reasm = s.reasm := rfl
@[simp] theorem State.modDie_landed (k : Nat) (f : Die → Die) : (s.modDie k f).landed = s.landed := rfl
@[simp] theorem State.modDie_spray (k : Nat) (f : Die → Die) : (s.modDie k f).spray = s.spray := rfl
@[simp] theorem State.modDie_saved (k : Nat) (f : Die → Die) : (s.modDie k f).saved = s.saved := rfl
@[simp] theorem State.modDie_ckpt (k : Nat) (f : Die → Die) : (s.modDie k f).ckpt = s.ckpt := rfl
@[simp] theorem State.modDie_tier (k : Nat) (f : Die → Die) : (s.modDie k f).tier = s.tier := rfl
@[simp] theorem State.modDie_boot (k : Nat) (f : Die → Die) : (s.modDie k f).boot = s.boot := rfl
@[simp] theorem State.modDie_attest (k : Nat) (f : Die → Die) : (s.modDie k f).attest = s.attest := rfl
@[simp] theorem State.modDie_attested (k : Nat) (f : Die → Die) : (s.modDie k f).attested = s.attested := rfl
@[simp] theorem State.modDie_quotes (k : Nat) (f : Die → Die) : (s.modDie k f).quotes = s.quotes := rfl
@[simp] theorem State.modDie_reads (k : Nat) (f : Die → Die) : (s.modDie k f).reads = s.reads := rfl
@[simp] theorem State.modDie_ios (k : Nat) (f : Die → Die) : (s.modDie k f).ios = s.ios := rfl
@[simp] theorem State.modDie_unit (k : Nat) (f : Die → Die) : (s.modDie k f).unit = s.unit := rfl

@[simp] theorem State.modHome_pkg (k : HomeId) (f : Home → Home) : (s.modHome k f).pkg = s.pkg := rfl
@[simp] theorem State.modHome_clock (k : HomeId) (f : Home → Home) : (s.modHome k f).clock = s.clock := rfl
@[simp] theorem State.modHome_cur (k : HomeId) (f : Home → Home) : (s.modHome k f).cur = s.cur := rfl
@[simp] theorem State.modHome_agenda (k : HomeId) (f : Home → Home) : (s.modHome k f).agenda = s.agenda := rfl
@[simp] theorem State.modHome_pick (k : HomeId) (f : Home → Home) : (s.modHome k f).pick = s.pick := rfl
@[simp] theorem State.modHome_free (k : HomeId) (f : Home → Home) : (s.modHome k f).free = s.free := rfl
@[simp] theorem State.modHome_acts (k : HomeId) (f : Home → Home) : (s.modHome k f).acts = s.acts := rfl
@[simp] theorem State.modHome_mem (k : HomeId) (f : Home → Home) : (s.modHome k f).mem = s.mem := rfl
@[simp] theorem State.modHome_strands (k : HomeId) (f : Home → Home) : (s.modHome k f).strands = s.strands := rfl
@[simp] theorem State.modHome_cores (k : HomeId) (f : Home → Home) : (s.modHome k f).cores = s.cores := rfl
@[simp] theorem State.modHome_quads (k : HomeId) (f : Home → Home) : (s.modHome k f).quads = s.quads := rfl
@[simp] theorem State.modHome_dies (k : HomeId) (f : Home → Home) : (s.modHome k f).dies = s.dies := rfl
@[simp] theorem State.modHome_ctxs (k : HomeId) (f : Home → Home) : (s.modHome k f).ctxs = s.ctxs := rfl
@[simp] theorem State.modHome_ranks (k : HomeId) (f : Home → Home) : (s.modHome k f).ranks = s.ranks := rfl
@[simp] theorem State.modHome_bars (k : HomeId) (f : Home → Home) : (s.modHome k f).bars = s.bars := rfl
@[simp] theorem State.modHome_flight (k : HomeId) (f : Home → Home) : (s.modHome k f).flight = s.flight := rfl
@[simp] theorem State.modHome_pendings (k : HomeId) (f : Home → Home) : (s.modHome k f).pendings = s.pendings := rfl
@[simp] theorem State.modHome_marks (k : HomeId) (f : Home → Home) : (s.modHome k f).marks = s.marks := rfl
@[simp] theorem State.modHome_life (k : HomeId) (f : Home → Home) : (s.modHome k f).life = s.life := rfl
@[simp] theorem State.modHome_fab (k : HomeId) (f : Home → Home) : (s.modHome k f).fab = s.fab := rfl
@[simp] theorem State.modHome_ports (k : HomeId) (f : Home → Home) : (s.modHome k f).ports = s.ports := rfl
@[simp] theorem State.modHome_redCells (k : HomeId) (f : Home → Home) : (s.modHome k f).redCells = s.redCells := rfl
@[simp] theorem State.modHome_reasm (k : HomeId) (f : Home → Home) : (s.modHome k f).reasm = s.reasm := rfl
@[simp] theorem State.modHome_landed (k : HomeId) (f : Home → Home) : (s.modHome k f).landed = s.landed := rfl
@[simp] theorem State.modHome_spray (k : HomeId) (f : Home → Home) : (s.modHome k f).spray = s.spray := rfl
@[simp] theorem State.modHome_saved (k : HomeId) (f : Home → Home) : (s.modHome k f).saved = s.saved := rfl
@[simp] theorem State.modHome_ckpt (k : HomeId) (f : Home → Home) : (s.modHome k f).ckpt = s.ckpt := rfl
@[simp] theorem State.modHome_tier (k : HomeId) (f : Home → Home) : (s.modHome k f).tier = s.tier := rfl
@[simp] theorem State.modHome_boot (k : HomeId) (f : Home → Home) : (s.modHome k f).boot = s.boot := rfl
@[simp] theorem State.modHome_attest (k : HomeId) (f : Home → Home) : (s.modHome k f).attest = s.attest := rfl
@[simp] theorem State.modHome_attested (k : HomeId) (f : Home → Home) : (s.modHome k f).attested = s.attested := rfl
@[simp] theorem State.modHome_quotes (k : HomeId) (f : Home → Home) : (s.modHome k f).quotes = s.quotes := rfl
@[simp] theorem State.modHome_reads (k : HomeId) (f : Home → Home) : (s.modHome k f).reads = s.reads := rfl
@[simp] theorem State.modHome_ios (k : HomeId) (f : Home → Home) : (s.modHome k f).ios = s.ios := rfl
@[simp] theorem State.modHome_unit (k : HomeId) (f : Home → Home) : (s.modHome k f).unit = s.unit := rfl

@[simp] theorem State.modCtxRegs_pkg (k : Nat) (f : CtxRegs → CtxRegs) : (s.modCtxRegs k f).pkg = s.pkg := rfl
@[simp] theorem State.modCtxRegs_clock (k : Nat) (f : CtxRegs → CtxRegs) : (s.modCtxRegs k f).clock = s.clock := rfl
@[simp] theorem State.modCtxRegs_cur (k : Nat) (f : CtxRegs → CtxRegs) : (s.modCtxRegs k f).cur = s.cur := rfl
@[simp] theorem State.modCtxRegs_agenda (k : Nat) (f : CtxRegs → CtxRegs) : (s.modCtxRegs k f).agenda = s.agenda := rfl
@[simp] theorem State.modCtxRegs_pick (k : Nat) (f : CtxRegs → CtxRegs) : (s.modCtxRegs k f).pick = s.pick := rfl
@[simp] theorem State.modCtxRegs_free (k : Nat) (f : CtxRegs → CtxRegs) : (s.modCtxRegs k f).free = s.free := rfl
@[simp] theorem State.modCtxRegs_acts (k : Nat) (f : CtxRegs → CtxRegs) : (s.modCtxRegs k f).acts = s.acts := rfl
@[simp] theorem State.modCtxRegs_mem (k : Nat) (f : CtxRegs → CtxRegs) : (s.modCtxRegs k f).mem = s.mem := rfl
@[simp] theorem State.modCtxRegs_strands (k : Nat) (f : CtxRegs → CtxRegs) : (s.modCtxRegs k f).strands = s.strands := rfl
@[simp] theorem State.modCtxRegs_cores (k : Nat) (f : CtxRegs → CtxRegs) : (s.modCtxRegs k f).cores = s.cores := rfl
@[simp] theorem State.modCtxRegs_quads (k : Nat) (f : CtxRegs → CtxRegs) : (s.modCtxRegs k f).quads = s.quads := rfl
@[simp] theorem State.modCtxRegs_dies (k : Nat) (f : CtxRegs → CtxRegs) : (s.modCtxRegs k f).dies = s.dies := rfl
@[simp] theorem State.modCtxRegs_homes (k : Nat) (f : CtxRegs → CtxRegs) : (s.modCtxRegs k f).homes = s.homes := rfl
@[simp] theorem State.modCtxRegs_ranks (k : Nat) (f : CtxRegs → CtxRegs) : (s.modCtxRegs k f).ranks = s.ranks := rfl
@[simp] theorem State.modCtxRegs_bars (k : Nat) (f : CtxRegs → CtxRegs) : (s.modCtxRegs k f).bars = s.bars := rfl
@[simp] theorem State.modCtxRegs_flight (k : Nat) (f : CtxRegs → CtxRegs) : (s.modCtxRegs k f).flight = s.flight := rfl
@[simp] theorem State.modCtxRegs_pendings (k : Nat) (f : CtxRegs → CtxRegs) : (s.modCtxRegs k f).pendings = s.pendings := rfl
@[simp] theorem State.modCtxRegs_marks (k : Nat) (f : CtxRegs → CtxRegs) : (s.modCtxRegs k f).marks = s.marks := rfl
@[simp] theorem State.modCtxRegs_life (k : Nat) (f : CtxRegs → CtxRegs) : (s.modCtxRegs k f).life = s.life := rfl
@[simp] theorem State.modCtxRegs_fab (k : Nat) (f : CtxRegs → CtxRegs) : (s.modCtxRegs k f).fab = s.fab := rfl
@[simp] theorem State.modCtxRegs_ports (k : Nat) (f : CtxRegs → CtxRegs) : (s.modCtxRegs k f).ports = s.ports := rfl
@[simp] theorem State.modCtxRegs_redCells (k : Nat) (f : CtxRegs → CtxRegs) : (s.modCtxRegs k f).redCells = s.redCells := rfl
@[simp] theorem State.modCtxRegs_reasm (k : Nat) (f : CtxRegs → CtxRegs) : (s.modCtxRegs k f).reasm = s.reasm := rfl
@[simp] theorem State.modCtxRegs_landed (k : Nat) (f : CtxRegs → CtxRegs) : (s.modCtxRegs k f).landed = s.landed := rfl
@[simp] theorem State.modCtxRegs_spray (k : Nat) (f : CtxRegs → CtxRegs) : (s.modCtxRegs k f).spray = s.spray := rfl
@[simp] theorem State.modCtxRegs_saved (k : Nat) (f : CtxRegs → CtxRegs) : (s.modCtxRegs k f).saved = s.saved := rfl
@[simp] theorem State.modCtxRegs_ckpt (k : Nat) (f : CtxRegs → CtxRegs) : (s.modCtxRegs k f).ckpt = s.ckpt := rfl
@[simp] theorem State.modCtxRegs_tier (k : Nat) (f : CtxRegs → CtxRegs) : (s.modCtxRegs k f).tier = s.tier := rfl
@[simp] theorem State.modCtxRegs_boot (k : Nat) (f : CtxRegs → CtxRegs) : (s.modCtxRegs k f).boot = s.boot := rfl
@[simp] theorem State.modCtxRegs_attest (k : Nat) (f : CtxRegs → CtxRegs) : (s.modCtxRegs k f).attest = s.attest := rfl
@[simp] theorem State.modCtxRegs_attested (k : Nat) (f : CtxRegs → CtxRegs) : (s.modCtxRegs k f).attested = s.attested := rfl
@[simp] theorem State.modCtxRegs_quotes (k : Nat) (f : CtxRegs → CtxRegs) : (s.modCtxRegs k f).quotes = s.quotes := rfl
@[simp] theorem State.modCtxRegs_reads (k : Nat) (f : CtxRegs → CtxRegs) : (s.modCtxRegs k f).reads = s.reads := rfl
@[simp] theorem State.modCtxRegs_ios (k : Nat) (f : CtxRegs → CtxRegs) : (s.modCtxRegs k f).ios = s.ios := rfl
@[simp] theorem State.modCtxRegs_unit (k : Nat) (f : CtxRegs → CtxRegs) : (s.modCtxRegs k f).unit = s.unit := rfl

@[simp] theorem State.withPick_pkg (p : Pick) : (s.withPick p).pkg = s.pkg := rfl
@[simp] theorem State.withPick_clock (p : Pick) : (s.withPick p).clock = s.clock := rfl
@[simp] theorem State.withPick_cur (p : Pick) : (s.withPick p).cur = s.cur := rfl
@[simp] theorem State.withPick_agenda (p : Pick) : (s.withPick p).agenda = s.agenda := rfl
@[simp] theorem State.withPick_free (p : Pick) : (s.withPick p).free = s.free := rfl
@[simp] theorem State.withPick_acts (p : Pick) : (s.withPick p).acts = s.acts := rfl
@[simp] theorem State.withPick_mem (p : Pick) : (s.withPick p).mem = s.mem := rfl
@[simp] theorem State.withPick_strands (p : Pick) : (s.withPick p).strands = s.strands := rfl
@[simp] theorem State.withPick_cores (p : Pick) : (s.withPick p).cores = s.cores := rfl
@[simp] theorem State.withPick_quads (p : Pick) : (s.withPick p).quads = s.quads := rfl
@[simp] theorem State.withPick_dies (p : Pick) : (s.withPick p).dies = s.dies := rfl
@[simp] theorem State.withPick_homes (p : Pick) : (s.withPick p).homes = s.homes := rfl
@[simp] theorem State.withPick_ctxs (p : Pick) : (s.withPick p).ctxs = s.ctxs := rfl
@[simp] theorem State.withPick_ranks (p : Pick) : (s.withPick p).ranks = s.ranks := rfl
@[simp] theorem State.withPick_bars (p : Pick) : (s.withPick p).bars = s.bars := rfl
@[simp] theorem State.withPick_flight (p : Pick) : (s.withPick p).flight = s.flight := rfl
@[simp] theorem State.withPick_pendings (p : Pick) : (s.withPick p).pendings = s.pendings := rfl
@[simp] theorem State.withPick_marks (p : Pick) : (s.withPick p).marks = s.marks := rfl
@[simp] theorem State.withPick_life (p : Pick) : (s.withPick p).life = s.life := rfl
@[simp] theorem State.withPick_fab (p : Pick) : (s.withPick p).fab = s.fab := rfl
@[simp] theorem State.withPick_ports (p : Pick) : (s.withPick p).ports = s.ports := rfl
@[simp] theorem State.withPick_redCells (p : Pick) : (s.withPick p).redCells = s.redCells := rfl
@[simp] theorem State.withPick_reasm (p : Pick) : (s.withPick p).reasm = s.reasm := rfl
@[simp] theorem State.withPick_landed (p : Pick) : (s.withPick p).landed = s.landed := rfl
@[simp] theorem State.withPick_spray (p : Pick) : (s.withPick p).spray = s.spray := rfl
@[simp] theorem State.withPick_saved (p : Pick) : (s.withPick p).saved = s.saved := rfl
@[simp] theorem State.withPick_ckpt (p : Pick) : (s.withPick p).ckpt = s.ckpt := rfl
@[simp] theorem State.withPick_tier (p : Pick) : (s.withPick p).tier = s.tier := rfl
@[simp] theorem State.withPick_boot (p : Pick) : (s.withPick p).boot = s.boot := rfl
@[simp] theorem State.withPick_attest (p : Pick) : (s.withPick p).attest = s.attest := rfl
@[simp] theorem State.withPick_attested (p : Pick) : (s.withPick p).attested = s.attested := rfl
@[simp] theorem State.withPick_quotes (p : Pick) : (s.withPick p).quotes = s.quotes := rfl
@[simp] theorem State.withPick_reads (p : Pick) : (s.withPick p).reads = s.reads := rfl
@[simp] theorem State.withPick_ios (p : Pick) : (s.withPick p).ios = s.ios := rfl
@[simp] theorem State.withPick_unit (p : Pick) : (s.withPick p).unit = s.unit := rfl

@[simp] theorem State.modIo_pkg (k : Nat) (f : Io → Io) : (s.modIo k f).pkg = s.pkg := rfl
@[simp] theorem State.modIo_clock (k : Nat) (f : Io → Io) : (s.modIo k f).clock = s.clock := rfl
@[simp] theorem State.modIo_cur (k : Nat) (f : Io → Io) : (s.modIo k f).cur = s.cur := rfl
@[simp] theorem State.modIo_agenda (k : Nat) (f : Io → Io) : (s.modIo k f).agenda = s.agenda := rfl
@[simp] theorem State.modIo_pick (k : Nat) (f : Io → Io) : (s.modIo k f).pick = s.pick := rfl
@[simp] theorem State.modIo_free (k : Nat) (f : Io → Io) : (s.modIo k f).free = s.free := rfl
@[simp] theorem State.modIo_acts (k : Nat) (f : Io → Io) : (s.modIo k f).acts = s.acts := rfl
@[simp] theorem State.modIo_mem (k : Nat) (f : Io → Io) : (s.modIo k f).mem = s.mem := rfl
@[simp] theorem State.modIo_strands (k : Nat) (f : Io → Io) : (s.modIo k f).strands = s.strands := rfl
@[simp] theorem State.modIo_cores (k : Nat) (f : Io → Io) : (s.modIo k f).cores = s.cores := rfl
@[simp] theorem State.modIo_quads (k : Nat) (f : Io → Io) : (s.modIo k f).quads = s.quads := rfl
@[simp] theorem State.modIo_dies (k : Nat) (f : Io → Io) : (s.modIo k f).dies = s.dies := rfl
@[simp] theorem State.modIo_homes (k : Nat) (f : Io → Io) : (s.modIo k f).homes = s.homes := rfl
@[simp] theorem State.modIo_ctxs (k : Nat) (f : Io → Io) : (s.modIo k f).ctxs = s.ctxs := rfl
@[simp] theorem State.modIo_ranks (k : Nat) (f : Io → Io) : (s.modIo k f).ranks = s.ranks := rfl
@[simp] theorem State.modIo_bars (k : Nat) (f : Io → Io) : (s.modIo k f).bars = s.bars := rfl
@[simp] theorem State.modIo_flight (k : Nat) (f : Io → Io) : (s.modIo k f).flight = s.flight := rfl
@[simp] theorem State.modIo_pendings (k : Nat) (f : Io → Io) : (s.modIo k f).pendings = s.pendings := rfl
@[simp] theorem State.modIo_marks (k : Nat) (f : Io → Io) : (s.modIo k f).marks = s.marks := rfl
@[simp] theorem State.modIo_life (k : Nat) (f : Io → Io) : (s.modIo k f).life = s.life := rfl
@[simp] theorem State.modIo_fab (k : Nat) (f : Io → Io) : (s.modIo k f).fab = s.fab := rfl
@[simp] theorem State.modIo_ports (k : Nat) (f : Io → Io) : (s.modIo k f).ports = s.ports := rfl
@[simp] theorem State.modIo_redCells (k : Nat) (f : Io → Io) : (s.modIo k f).redCells = s.redCells := rfl
@[simp] theorem State.modIo_reasm (k : Nat) (f : Io → Io) : (s.modIo k f).reasm = s.reasm := rfl
@[simp] theorem State.modIo_landed (k : Nat) (f : Io → Io) : (s.modIo k f).landed = s.landed := rfl
@[simp] theorem State.modIo_spray (k : Nat) (f : Io → Io) : (s.modIo k f).spray = s.spray := rfl
@[simp] theorem State.modIo_saved (k : Nat) (f : Io → Io) : (s.modIo k f).saved = s.saved := rfl
@[simp] theorem State.modIo_ckpt (k : Nat) (f : Io → Io) : (s.modIo k f).ckpt = s.ckpt := rfl
@[simp] theorem State.modIo_tier (k : Nat) (f : Io → Io) : (s.modIo k f).tier = s.tier := rfl
@[simp] theorem State.modIo_boot (k : Nat) (f : Io → Io) : (s.modIo k f).boot = s.boot := rfl
@[simp] theorem State.modIo_attest (k : Nat) (f : Io → Io) : (s.modIo k f).attest = s.attest := rfl
@[simp] theorem State.modIo_attested (k : Nat) (f : Io → Io) : (s.modIo k f).attested = s.attested := rfl
@[simp] theorem State.modIo_quotes (k : Nat) (f : Io → Io) : (s.modIo k f).quotes = s.quotes := rfl
@[simp] theorem State.modIo_reads (k : Nat) (f : Io → Io) : (s.modIo k f).reads = s.reads := rfl
@[simp] theorem State.modIo_unit (k : Nat) (f : Io → Io) : (s.modIo k f).unit = s.unit := rfl

@[simp] theorem State.setSlot_pkg (t : Tag) (x : Slot) : (s.setSlot t x).pkg = s.pkg := rfl
@[simp] theorem State.setSlot_clock (t : Tag) (x : Slot) : (s.setSlot t x).clock = s.clock := rfl
@[simp] theorem State.setSlot_cur (t : Tag) (x : Slot) : (s.setSlot t x).cur = s.cur := rfl
@[simp] theorem State.setSlot_agenda (t : Tag) (x : Slot) : (s.setSlot t x).agenda = s.agenda := rfl
@[simp] theorem State.setSlot_pick (t : Tag) (x : Slot) : (s.setSlot t x).pick = s.pick := rfl
@[simp] theorem State.setSlot_free (t : Tag) (x : Slot) : (s.setSlot t x).free = s.free := rfl
@[simp] theorem State.setSlot_acts (t : Tag) (x : Slot) : (s.setSlot t x).acts = s.acts := rfl
@[simp] theorem State.setSlot_mem (t : Tag) (x : Slot) : (s.setSlot t x).mem = s.mem := rfl
@[simp] theorem State.setSlot_cores (t : Tag) (x : Slot) : (s.setSlot t x).cores = s.cores := rfl
@[simp] theorem State.setSlot_quads (t : Tag) (x : Slot) : (s.setSlot t x).quads = s.quads := rfl
@[simp] theorem State.setSlot_dies (t : Tag) (x : Slot) : (s.setSlot t x).dies = s.dies := rfl
@[simp] theorem State.setSlot_homes (t : Tag) (x : Slot) : (s.setSlot t x).homes = s.homes := rfl
@[simp] theorem State.setSlot_ctxs (t : Tag) (x : Slot) : (s.setSlot t x).ctxs = s.ctxs := rfl
@[simp] theorem State.setSlot_ranks (t : Tag) (x : Slot) : (s.setSlot t x).ranks = s.ranks := rfl
@[simp] theorem State.setSlot_bars (t : Tag) (x : Slot) : (s.setSlot t x).bars = s.bars := rfl
@[simp] theorem State.setSlot_flight (t : Tag) (x : Slot) : (s.setSlot t x).flight = s.flight := rfl
@[simp] theorem State.setSlot_pendings (t : Tag) (x : Slot) : (s.setSlot t x).pendings = s.pendings := rfl
@[simp] theorem State.setSlot_marks (t : Tag) (x : Slot) : (s.setSlot t x).marks = s.marks := rfl
@[simp] theorem State.setSlot_life (t : Tag) (x : Slot) : (s.setSlot t x).life = s.life := rfl
@[simp] theorem State.setSlot_fab (t : Tag) (x : Slot) : (s.setSlot t x).fab = s.fab := rfl
@[simp] theorem State.setSlot_ports (t : Tag) (x : Slot) : (s.setSlot t x).ports = s.ports := rfl
@[simp] theorem State.setSlot_redCells (t : Tag) (x : Slot) : (s.setSlot t x).redCells = s.redCells := rfl
@[simp] theorem State.setSlot_reasm (t : Tag) (x : Slot) : (s.setSlot t x).reasm = s.reasm := rfl
@[simp] theorem State.setSlot_landed (t : Tag) (x : Slot) : (s.setSlot t x).landed = s.landed := rfl
@[simp] theorem State.setSlot_spray (t : Tag) (x : Slot) : (s.setSlot t x).spray = s.spray := rfl
@[simp] theorem State.setSlot_saved (t : Tag) (x : Slot) : (s.setSlot t x).saved = s.saved := rfl
@[simp] theorem State.setSlot_ckpt (t : Tag) (x : Slot) : (s.setSlot t x).ckpt = s.ckpt := rfl
@[simp] theorem State.setSlot_tier (t : Tag) (x : Slot) : (s.setSlot t x).tier = s.tier := rfl
@[simp] theorem State.setSlot_boot (t : Tag) (x : Slot) : (s.setSlot t x).boot = s.boot := rfl
@[simp] theorem State.setSlot_attest (t : Tag) (x : Slot) : (s.setSlot t x).attest = s.attest := rfl
@[simp] theorem State.setSlot_attested (t : Tag) (x : Slot) : (s.setSlot t x).attested = s.attested := rfl
@[simp] theorem State.setSlot_quotes (t : Tag) (x : Slot) : (s.setSlot t x).quotes = s.quotes := rfl
@[simp] theorem State.setSlot_reads (t : Tag) (x : Slot) : (s.setSlot t x).reads = s.reads := rfl
@[simp] theorem State.setSlot_ios (t : Tag) (x : Slot) : (s.setSlot t x).ios = s.ios := rfl
@[simp] theorem State.setSlot_unit (t : Tag) (x : Slot) : (s.setSlot t x).unit = s.unit := rfl

@[simp] theorem State.postIn_pkg (ctx src : Nat) (dst : HomeId) (o : Bool) (b : Body) : (s.postIn ctx src dst o b).pkg = s.pkg := rfl
@[simp] theorem State.postIn_clock (ctx src : Nat) (dst : HomeId) (o : Bool) (b : Body) : (s.postIn ctx src dst o b).clock = s.clock := rfl
@[simp] theorem State.postIn_cur (ctx src : Nat) (dst : HomeId) (o : Bool) (b : Body) : (s.postIn ctx src dst o b).cur = s.cur := rfl
@[simp] theorem State.postIn_agenda (ctx src : Nat) (dst : HomeId) (o : Bool) (b : Body) : (s.postIn ctx src dst o b).agenda = s.agenda := rfl
@[simp] theorem State.postIn_pick (ctx src : Nat) (dst : HomeId) (o : Bool) (b : Body) : (s.postIn ctx src dst o b).pick = s.pick := rfl
@[simp] theorem State.postIn_free (ctx src : Nat) (dst : HomeId) (o : Bool) (b : Body) : (s.postIn ctx src dst o b).free = s.free := rfl
@[simp] theorem State.postIn_acts (ctx src : Nat) (dst : HomeId) (o : Bool) (b : Body) : (s.postIn ctx src dst o b).acts = s.acts := rfl
@[simp] theorem State.postIn_mem (ctx src : Nat) (dst : HomeId) (o : Bool) (b : Body) : (s.postIn ctx src dst o b).mem = s.mem := rfl
@[simp] theorem State.postIn_strands (ctx src : Nat) (dst : HomeId) (o : Bool) (b : Body) : (s.postIn ctx src dst o b).strands = s.strands := rfl
@[simp] theorem State.postIn_cores (ctx src : Nat) (dst : HomeId) (o : Bool) (b : Body) : (s.postIn ctx src dst o b).cores = s.cores := rfl
@[simp] theorem State.postIn_quads (ctx src : Nat) (dst : HomeId) (o : Bool) (b : Body) : (s.postIn ctx src dst o b).quads = s.quads := rfl
@[simp] theorem State.postIn_dies (ctx src : Nat) (dst : HomeId) (o : Bool) (b : Body) : (s.postIn ctx src dst o b).dies = s.dies := rfl
@[simp] theorem State.postIn_homes (ctx src : Nat) (dst : HomeId) (o : Bool) (b : Body) : (s.postIn ctx src dst o b).homes = s.homes := rfl
@[simp] theorem State.postIn_ctxs (ctx src : Nat) (dst : HomeId) (o : Bool) (b : Body) : (s.postIn ctx src dst o b).ctxs = s.ctxs := rfl
@[simp] theorem State.postIn_ranks (ctx src : Nat) (dst : HomeId) (o : Bool) (b : Body) : (s.postIn ctx src dst o b).ranks = s.ranks := rfl
@[simp] theorem State.postIn_bars (ctx src : Nat) (dst : HomeId) (o : Bool) (b : Body) : (s.postIn ctx src dst o b).bars = s.bars := rfl
@[simp] theorem State.postIn_pendings (ctx src : Nat) (dst : HomeId) (o : Bool) (b : Body) : (s.postIn ctx src dst o b).pendings = s.pendings := rfl
@[simp] theorem State.postIn_marks (ctx src : Nat) (dst : HomeId) (o : Bool) (b : Body) : (s.postIn ctx src dst o b).marks = s.marks := rfl
@[simp] theorem State.postIn_life (ctx src : Nat) (dst : HomeId) (o : Bool) (b : Body) : (s.postIn ctx src dst o b).life = s.life := rfl
@[simp] theorem State.postIn_fab (ctx src : Nat) (dst : HomeId) (o : Bool) (b : Body) : (s.postIn ctx src dst o b).fab = s.fab := rfl
@[simp] theorem State.postIn_ports (ctx src : Nat) (dst : HomeId) (o : Bool) (b : Body) : (s.postIn ctx src dst o b).ports = s.ports := rfl
@[simp] theorem State.postIn_redCells (ctx src : Nat) (dst : HomeId) (o : Bool) (b : Body) : (s.postIn ctx src dst o b).redCells = s.redCells := rfl
@[simp] theorem State.postIn_reasm (ctx src : Nat) (dst : HomeId) (o : Bool) (b : Body) : (s.postIn ctx src dst o b).reasm = s.reasm := rfl
@[simp] theorem State.postIn_landed (ctx src : Nat) (dst : HomeId) (o : Bool) (b : Body) : (s.postIn ctx src dst o b).landed = s.landed := rfl
@[simp] theorem State.postIn_spray (ctx src : Nat) (dst : HomeId) (o : Bool) (b : Body) : (s.postIn ctx src dst o b).spray = s.spray := rfl
@[simp] theorem State.postIn_saved (ctx src : Nat) (dst : HomeId) (o : Bool) (b : Body) : (s.postIn ctx src dst o b).saved = s.saved := rfl
@[simp] theorem State.postIn_ckpt (ctx src : Nat) (dst : HomeId) (o : Bool) (b : Body) : (s.postIn ctx src dst o b).ckpt = s.ckpt := rfl
@[simp] theorem State.postIn_tier (ctx src : Nat) (dst : HomeId) (o : Bool) (b : Body) : (s.postIn ctx src dst o b).tier = s.tier := rfl
@[simp] theorem State.postIn_boot (ctx src : Nat) (dst : HomeId) (o : Bool) (b : Body) : (s.postIn ctx src dst o b).boot = s.boot := rfl
@[simp] theorem State.postIn_attest (ctx src : Nat) (dst : HomeId) (o : Bool) (b : Body) : (s.postIn ctx src dst o b).attest = s.attest := rfl
@[simp] theorem State.postIn_attested (ctx src : Nat) (dst : HomeId) (o : Bool) (b : Body) : (s.postIn ctx src dst o b).attested = s.attested := rfl
@[simp] theorem State.postIn_quotes (ctx src : Nat) (dst : HomeId) (o : Bool) (b : Body) : (s.postIn ctx src dst o b).quotes = s.quotes := rfl
@[simp] theorem State.postIn_reads (ctx src : Nat) (dst : HomeId) (o : Bool) (b : Body) : (s.postIn ctx src dst o b).reads = s.reads := rfl
@[simp] theorem State.postIn_ios (ctx src : Nat) (dst : HomeId) (o : Bool) (b : Body) : (s.postIn ctx src dst o b).ios = s.ios := rfl
@[simp] theorem State.postIn_unit (ctx src : Nat) (dst : HomeId) (o : Bool) (b : Body) : (s.postIn ctx src dst o b).unit = s.unit := rfl

@[simp] theorem State.post_pkg (src : Nat) (dst : HomeId) (o : Bool) (b : Body) : (s.post src dst o b).pkg = s.pkg := rfl
@[simp] theorem State.post_clock (src : Nat) (dst : HomeId) (o : Bool) (b : Body) : (s.post src dst o b).clock = s.clock := rfl
@[simp] theorem State.post_cur (src : Nat) (dst : HomeId) (o : Bool) (b : Body) : (s.post src dst o b).cur = s.cur := rfl
@[simp] theorem State.post_agenda (src : Nat) (dst : HomeId) (o : Bool) (b : Body) : (s.post src dst o b).agenda = s.agenda := rfl
@[simp] theorem State.post_pick (src : Nat) (dst : HomeId) (o : Bool) (b : Body) : (s.post src dst o b).pick = s.pick := rfl
@[simp] theorem State.post_free (src : Nat) (dst : HomeId) (o : Bool) (b : Body) : (s.post src dst o b).free = s.free := rfl
@[simp] theorem State.post_acts (src : Nat) (dst : HomeId) (o : Bool) (b : Body) : (s.post src dst o b).acts = s.acts := rfl
@[simp] theorem State.post_mem (src : Nat) (dst : HomeId) (o : Bool) (b : Body) : (s.post src dst o b).mem = s.mem := rfl
@[simp] theorem State.post_strands (src : Nat) (dst : HomeId) (o : Bool) (b : Body) : (s.post src dst o b).strands = s.strands := rfl
@[simp] theorem State.post_cores (src : Nat) (dst : HomeId) (o : Bool) (b : Body) : (s.post src dst o b).cores = s.cores := rfl
@[simp] theorem State.post_quads (src : Nat) (dst : HomeId) (o : Bool) (b : Body) : (s.post src dst o b).quads = s.quads := rfl
@[simp] theorem State.post_dies (src : Nat) (dst : HomeId) (o : Bool) (b : Body) : (s.post src dst o b).dies = s.dies := rfl
@[simp] theorem State.post_homes (src : Nat) (dst : HomeId) (o : Bool) (b : Body) : (s.post src dst o b).homes = s.homes := rfl
@[simp] theorem State.post_ctxs (src : Nat) (dst : HomeId) (o : Bool) (b : Body) : (s.post src dst o b).ctxs = s.ctxs := rfl
@[simp] theorem State.post_ranks (src : Nat) (dst : HomeId) (o : Bool) (b : Body) : (s.post src dst o b).ranks = s.ranks := rfl
@[simp] theorem State.post_bars (src : Nat) (dst : HomeId) (o : Bool) (b : Body) : (s.post src dst o b).bars = s.bars := rfl
@[simp] theorem State.post_pendings (src : Nat) (dst : HomeId) (o : Bool) (b : Body) : (s.post src dst o b).pendings = s.pendings := rfl
@[simp] theorem State.post_marks (src : Nat) (dst : HomeId) (o : Bool) (b : Body) : (s.post src dst o b).marks = s.marks := rfl
@[simp] theorem State.post_life (src : Nat) (dst : HomeId) (o : Bool) (b : Body) : (s.post src dst o b).life = s.life := rfl
@[simp] theorem State.post_fab (src : Nat) (dst : HomeId) (o : Bool) (b : Body) : (s.post src dst o b).fab = s.fab := rfl
@[simp] theorem State.post_ports (src : Nat) (dst : HomeId) (o : Bool) (b : Body) : (s.post src dst o b).ports = s.ports := rfl
@[simp] theorem State.post_redCells (src : Nat) (dst : HomeId) (o : Bool) (b : Body) : (s.post src dst o b).redCells = s.redCells := rfl
@[simp] theorem State.post_reasm (src : Nat) (dst : HomeId) (o : Bool) (b : Body) : (s.post src dst o b).reasm = s.reasm := rfl
@[simp] theorem State.post_landed (src : Nat) (dst : HomeId) (o : Bool) (b : Body) : (s.post src dst o b).landed = s.landed := rfl
@[simp] theorem State.post_spray (src : Nat) (dst : HomeId) (o : Bool) (b : Body) : (s.post src dst o b).spray = s.spray := rfl
@[simp] theorem State.post_saved (src : Nat) (dst : HomeId) (o : Bool) (b : Body) : (s.post src dst o b).saved = s.saved := rfl
@[simp] theorem State.post_ckpt (src : Nat) (dst : HomeId) (o : Bool) (b : Body) : (s.post src dst o b).ckpt = s.ckpt := rfl
@[simp] theorem State.post_tier (src : Nat) (dst : HomeId) (o : Bool) (b : Body) : (s.post src dst o b).tier = s.tier := rfl
@[simp] theorem State.post_boot (src : Nat) (dst : HomeId) (o : Bool) (b : Body) : (s.post src dst o b).boot = s.boot := rfl
@[simp] theorem State.post_attest (src : Nat) (dst : HomeId) (o : Bool) (b : Body) : (s.post src dst o b).attest = s.attest := rfl
@[simp] theorem State.post_attested (src : Nat) (dst : HomeId) (o : Bool) (b : Body) : (s.post src dst o b).attested = s.attested := rfl
@[simp] theorem State.post_quotes (src : Nat) (dst : HomeId) (o : Bool) (b : Body) : (s.post src dst o b).quotes = s.quotes := rfl
@[simp] theorem State.post_reads (src : Nat) (dst : HomeId) (o : Bool) (b : Body) : (s.post src dst o b).reads = s.reads := rfl
@[simp] theorem State.post_ios (src : Nat) (dst : HomeId) (o : Bool) (b : Body) : (s.post src dst o b).ios = s.ios := rfl
@[simp] theorem State.post_unit (src : Nat) (dst : HomeId) (o : Bool) (b : Body) : (s.post src dst o b).unit = s.unit := rfl

@[simp] theorem State.tellHost_pkg (w : Word) : (s.tellHost w).pkg = s.pkg := rfl
@[simp] theorem State.tellHost_clock (w : Word) : (s.tellHost w).clock = s.clock := rfl
@[simp] theorem State.tellHost_cur (w : Word) : (s.tellHost w).cur = s.cur := rfl
@[simp] theorem State.tellHost_agenda (w : Word) : (s.tellHost w).agenda = s.agenda := rfl
@[simp] theorem State.tellHost_pick (w : Word) : (s.tellHost w).pick = s.pick := rfl
@[simp] theorem State.tellHost_free (w : Word) : (s.tellHost w).free = s.free := rfl
@[simp] theorem State.tellHost_acts (w : Word) : (s.tellHost w).acts = s.acts := rfl
@[simp] theorem State.tellHost_mem (w : Word) : (s.tellHost w).mem = s.mem := rfl
@[simp] theorem State.tellHost_strands (w : Word) : (s.tellHost w).strands = s.strands := rfl
@[simp] theorem State.tellHost_cores (w : Word) : (s.tellHost w).cores = s.cores := rfl
@[simp] theorem State.tellHost_quads (w : Word) : (s.tellHost w).quads = s.quads := rfl
@[simp] theorem State.tellHost_dies (w : Word) : (s.tellHost w).dies = s.dies := rfl
@[simp] theorem State.tellHost_homes (w : Word) : (s.tellHost w).homes = s.homes := rfl
@[simp] theorem State.tellHost_ctxs (w : Word) : (s.tellHost w).ctxs = s.ctxs := rfl
@[simp] theorem State.tellHost_ranks (w : Word) : (s.tellHost w).ranks = s.ranks := rfl
@[simp] theorem State.tellHost_bars (w : Word) : (s.tellHost w).bars = s.bars := rfl
@[simp] theorem State.tellHost_flight (w : Word) : (s.tellHost w).flight = s.flight := rfl
@[simp] theorem State.tellHost_pendings (w : Word) : (s.tellHost w).pendings = s.pendings := rfl
@[simp] theorem State.tellHost_marks (w : Word) : (s.tellHost w).marks = s.marks := rfl
@[simp] theorem State.tellHost_life (w : Word) : (s.tellHost w).life = s.life := rfl
@[simp] theorem State.tellHost_fab (w : Word) : (s.tellHost w).fab = s.fab := rfl
@[simp] theorem State.tellHost_ports (w : Word) : (s.tellHost w).ports = s.ports := rfl
@[simp] theorem State.tellHost_redCells (w : Word) : (s.tellHost w).redCells = s.redCells := rfl
@[simp] theorem State.tellHost_reasm (w : Word) : (s.tellHost w).reasm = s.reasm := rfl
@[simp] theorem State.tellHost_landed (w : Word) : (s.tellHost w).landed = s.landed := rfl
@[simp] theorem State.tellHost_spray (w : Word) : (s.tellHost w).spray = s.spray := rfl
@[simp] theorem State.tellHost_saved (w : Word) : (s.tellHost w).saved = s.saved := rfl
@[simp] theorem State.tellHost_ckpt (w : Word) : (s.tellHost w).ckpt = s.ckpt := rfl
@[simp] theorem State.tellHost_tier (w : Word) : (s.tellHost w).tier = s.tier := rfl
@[simp] theorem State.tellHost_boot (w : Word) : (s.tellHost w).boot = s.boot := rfl
@[simp] theorem State.tellHost_attest (w : Word) : (s.tellHost w).attest = s.attest := rfl
@[simp] theorem State.tellHost_attested (w : Word) : (s.tellHost w).attested = s.attested := rfl
@[simp] theorem State.tellHost_quotes (w : Word) : (s.tellHost w).quotes = s.quotes := rfl
@[simp] theorem State.tellHost_ios (w : Word) : (s.tellHost w).ios = s.ios := rfl
@[simp] theorem State.tellHost_unit (w : Word) : (s.tellHost w).unit = s.unit := rfl

/-! ## Reading after an update -/

@[simp] theorem State.strand_modStrand (k : Nat) (f : Strand → Strand) : (s.modStrand k f).strand k = f (s.strand k) := by
  simp [State.strand, State.modStrand]

theorem State.strand_modStrand_ne (k j : Nat) (f : Strand → Strand) (h : j ≠ k) : (s.modStrand k f).strand j = s.strand j := by
  simp [State.strand, State.modStrand, KMap.get_set_ne _ _ _ _ _ h]

@[simp] theorem State.me_modMe (f : Strand → Strand) : (s.modMe f).me = f s.me := s.strand_modStrand s.cur f

@[simp] theorem State.core_modCore (k : Nat) (f : Core → Core) : (s.modCore k f).core k = f (s.core k) := by
  simp [State.core, State.modCore]

theorem State.core_modCore_ne (k j : Nat) (f : Core → Core) (h : j ≠ k) : (s.modCore k f).core j = s.core j := by
  simp [State.core, State.modCore, KMap.get_set_ne _ _ _ _ _ h]

@[simp] theorem State.quad_modQuad (k : Nat) (f : Quad → Quad) : (s.modQuad k f).quad k = f (s.quad k) := by
  simp [State.quad, State.modQuad]

theorem State.quad_modQuad_ne (k j : Nat) (f : Quad → Quad) (h : j ≠ k) : (s.modQuad k f).quad j = s.quad j := by
  simp [State.quad, State.modQuad, KMap.get_set_ne _ _ _ _ _ h]

@[simp] theorem State.die_modDie (k : Nat) (f : Die → Die) : (s.modDie k f).die k = f (s.die k) := by
  simp [State.die, State.modDie]

theorem State.die_modDie_ne (k j : Nat) (f : Die → Die) (h : j ≠ k) : (s.modDie k f).die j = s.die j := by
  simp [State.die, State.modDie, KMap.get_set_ne _ _ _ _ _ h]

@[simp] theorem State.home_modHome (k : HomeId) (f : Home → Home) : (s.modHome k f).home k = f (s.home k) := by
  simp [State.home, State.modHome]

@[simp] theorem State.io_modIo (k : Nat) (f : Io → Io) : (s.modIo k f).io k = f (s.io k) := by
  by_cases h : (f (s.io k)).idle = true
  · have e : f (s.io k) = Io.init := by simpa [Io.idle] using h
    rw [State.io, State.modIo, if_pos h, KMap.get_erase, e]
  · rw [State.io, State.modIo, if_neg h, KMap.get_set]

@[simp] theorem State.flight_postIn (ctx src : Nat) (dst : HomeId) (o : Bool) (b : Body) :
    (s.postIn ctx src dst o b).flight =
      s.flight ++ [⟨src, dst, o, false, s.clock, ctx, none, false, false, false, s.pairPort src dst o none, b⟩] := rfl

/-! ## What an instruction's end leaves of its strand (R106) -/

@[simp] theorem Strand.retireTo_pc (t : Strand) (p : Word) : (t.retireTo p).pc = p := rfl
@[simp] theorem Strand.retireTo_instret (t : Strand) (p : Word) : (t.retireTo p).instret = t.instret + 1 := rfl
@[simp] theorem Strand.retireTo_regs (t : Strand) (p : Word) : (t.retireTo p).regs = t.regs := rfl
@[simp] theorem Strand.retireTo_status (t : Strand) (p : Word) : (t.retireTo p).status = t.status := rfl
@[simp] theorem Strand.retireTo_region (t : Strand) (p : Word) : (t.retireTo p).region = t.region := rfl
@[simp] theorem Strand.retireTo_slots (t : Strand) (p : Word) : (t.retireTo p).slots = t.slots := rfl
@[simp] theorem Strand.retireTo_streams (t : Strand) (p : Word) : (t.retireTo p).streams = t.streams := rfl
@[simp] theorem Strand.retireTo_gate (t : Strand) (p : Word) : (t.retireTo p).gate = false := rfl
@[simp] theorem Strand.retireTo_wsGate (t : Strand) (p : Word) : (t.retireTo p).wsGate = [] := rfl
@[simp] theorem Strand.retireTo_fpAt (t : Strand) (p : Word) : (t.retireTo p).fpAt = none := rfl
@[simp] theorem Strand.retireTo_got (t : Strand) (p : Word) : (t.retireTo p).got = [] := rfl
@[simp] theorem Strand.commit_region (t : Strand) : t.commit.region = [] := rfl
@[simp] theorem Strand.commit_drain (t : Strand) : t.commit.drain = t.drain ++ t.region := rfl
@[simp] theorem Strand.commit_regs (t : Strand) : t.commit.regs = t.regs := rfl
@[simp] theorem Strand.commit_pc (t : Strand) : t.commit.pc = t.pc := rfl

@[simp] theorem State.strand_modCore (k j : Nat) (f : Core → Core) : (s.modCore k f).strand j = s.strand j := rfl
@[simp] theorem State.me_modCore (k : Nat) (f : Core → Core) : (s.modCore k f).me = s.me := rfl
@[simp] theorem State.me_modMyCore (f : Core → Core) : (s.modMyCore f).me = s.me := rfl
@[simp] theorem State.me_addFlags (n : Nat) : (s.addFlags n).me = s.me := rfl
@[simp] theorem State.me_modQuad (k : Nat) (f : Quad → Quad) : (s.modQuad k f).me = s.me := rfl
@[simp] theorem State.me_modDie (k : Nat) (f : Die → Die) : (s.modDie k f).me = s.me := rfl
@[simp] theorem State.me_modHome (k : HomeId) (f : Home → Home) : (s.modHome k f).me = s.me := rfl
@[simp] theorem State.core_modStrand (k j : Nat) (f : Strand → Strand) : (s.modStrand k f).core j = s.core j := rfl
@[simp] theorem State.core_modMe (j : Nat) (f : Strand → Strand) : (s.modMe f).core j = s.core j := rfl

/-- Two updates of the running strand are one. -/
@[simp] theorem State.modMe_modMe (f g : Strand → Strand) : (s.modMe f).modMe g = s.modMe (g ∘ f) := by
  simp [State.modMe, State.modStrand, State.strand]

theorem State.wr_eq (d : Reg) (x : Word) : s.wr d x = s.modMe fun t => { t with regs := t.regs.wr d x } := rfl
theorem State.wrV_eq (d : Reg) (x : Vec) : s.wrV d x = s.modMe fun t => { t with regs := t.regs.wrV d x } := rfl
theorem State.wrM_eq (d : MReg) (x : Mask) : s.wrM d x = s.modMe fun t => { t with regs := t.regs.wrM d x } := rfl
theorem State.retire_eq (n : Nat) : s.retire n = s.modMe fun t => t.retireTo (t.pc + ofN n) := rfl
theorem State.jump_eq (p : Word) : s.jump p = s.modMe fun t => t.retireTo p := rfl

/-! ## Registers (R127) -/

@[simp] theorem Regs.rd_zero (r : Regs) : r.rd 0 = 0 := rfl
@[simp] theorem Regs.wr_zero (r : Regs) (x : Word) : r.wr 0 x = r := rfl

theorem Regs.rd_wr (r : Regs) (d : Reg) (x : Word) (h : d ≠ 0) : (r.wr d x).rd d = x := by
  simp [Regs.rd, Regs.wr, h]

theorem Regs.rd_wr_ne (r : Regs) (d e : Reg) (x : Word) (h : e ≠ d) : (r.wr d x).rd e = r.rd e := by
  unfold Regs.rd Regs.wr
  split
  · rfl
  · split
    · rfl
    · exact Vector.getElem_set_ne d.isLt e.isLt fun hh => h (Fin.ext hh.symm)

@[simp] theorem Regs.wr_v (r : Regs) (d : Reg) (x : Word) : (r.wr d x).v = r.v := by unfold Regs.wr; split <;> rfl
@[simp] theorem Regs.wr_m (r : Regs) (d : Reg) (x : Word) : (r.wr d x).m = r.m := by unfold Regs.wr; split <;> rfl
@[simp] theorem Regs.wrV_s (r : Regs) (d : Reg) (x : Vec) : (r.wrV d x).s = r.s := rfl
@[simp] theorem Regs.wrV_m (r : Regs) (d : Reg) (x : Vec) : (r.wrV d x).m = r.m := rfl
@[simp] theorem Regs.wrM_s (r : Regs) (d : MReg) (x : Mask) : (r.wrM d x).s = r.s := rfl
@[simp] theorem Regs.wrM_v (r : Regs) (d : MReg) (x : Mask) : (r.wrM d x).v = r.v := rfl

end Sys2Proof.Machine
end

