-- ==== Sys2Proof/Laws/Lane.lean ====
section
/-! SUPPORT. What a lane instruction without streams does: elements joined and taken apart, the flags of its elements, and the one
effect of the shared frame. -/

namespace Sys2Proof.Machine

theorem upFrom_getElem? (a n k : Nat) : (upFrom a n)[k]? = if k < n then some (a + k) else none := by
  induction n generalizing a k with
  | zero => simp [upFrom]
  | succ n ih =>
    cases k with
    | zero => simp [upFrom]
    | succ k => simp [upFrom, ih]; split <;> simp; omega

theorem joinElems_lt (w : Nat) (xs : List Nat) : joinElems w xs < 2 ^ (w * xs.length) := by
  induction xs with
  | nil => simp [joinElems]
  | cons x xs ih =>
    simp only [joinElems, List.length_cons, Nat.mul_succ, Nat.pow_add]
    have h1 : x % 2 ^ w < 2 ^ w := Nat.mod_lt _ (Nat.two_pow_pos w)
    have h2 := Nat.mul_le_mul_left (2 ^ w) (Nat.succ_le_of_lt ih)
    rw [Nat.mul_comm (2 ^ (w * xs.length))]
    simp only [Nat.succ_eq_add_one, Nat.mul_add, Nat.mul_one] at h2
    omega

/-- Element e of joined elements is the e-th. -/
theorem elemOf_joinElems (w : Nat) (xs : List Nat) (e : Nat) (h : e < xs.length) :
    elemOf (joinElems w xs) w e = xs[e] % 2 ^ w := by
  induction xs generalizing e with
  | nil => simp at h
  | cons x xs ih =>
    cases e with
    | zero => simp [joinElems, elemOf, Nat.add_mod]
    | succ e =>
      have hs := ih e (by simpa using h)
      simp only [elemOf, joinElems, Nat.mul_succ, List.getElem_cons_succ] at *
      rw [Nat.add_comm (w * e) w, Nat.pow_add, ← Nat.div_div_eq_div_mul]
      rw [Nat.add_mul_div_left _ _ (Nat.two_pow_pos w), Nat.div_eq_of_lt (Nat.mod_lt _ (Nat.two_pow_pos w)), Nat.zero_add]
      exact hs

/-- An element below a boundary does not see what is added above it. -/
theorem elemOf_add_high (w x y n e : Nat) (h : e < n) : elemOf (x + y * 2 ^ (w * n)) w e = elemOf x w e := by
  obtain ⟨m, rfl⟩ : ∃ m, n = e + (m + 1) := ⟨n - e - 1, by omega⟩
  simp only [elemOf, Nat.mul_add, Nat.mul_one, Nat.pow_add]
  rw [show y * (2 ^ (w * e) * (2 ^ (w * m) * 2 ^ w)) = 2 ^ (w * e) * (y * 2 ^ (w * m) * 2 ^ w) by ac_rfl,
    Nat.add_mul_div_left _ _ (Nat.two_pow_pos _), Nat.add_mul_mod_self_right]

/-- An element of elements written over an old value: what was written, or the old one. -/
theorem elemOf_mergeElems (w old : Nat) (xs : List (Option Nat)) (e : Nat) (h : e < xs.length) :
    elemOf (mergeElems w old xs) w e = match xs[e] with | some v => v % 2 ^ w | none => elemOf old w e := by
  have hl : (xs.zip (upFrom 0 xs.length)).length = xs.length := by simp
  have hu : (upFrom 0 xs.length)[e]? = some e := by rw [upFrom_getElem?]; simp [h]
  have hu' : (upFrom 0 xs.length)[e]'(by simpa using h) = e := by
    rw [← Option.some_inj, ← List.getElem?_eq_getElem]; exact hu
  simp only [mergeElems]
  rw [elemOf_add_high _ _ _ _ _ h, elemOf_joinElems _ _ _ (by simpa using h)]
  simp only [List.getElem_map, List.getElem_zip, hu']
  cases hx : xs[e] with
  | some v => simp
  | none => simp [elemOf]

theorem testBit_add_high (x q n j : Nat) (hx : x < 2 ^ n) (h : n ≤ j) : (x + q / 2 ^ n * 2 ^ n).testBit j = q.testBit j := by
  rw [Nat.add_comm, Nat.mul_comm, Nat.testBit_two_pow_mul_add _ hx, if_neg (by omega), Nat.testBit_div_two_pow]
  congr 1; omega

/-- The bits above the elements are kept. -/
theorem testBit_mergeElems (w old : Nat) (xs : List (Option Nat)) (j : Nat) (h : w * xs.length ≤ j) :
    (mergeElems w old xs).testBit j = old.testBit j := by
  have hl := joinElems_lt w ((xs.zip (upFrom 0 xs.length)).map fun p => match p.1 with | some v => v | none => elemOf old w p.2)
  rw [List.length_map, List.length_zip, upFrom_length, Nat.min_self] at hl
  exact testBit_add_high _ _ _ _ hl h

/-! ## Elements computed one by one -/

@[simp] theorem laneElems_length (n : Nat) (act : Nat → Bool) (f : Nat → Nat × Nat) : (laneElems n act f).elems.length = n := by
  simp [laneElems]

theorem laneElems_get (n : Nat) (act : Nat → Bool) (f : Nat → Nat × Nat) (e : Nat) (h : e < n) :
    (laneElems n act f).elems[e]'(by simpa using h) = if act e then some (f e).1 else none := by
  have hu' : (upFrom 0 n)[e]'(by simpa using h) = e := by
    rw [← Option.some_inj, ← List.getElem?_eq_getElem, upFrom_getElem?]; simp [h]
  simp only [laneElems, List.getElem_map, hu']
  split <;> simp

theorem testBit_foldl_flags {α : Type} (xs : List α) (g : α → Option Nat) (fl b : Nat) :
    (xs.foldl (fun fl x => match g x with | some p => orFlags fl p | none => fl) fl).testBit b = true ↔
      fl.testBit b = true ∨ ∃ x ∈ xs, ∃ p, g x = some p ∧ p.testBit b = true := by
  induction xs generalizing fl with
  | nil => simp
  | cons x xs ih =>
    simp only [List.foldl_cons, ih, List.mem_cons]
    cases hg : g x with
    | none => simp [hg]
    | some p => 
      have : (orFlags fl p).testBit b = (fl.testBit b || p.testBit b) := Nat.testBit_or fl p b
      simp [hg, this, or_assoc]

/-- The flags of computed elements are those its active elements raise. -/
theorem laneElems_flags (n : Nat) (act : Nat → Bool) (f : Nat → Nat × Nat) :
    raisedBy (laneElems n act f).flags n act fun e => (f e).2 := by
  intro b
  have h := testBit_foldl_flags ((upFrom 0 n).map fun e => if act e then some (f e) else none) (fun x => x.map (·.2)) 0 b
  have e : (laneElems n act f).flags = ((upFrom 0 n).map fun e => if act e then some (f e) else none).foldl
      (fun fl x => match x.map (·.2) with | some p => orFlags fl p | none => fl) 0 := by
    simp only [laneElems]
    congr 1
    funext fl x
    cases x <;> rfl
  rw [e, h]
  simp only [Nat.zero_testBit, Bool.false_eq_true, false_or, List.mem_map, mem_upFrom]
  constructor
  · rintro ⟨x, ⟨k, hk, rfl⟩, p, hp, hb⟩
    by_cases ha : act k
    · simp [ha] at hp; subst hp; exact ⟨k, by omega, ha, hb⟩
    · simp [ha] at hp
  · rintro ⟨k, hk, ha, hb⟩
    exact ⟨_, ⟨k, by omega, rfl⟩, (f k).2, by simp [ha], hb⟩

/-! ## The frame without streams -/

section
variable (s : State)

theorem State.boundStream_none (r : Reg) (h : s.isBound r = false) : s.boundStream r = none := by
  simpa [State.isBound] using h

theorem State.boundIn_none (rs : List Reg) (h : s.unbound rs) : s.boundIn rs = none := by
  simp only [State.boundIn, List.find?_eq_none]
  intro r hr; simp [h r hr]

theorem State.boundSrcs_nil (srcs : List (Reg × Nat)) (h : s.unbound (srcs.map (·.1))) : s.boundSrcs srcs = [] := by
  induction srcs with
  | nil => rfl
  | cons p rest ih =>
    have h1 : s.boundStream p.1 = none := s.boundStream_none _ (h p.1 (by simp))
    have h2 := ih fun r hr => h r (by simp only [List.map_cons, List.mem_cons]; exact .inr hr)
    simp [State.boundSrcs, h1, h2]

theorem State.badSrc_none (srcs : List (Reg × Nat)) (h : s.unbound (srcs.map (·.1))) :
    (srcs.find? fun p => s.streamBad p.1 p.2 false) = none := by
  simp only [List.find?_eq_none]
  intro p hp
  have h1 : s.boundStream p.1 = none := s.boundStream_none _ (h p.1 (List.mem_map_of_mem hp))
  simp [State.streamBad, h1]

/-- With nothing to pop nothing is loaded. -/
@[simp] theorem State.popAll_nil : s.popAll [] = (.ok [], s) := rfl

theorem State.laneVal_nil : s.laneVal [] = fun r => (s.rdV r).toNat := rfl

/-- A lane instruction whose operands and vector destination are no streams: the result of its element function, in one state. -/
theorem State.laneOp_unbound (len : Nat) (unb : List Reg) (srcs : List (Reg × Nat)) (dst : LaneDst) (act : Nat → Bool)
    (f : (Reg → Nat) → LaneRes) (h1 : s.unbound unb) (h2 : s.unbound (srcs.map (·.1)))
    (h3 : ∀ d w, dst = .vec d w → s.isBound d = false) :
    s.laneOp len unb srcs dst act f =
      let r := f fun r => (s.rdV r).toNat
      .next (match dst with
        | .vec d w => (s.addFlags r.flags).wroteVec d (BitVec.ofNat 1024 (mergeElems w (s.rdV d).toNat r.elems)) len
        | .whole d => (s.addFlags r.flags).wroteVec d (BitVec.ofNat 1024 r.value) len
        | .scalar d => (s.addFlags r.flags).modMe fun t => { t.clearInstr with regs := t.regs.wr d (ofN r.value), pc := t.pc + ofN len, instret := t.instret + 1 }
        | .mask d => (s.addFlags r.flags).modMe fun t =>
            { t.clearInstr with regs := t.regs.wrM d (BitVec.ofNat 32 r.value), pc := t.pc + ofN len, instret := t.instret + 1 }) := by
  have hf : ∀ n, orFlags n 0 = n := fun n => by simp [orFlags]
  have key : ∀ (g : Strand → Strand) (n : Nat), ((s.modMe g).addFlags n).retire len =
      (s.addFlags n).modMe fun t => (g t).retireTo ((g t).pc + ofN len) := by
    intro g n
    have : (s.modMe g).addFlags n = (s.addFlags n).modMe g := rfl
    rw [this, State.retire_eq, State.modMe_modMe]; rfl
  simp only [State.laneOp, s.boundIn_none _ h1, s.badSrc_none _ h2, s.boundSrcs_nil _ h2, s.popAll_nil, Option.map_none, s.laneVal_nil,
    popFlags, List.foldl_nil, hf]
  cases dst with
  | vec d w =>
    have hb := s.boundStream_none d (h3 d w rfl)
    simp only [State.streamBad, hb, Bool.false_eq_true, if_false, Option.orElse_none, State.wrV_eq, key]
    rfl
  | whole d => simp only [Option.orElse_none, State.wrV_eq, key]; rfl
  | scalar d => simp only [Option.orElse_none, State.wr_eq, key]; rfl
  | mask d => simp only [Option.orElse_none, State.wrM_eq, key]; rfl

/-- A lane instruction that computes k elements of its destination one by one (R248, R249, R258). -/
theorem State.laneOp_elems (len : Nat) (unb : List Reg) (srcs : List (Reg × Nat)) (d : Reg) (w k : Nat) (act : Nat → Bool)
    (f : (Reg → Nat) → LaneRes) (g : Nat → Nat × Nat) (h1 : s.unbound unb) (h2 : s.unbound (srcs.map (·.1))) (h3 : s.isBound d = false)
    (hf : f (fun r => (s.rdV r).toNat) = laneElems k act g) (hk : w * k ≤ 1024) :
    ∃ u, s.laneOp len unb srcs (.vec d w) act f = .next u ∧ s.lanes u d len w k act g := by
  have hlt : mergeElems w (s.rdV d).toNat (laneElems k act g).elems < 2 ^ 1024 := by
    refine Nat.lt_pow_two_of_testBit _ ?_
    intro j hj
    rw [testBit_mergeElems _ _ _ _ (by simpa using Nat.le_trans hk hj)]
    exact Nat.testBit_lt_two_pow (Nat.lt_of_lt_of_le (s.rdV d).isLt (Nat.pow_le_pow_right (by decide) hj))
  refine ⟨_, s.laneOp_unbound len unb srcs (.vec d w) act f h1 h2 (fun _ _ h => by cases h; exact h3), _, _, by rw [hf], ?_, ?_, laneElems_flags _ _ _⟩
  · intro e he
    rw [BitVec.toNat_ofNat, Nat.mod_eq_of_lt hlt, elemOf_mergeElems _ _ _ _ (by simpa using he), laneElems_get _ _ _ _ he]
    by_cases ha : act e <;> simp [ha, State.el]
  · intro j hj hw
    rw [BitVec.getLsbD_ofNat, testBit_mergeElems _ _ _ _ (by simpa using hw)]
    simp [hj, BitVec.getLsbD]

/-- Two element functions that agree give the same effect. -/
theorem State.lanes_congr (s u : State) (d : Reg) (n w k : Nat) (act : Nat → Bool) (f g : Nat → Nat × Nat) (h : s.lanes u d n w k act f)
    (e : ∀ x < k, (f x).1 % 2 ^ w = (g x).1 % 2 ^ w ∧ (f x).2 = (g x).2) : s.lanes u d n w k act g := by
  obtain ⟨v, fl, h1, h2, h3, h4⟩ := h
  refine ⟨v, fl, h1, fun x hx => by rw [h2 x hx, (e x hx).1], h3, fun b => ?_⟩
  rw [h4 b]
  constructor <;> rintro ⟨x, hx, ha, hb⟩ <;> refine ⟨x, hx, ha, ?_⟩ <;> simpa [(e x hx).2] using hb

theorem lty_bits_mul (t : LTy) : t.bits * (1024 / t.bits) = 1024 := by cases t <;> rfl

/-- The shared operation of major 0x26 with two sources, when no operand is a stream. -/
theorem State.lane2_spec (n : Nat) (t : LTy) (m : MSel) (d a b : Reg) (f : LaneFn) (g : Nat → Nat × Nat) (h : s.unbound [d, a, b])
    (hg : ∀ e < 1024 / t.bits,
      (f (s.laneEnv) (s.laneL (s.laneEnv) e) (s.el a t.bits e) (s.el b t.bits e)).1 % 2 ^ t.bits = (g e).1 % 2 ^ t.bits ∧
      (f (s.laneEnv) (s.laneL (s.laneEnv) e) (s.el a t.bits e) (s.el b t.bits e)).2 = (g e).2) :
    ∃ u, s.lane2 n t m d a b f = .next u ∧ s.lanes u d n t.bits (1024 / t.bits) (s.isActive m t.bits) g := by
  obtain ⟨u, h1, h2⟩ := s.laneOp_elems n [] [(a, t.bits), (b, t.bits)] d t.bits (1024 / t.bits) (s.isActive m t.bits)
    (fun v => laneElems (1024 / t.bits) (s.isActive m t.bits) fun e =>
      f (s.laneEnv) (s.laneL (s.laneEnv) e) (elemOf (v a) t.bits e) (elemOf (v b) t.bits e)) _
    (fun r hr => by simp at hr)
    (fun r hr => h r (by simp only [List.map_cons, List.map_nil, List.mem_cons, List.not_mem_nil, or_false] at hr ⊢; exact .inr hr))
    (h d (by simp)) rfl (Nat.le_of_eq (lty_bits_mul t))
  exact ⟨u, h1, s.lanes_congr u _ _ _ _ _ _ g h2 hg⟩

/-- The same with one source. -/
theorem State.lane1_spec (n : Nat) (t : LTy) (m : MSel) (d a : Reg) (f : LaneFn) (g : Nat → Nat × Nat) (h : s.unbound [d, a])
    (hg : ∀ e < 1024 / t.bits,
      (f (s.laneEnv) (s.laneL (s.laneEnv) e) (s.el a t.bits e) 0).1 % 2 ^ t.bits = (g e).1 % 2 ^ t.bits ∧
      (f (s.laneEnv) (s.laneL (s.laneEnv) e) (s.el a t.bits e) 0).2 = (g e).2) :
    ∃ u, s.lane1 n t m d a f = .next u ∧ s.lanes u d n t.bits (1024 / t.bits) (s.isActive m t.bits) g := by
  obtain ⟨u, h1, h2⟩ := s.laneOp_elems n [] [(a, t.bits)] d t.bits (1024 / t.bits) (s.isActive m t.bits)
    (fun v => laneElems (1024 / t.bits) (s.isActive m t.bits) fun e => f (s.laneEnv) (s.laneL (s.laneEnv) e) (elemOf (v a) t.bits e) 0) _
    (fun r hr => by simp at hr)
    (fun r hr => h r (by simp only [List.map_cons, List.map_nil, List.mem_cons, List.not_mem_nil, or_false] at hr ⊢; exact .inr hr))
    (h d (by simp)) rfl (Nat.le_of_eq (lty_bits_mul t))
  exact ⟨u, h1, s.lanes_congr u _ _ _ _ _ _ g h2 hg⟩

end

end Sys2Proof.Machine
end

