-- ==== Sys2Proof/Laws/Memory.lean ====
section
/-! SUPPORT. Every operation over memory keeps its canonical form; a read after a write of one byte gives what was written, and every
other byte reads as before. -/

namespace Sys2Proof.Machine

/-- Keys below every key of a memory. -/
def Mem.above (m : Mem) (k : Nat) : Prop := ∀ c ∈ m, k < c.1

theorem Mem.rising_cons (j : Nat) (b : Byte) (m : Mem) : Mem.rising ((j, b) :: m) = true ↔ Mem.above m j ∧ Mem.rising m = true := by
  induction m generalizing j b with
  | nil => simp [Mem.rising, Mem.above]
  | cons e m ih =>
    obtain ⟨k, c⟩ := e
    simp only [Mem.rising, Bool.and_eq_true, decide_eq_true_eq]
    constructor
    · intro ⟨h, h'⟩
      refine ⟨?_, h'⟩
      have := (ih k c).1 h'
      intro x hx
      rcases List.mem_cons.1 hx with rfl | hx
      · exact h
      · exact Nat.lt_trans h (this.1 x hx)
    · intro ⟨h, h'⟩
      exact ⟨h (k, c) (by simp), h'⟩

theorem Mem.wf_nil : Mem.wf [] = true := by decide

theorem Mem.wf_cons (j : Nat) (b : Byte) (m : Mem) :
    Mem.wf ((j, b) :: m) = true ↔ Mem.above m j ∧ Mem.unlisted j ≠ some b ∧ Mem.wf m = true := by
  simp only [Mem.wf, Bool.and_eq_true, Mem.rising_cons, List.all_cons, decide_eq_true_eq]
  constructor <;> intro h <;> simp_all

theorem Mem.putHead_wf (k : Nat) (b : Byte) (m : Mem) (ha : Mem.above m k) (h : Mem.wf m = true) :
    Mem.wf (Mem.putHead k b m) = true := by
  unfold Mem.putHead
  split
  · exact h
  · next hb => exact (Mem.wf_cons k b m).2 ⟨ha, hb, h⟩

theorem Mem.above_putHead (k j : Nat) (b : Byte) (m : Mem) (hj : j < k) (h : Mem.above m j) : Mem.above (Mem.putHead k b m) j := by
  unfold Mem.putHead
  split
  · exact h
  · intro c hc
    rcases List.mem_cons.1 hc with rfl | hc
    · exact hj
    · exact h c hc

theorem Mem.above_writeByte (m : Mem) (k j : Nat) (b : Byte) (hj : j < k) (h : Mem.above m j) : Mem.above (m.writeByte k b) j := by
  induction m with
  | nil => exact Mem.above_putHead k j b [] hj h
  | cons e m ih =>
    obtain ⟨i, c⟩ := e
    have hi : j < i := h (i, c) (by simp)
    have hm : Mem.above m j := fun x hx => h x (by simp [hx])
    simp only [Mem.writeByte]
    split
    · exact Mem.above_putHead k j b m hj hm
    · split
      · exact Mem.above_putHead k j b _ hj h
      · intro x hx
        rcases List.mem_cons.1 hx with rfl | hx
        · exact hi
        · exact ih hm x hx

/-- Writing a byte keeps the canonical form. -/
theorem Mem.writeByte_wf (m : Mem) (k : Nat) (b : Byte) (h : Mem.wf m = true) : Mem.wf (m.writeByte k b) = true := by
  induction m with
  | nil => exact Mem.putHead_wf k b [] (fun _ hx => absurd hx (by simp)) h
  | cons e m ih =>
    obtain ⟨j, c⟩ := e
    have hh := (Mem.wf_cons j c m).1 h
    simp only [Mem.writeByte]
    split
    · next hj => subst hj; exact Mem.putHead_wf j b m hh.1 hh.2.2
    · split
      · next hk =>
        refine Mem.putHead_wf k b _ ?_ h
        intro x hx
        rcases List.mem_cons.1 hx with rfl | hx
        · exact hk
        · exact Nat.lt_trans hk (hh.1 x hx)
      · next hj hk => exact (Mem.wf_cons j c _).2 ⟨Mem.above_writeByte m k j b (by omega) hh.1, hh.2.1, ih hh.2.2⟩

theorem Mem.writeBytes_wf (bs : List Byte) (m : Mem) (k : Nat) (h : Mem.wf m = true) : Mem.wf (m.writeBytes k bs) = true := by
  induction bs generalizing m k with
  | nil => exact h
  | cons b bs ih => exact ih _ _ (Mem.writeByte_wf m k b h)

theorem Mem.writeGran_wf (m : Mem) (g : Nat) (w : Word) (h : Mem.wf m = true) : Mem.wf (m.writeGran g w) = true := by
  simp only [Mem.writeGran]
  split
  · exact Mem.writeByte_wf _ _ _ (Mem.writeBytes_wf _ m _ h)
  · exact Mem.writeBytes_wf _ m _ h

theorem Mem.storeGran_wf (m m' : Mem) (g : Nat) (mask bits : Word) (h : Mem.wf m = true) (hs : m.storeGran g mask bits = some m') :
    Mem.wf m' = true := by
  unfold Mem.storeGran at hs
  split at hs
  · cases hs; exact Mem.writeGran_wf m g bits h
  · split at hs
    · cases hs; exact Mem.writeGran_wf m g _ h
    · cases hs

theorem Mem.writeWords_wf (ws : List Word) (m : Mem) (g : Nat) (h : Mem.wf m = true) : Mem.wf (m.writeWords g ws) = true := by
  induction ws generalizing m g with
  | nil => exact h
  | cons w ws ih => exact ih _ _ (Mem.writeGran_wf m g w h)

/-- Leaving cells out keeps the canonical form. -/
theorem Mem.filter_wf (m : Mem) (p : Host.Cell → Bool) (h : Mem.wf m = true) : Mem.wf (m.filter p) = true := by
  induction m with
  | nil => exact h
  | cons e m ih =>
    obtain ⟨j, c⟩ := e
    have hh := (Mem.wf_cons j c m).1 h
    simp only [List.filter]
    split
    · refine (Mem.wf_cons j c _).2 ⟨fun x hx => hh.1 x (List.mem_filter.1 hx).1, hh.2.1, ih hh.2.2⟩
    · exact ih hh.2.2

/-- A two-bit error keeps the canonical form. -/
theorem Mem.spoil_wf (m : Mem) (g : Nat) (h : Mem.wf m = true) : Mem.wf (m.spoil g) = true := by
  unfold Mem.spoil
  split
  · exact Mem.writeByte_wf _ _ _ h
  · exact Mem.filter_wf _ _ h
  · exact Mem.filter_wf _ _ h
  · exact h

theorem Mem.readByte_below (m : Mem) (k : Nat) (h : Mem.above m k) : m.readByte k = Mem.unlisted k := by
  cases m with
  | nil => rfl
  | cons e m =>
    obtain ⟨j, c⟩ := e
    have : k < j := h (j, c) (by simp)
    simp only [Mem.readByte]
    split
    · omega
    · rfl

theorem Mem.readByte_putHead (k : Nat) (b : Byte) (m : Mem) (h : Mem.above m k) : (Mem.putHead k b m).readByte k = some b := by
  unfold Mem.putHead
  split
  · next hb => rw [Mem.readByte_below m k h, hb]
  · simp [Mem.readByte]

theorem Mem.readByte_putHead_ne (k j : Nat) (b : Byte) (m : Mem) (h : Mem.above m k) (hj : j ≠ k) :
    (Mem.putHead k b m).readByte j = m.readByte j := by
  unfold Mem.putHead
  split
  · rfl
  · simp only [Mem.readByte]
    split
    · omega
    · split
      · next hlt => exact (Mem.readByte_below m j fun c hc => Nat.lt_trans hlt (h c hc)).symm
      · rfl

/-- A byte just written reads as written. -/
theorem Mem.readByte_writeByte (m : Mem) (k : Nat) (b : Byte) (h : Mem.wf m = true) : (m.writeByte k b).readByte k = some b := by
  induction m with
  | nil => exact Mem.readByte_putHead k b [] (fun _ hx => absurd hx (by simp))
  | cons e m ih =>
    obtain ⟨j, c⟩ := e
    have hh := (Mem.wf_cons j c m).1 h
    simp only [Mem.writeByte]
    split
    · next hj => subst hj; exact Mem.readByte_putHead j b m hh.1
    · split
      · next hk =>
        refine Mem.readByte_putHead k b _ fun x hx => ?_
        rcases List.mem_cons.1 hx with rfl | hx
        · exact hk
        · exact Nat.lt_trans hk (hh.1 x hx)
      · next hj hk => simp only [Mem.readByte, hj, if_false, hk, ih hh.2.2]

/-- Every other byte reads as before. -/
theorem Mem.readByte_writeByte_ne (m : Mem) (k j : Nat) (b : Byte) (h : Mem.wf m = true) (hj : j ≠ k) :
    (m.writeByte k b).readByte j = m.readByte j := by
  induction m with
  | nil => exact Mem.readByte_putHead_ne k j b [] (fun _ hx => absurd hx (by simp)) hj
  | cons e m ih =>
    obtain ⟨i, c⟩ := e
    have hh := (Mem.wf_cons i c m).1 h
    simp only [Mem.writeByte]
    split
    · next hi =>
      subst hi
      rw [Mem.readByte_putHead_ne i j b m hh.1 hj]
      simp only [Mem.readByte, Ne.symm hj, if_false]
      split
      · next hlt => exact Mem.readByte_below m j fun x hx => Nat.lt_trans hlt (hh.1 x hx)
      · rfl
    · split
      · next hk =>
        refine Mem.readByte_putHead_ne k j b _ (fun x hx => ?_) hj
        rcases List.mem_cons.1 hx with rfl | hx
        · exact hk
        · exact Nat.lt_trans hk (hh.1 x hx)
      · simp only [Mem.readByte, ih hh.2.2]

end Sys2Proof.Machine
end

