-- ==== Sys2Proof/Laws/Translate.lean ====
section
/-! SUPPORT. What resolving an address can change: the TLBs and the queue of walks, nothing else; and that it gives one location for each
granule. -/

namespace Sys2Proof.Machine

/-- t is s but for TLBs and walks asked for. -/
structure State.Xlated (s t : State) : Prop where
  same : ∃ cs qs, t = { s with cores := cs, quads := qs }
  core : ∀ c, ∃ i d, t.core c = { s.core c with itlb := i, dtlb := d }

namespace Xl

theorem rfl' (s : State) : s.Xlated s := ⟨⟨s.cores, s.quads, rfl⟩, fun c => ⟨(s.core c).itlb, (s.core c).dtlb, rfl⟩⟩

theorem trans {s t u : State} (h : s.Xlated t) (k : t.Xlated u) : s.Xlated u := by
  obtain ⟨⟨c1, q1, rfl⟩, hc⟩ := h
  obtain ⟨⟨c2, q2, rfl⟩, kc⟩ := k
  refine ⟨⟨c2, q2, rfl⟩, fun c => ?_⟩
  obtain ⟨i, d, e⟩ := hc c
  obtain ⟨i', d', e'⟩ := kc c
  exact ⟨i', d', by rw [e', e]⟩

theorem modCore (s : State) (c : Nat) (f : Core → Core) (hf : ∀ k, ∃ i d, f k = { k with itlb := i, dtlb := d }) : s.Xlated (s.modCore c f) := by
  refine ⟨⟨_, _, rfl⟩, fun j => ?_⟩
  by_cases h : j = c
  · subst h; rw [State.core_modCore]; exact hf _
  · rw [State.core_modCore_ne _ _ _ _ h]; exact ⟨_, _, rfl⟩

theorem modQuad (s : State) (q : Nat) (f : Quad → Quad) : s.Xlated (s.modQuad q f) :=
  ⟨⟨_, _, rfl⟩, fun c => ⟨(s.core c).itlb, (s.core c).dtlb, rfl⟩⟩

theorem fillCoreTlb (s : State) (c : Nat) (b : Bool) (e : TlbEntry) : s.Xlated (s.fillCoreTlb c b e) :=
  modCore s c _ (by intro k; cases b <;> exact ⟨_, _, rfl⟩)

theorem tlbLookup (s : State) (c : Nat) (b : Bool) (va : Nat) (r : TlbEntry × State) (h : s.tlbLookup c b va = some r) : s.Xlated r.2 := by
  simp only [State.tlbLookup] at h
  split at h
  · cases h
    dsimp only
    refine modCore s c _ ?_
    intro k; cases b <;> exact ⟨_, _, rfl⟩
  · split at h
    · cases h; exact trans (modQuad s _ _) (fillCoreTlb _ _ _ _)
    · cases h

theorem translate (s : State) (c : Nat) (b : Bool) (va : Nat) : s.Xlated (s.translate c b va).2 := by
  simp only [State.translate]
  split
  · next h => exact tlbLookup s c b va _ h
  · split
    · exact rfl' s
    · exact rfl' s
    · simp only [State.askWalk]; exact modQuad s _ _

theorem resolveVirt (c : Nat) (k : AccKind) (a : Nat) (gs : List Nat) (s : State) : s.Xlated (s.resolveVirt c k a gs).2 := by
  induction gs generalizing s with
  | nil => exact rfl' s
  | cons g gs ih =>
    simp only [State.resolveVirt]
    split
    · exact rfl' s
    · have ht := translate s c (k == .fetch) (max a g)
      split
      · next h => rw [h] at ht; exact ht
      · next h => rw [h] at ht; exact ht
      · next h => rw [h] at ht; exact ht
      · next h => rw [h] at ht; exact ht
      · next h =>
        rw [h] at ht
        split
        · exact ht
        · next e t _ _ =>
          have hr := ih t
          split <;> next h2 => rw [h2] at hr; exact trans ht hr

end Xl

/-- Resolving an address changes TLBs and asks for walks only. -/
theorem State.resolve_frame (s : State) (c : Nat) (u : Bool) (k : AccKind) (a : Word) (n : Nat) : s.Xlated (s.resolve c u k a n).2 := by
  simp only [State.resolve]
  split
  · split <;> exact Xl.rfl' s
  · exact Xl.resolveVirt _ _ _ _ s

theorem State.Xlated.me {s t : State} (h : s.Xlated t) : t.me = s.me := by obtain ⟨⟨_, _, rfl⟩, _⟩ := h; rfl
theorem State.Xlated.mem {s t : State} (h : s.Xlated t) : t.mem = s.mem := by obtain ⟨⟨_, _, rfl⟩, _⟩ := h; rfl
theorem State.Xlated.ci {s t : State} (h : s.Xlated t) : t.ci = s.ci := by obtain ⟨⟨_, _, rfl⟩, _⟩ := h; rfl
theorem State.Xlated.rd {s t : State} (h : s.Xlated t) (r : Reg) : t.rd r = s.rd r := by rw [State.rd, h.me]; rfl

/-- An address that resolves gives one location for each of its granules. -/
theorem State.resolve_length (s t : State) (c : Nat) (u : Bool) (k : AccKind) (a : Word) (n : Nat) (ls : List Loc)
    (h : s.resolve c u k a n = (.ok ls, t)) : ls.length = (gransOf a.toNat n).length := by
  have virt : ∀ (gs : List Nat) (s t : State) (ls : List Loc), s.resolveVirt c k a.toNat gs = (.ok ls, t) → ls.length = gs.length := by
    intro gs
    induction gs with
    | nil => intro s t ls h; cases h; rfl
    | cons g gs ih =>
      intro s t ls h
      simp only [State.resolveVirt] at h
      split at h
      · cases h
      · split at h
        · cases h
        · cases h
        · cases h
        · cases h
        · split at h
          · cases h
          · split at h
            · next h2 => cases h; simp [ih _ _ _ h2]
            · cases h
  simp only [State.resolve] at h
  split at h
  · split at h <;> cases h; simp
  · exact virt _ _ _ _ h

end Sys2Proof.Machine
end

