-- ==== Sys2Proof/Laws/Ops.lean ====
section
/-! SUPPORT. What the shared operations of an instruction do: traps, commit points, releases, the region buffer, checks and reads. -/

namespace Sys2Proof.Machine

section
variable (s : State)

/-! ## Traps (R110) -/

/-- A trap that does not meet a handler (R110). -/
theorem State.trapAt_enters (sid code tag : Nat) (v : Word) (h : ((s.strand sid).status.trapped && (s.strand sid).status.mode) = false) :
    s.trapAt sid code tag v = s.modStrand sid fun t =>
      { t.clearInstr with epc := t.pc, cause := causeWord code tag false, tval := v, status := ⟨.ready, true, t.status.mode, true⟩,
                          pc := (s.ctxRegs (dieOf (coreOf sid))).tvec, block := none } := by
  have two : ∀ f g : Strand → Strand, (s.modStrand sid f).modStrand sid g = s.modStrand sid fun t => g (f t) := by
    intro f g; simp [State.modStrand, State.strand]
  have h' : ((s.strand sid).clearInstr.status.trapped && (s.strand sid).clearInstr.status.mode) = false := h
  simp only [State.trapAt, State.strand_modStrand, h', Bool.false_eq_true, if_false, two]
  rfl

/-- A trap of the running instruction that does not meet a handler. -/
theorem State.trap_enters (code : Nat) (v : Word) (h : (s.me.status.trapped && s.me.status.mode) = false) :
    s.trap code v = s.modMe fun t =>
      { t.clearInstr with epc := t.pc, cause := causeWord code 0 false, tval := v, status := ⟨.ready, true, t.status.mode, true⟩,
                          pc := (s.ctxRegs (dieOf s.ci)).tvec, block := none } := s.trapAt_enters s.cur code 0 v h

/-! ## Commit points (R17, R149, R52) -/

theorem State.commit_ok (own : List (Nat × Word)) (h : s.unwatched own) : s.commit own = .ok s.committed := by
  simp only [State.commit, show lowestWatched s s.ci (s.me.regionGrans ++ own) = none from h]; rfl

/-- An instruction at a commit point whose check passes. -/
theorem State.atCommit_ok (own : List (Nat × Word)) (f : State → State) (h : s.unwatched own) :
    s.atCommit own f = .next ((f s.committed).modMe Strand.checkpoint) := by
  simp only [State.atCommit, s.commit_ok own h]; rfl

/-- A commit point that meets a watched granule traps with the lowest of them. -/
theorem State.atCommit_watched (own : List (Nat × Word)) (f : State → State) (a : Word)
    (h : lowestWatched s s.ci (s.me.regionGrans ++ own) = some a) :
    s.atCommit own f = .next ((if (lowestWatched s s.ci s.me.regionGrans).isSome then s.modMe fun t => { t with region := [] } else s).trap cCTRSTORE a) := by
  simp only [State.atCommit, State.commit, h]

/-- The running strand waits at a release of its instruction, to load some weight stores (R52, R325). -/
def State.atItsGate (ws : List Nat) : State := s.modMe fun t => { t with gate := true, wsGate := ws }

/-- A release whose wait is over. -/
theorem State.atReleaseFor_ok (ws : List Nat) (sc : Scope) (f : State → Option State) (hg : s.me.gate = false) (h : s.unwatched [])
    (hr : s.committed.released sc) :
    s.atReleaseFor ws sc f =
      match f (s.committed.atItsGate ws) with | some u => .next (u.modMe Strand.checkpoint) | none => .next (s.committed.atItsGate ws) := by
  have e : (s.committed.atItsGate ws).me = { s.committed.me with gate := true, wsGate := ws } := State.me_modMe _ _
  have hr' : ((s.committed.atItsGate ws).me.allBefore (s.committed.atItsGate ws).pkg sc (s.committed.atItsGate ws).me.seq &&
      (s.committed.atItsGate ws).me.storesLet (s.committed.atItsGate ws).pkg (s.committed.atItsGate ws).me.seq) = true := by rw [e]; exact hr
  rw [State.atItsGate] at hr'
  simp only [State.atReleaseFor, State.atGateFor, State.gated, hg, Bool.false_eq_true, if_false, s.commit_ok [] h, hr', if_true]
  rw [State.atItsGate]
  cases f (s.committed.modMe fun t => { t with gate := true, wsGate := ws }) <;> rfl

/-- A release whose wait is over, of an instruction that loads no weight store. -/
theorem State.atRelease_ok (sc : Scope) (f : State → Option State) (hg : s.me.gate = false) (h : s.unwatched []) (hr : s.committed.released sc) :
    s.atRelease sc f =
      match f (s.committed.atItsGate []) with | some u => .next (u.modMe Strand.checkpoint) | none => .next (s.committed.atItsGate []) :=
  s.atReleaseFor_ok [] sc f hg h hr

/-- A store that finds room. -/
theorem State.bufferStore_room (need : Nat) (mk : Nat → List BufEntry) (fin : State → State) (h : s.me.bufUsed + need ≤ 512) :
    s.bufferStore need mk fin = .next (fin (s.modMe fun t => { t with region := t.region ++ mk t.seq, seq := t.seq + need })) := by
  simp only [State.bufferStore, bufCap, h, if_true]

/-! ## Reading words -/

/-- An instruction whose words have been loaded goes on with them, and nothing changes (R47, R49). -/
theorem State.readDesc_loaded (a : Word) (n : Nat) (ws : List Word) (k : List Word → State → Out) (h : s.loaded a n ws) :
    s.readDesc a n k = k ws s := by
  obtain ⟨v, h1, rfl⟩ := h
  simp only [State.readDesc, State.loadWords, State.loadBits, h1]

/-! ## Commands (R315) -/

/-- The issue procedure of a command, once its checks pass. -/
theorem State.engIssue_ok (i : Instr) (major op : Nat) (sc : Scope) (d a : Reg) (ctr : Word) (eng : List Word → Nat) (bad : List Word → Bool)
    (checks : List Word → State → (State → Out) → Out) (more : Cmd → State → State) (ws : List Word) (p q u : State)
    (h1 : (s.rd a).toNat % 512 = 0) (h2 : s.loaded (s.rd a) 8 ws) (hg : s.me.gate = false) (h3 : bad ws = false)
    (h4 : wfld (tlWord major op ws) 1 5 = 0) (h5 : wbit (tlWord major op ws) 0 = true → wfld s.myCore.enote 4 60 ≠ 0) (h6 : Pass (checks ws s) p)
    (h7 : Pass (p.namedCounter (tlAddr (tlWord major op ws)) (.atomic false)) q) (h8 : Pass (q.namedCounter ctr (.atomic false)) u)
    (hu : u.me.gate = false) (h9 : u.unwatched []) (h10 : u.committed.released sc) (h11 : (u.eng u.ci (eng ws)).queue.length < 16) :
    s.engIssue i major op sc d a ctr eng bad checks more =
      let v := u.committed.atItsGate (loadedStores major op ws)
      let cmd := v.mkCmd major op ((u.eng u.ci (eng ws)).seq + 1) ws (s.rd a) ctr
      .next (((more cmd ((v.modEng u.ci (eng ws) fun y =>
        { y with queue := y.queue ++ [cmd], seq := (u.eng u.ci (eng ws)).seq + 1 }).wr d (ofN ((u.eng u.ci (eng ws)).seq + 1)))).retire 32).modMe
          Strand.checkpoint) := by
  have ha : aligned (s.rd a) 512 = true := by simp [aligned, h1]
  have h5' : (wbit (tlWord major op ws) 0 && wfld s.myCore.enote 4 60 == 0) = false := by
    cases hb : wbit (tlWord major op ws) 0 with
    | false => rfl
    | true => simp [h5 hb]
  simp only [State.engIssue, ha, Bool.not_true, Bool.false_eq_true, if_false, s.readDesc_loaded _ _ _ _ h2, State.beforeCommit, State.gated, hg, h3, h4,
    h5', bne_self_eq_false, Bool.or_false, h6 _, h7 _, h8 _, u.atReleaseFor_ok _ sc _ hu h9 h10]
  have hq : ¬(((u.committed.atItsGate (loadedStores major op ws)).eng (u.committed.atItsGate (loadedStores major op ws)).ci (eng ws)).queue.length ≥
      queueCap) := by
    show ¬((u.eng u.ci (eng ws)).queue.length ≥ 16); omega
  simp only [hq, if_false]
  rfl

end

end Sys2Proof.Machine
end

