-- ==== Sys2Proof/Laws/PerInstr.lean ====
section
/-! SUPPORT. A fact of every instruction as syntax: the word it encodes to fits its length, and bit 0 of it tells the length (R86). -/

namespace Sys2Proof.Laws.Encoding

open Sys2Proof

/-- The word of an instruction fits its 16 or 32 bits, and is even where it has 16 and odd where it has 32 (R86). -/
def Statement (i : Instr) : Prop :=
  ∀ n w, encodeWord i = some (n, w) → w < 2 ^ n ∧ (n = 16 ∧ w % 2 = 0 ∨ n = 32 ∧ w % 2 = 1)

/-- What a word of n bits must be. -/
def Fits (n w : Nat) : Prop := w < 2 ^ n ∧ (n = 16 ∧ w % 2 = 0 ∨ n = 32 ∧ w % 2 = 1)

theorem ofWord (i : Instr) (n w : Nat) (h : encodeWord i = some (n, w)) (hw : Fits n w) : Statement i := by
  intro n' x hx
  rw [h] at hx
  cases hx
  exact hw

theorem of0 (i : Instr) (n b : Nat) (h : encodeWord i = enc n b []) (hw : Fits n (b)) : Statement i :=
  ofWord i n _ h hw

theorem of1 (i : Instr) (n b x0 p0 : Nat) (h : encodeWord i = enc n b [(x0, p0)]) (hw : Fits n (b + x0 * 2 ^ p0)) : Statement i :=
  ofWord i n _ h hw

theorem of2 (i : Instr) (n b x0 x1 p0 p1 : Nat) (h : encodeWord i = enc n b [(x0, p0), (x1, p1)]) (hw : Fits n (b + x0 * 2 ^ p0 + x1 * 2 ^ p1)) : Statement i :=
  ofWord i n _ h hw

theorem of3 (i : Instr) (n b x0 x1 x2 p0 p1 p2 : Nat) (h : encodeWord i = enc n b [(x0, p0), (x1, p1), (x2, p2)]) (hw : Fits n (b + x0 * 2 ^ p0 + x1 * 2 ^ p1 + x2 * 2 ^ p2)) : Statement i :=
  ofWord i n _ h hw

theorem of4 (i : Instr) (n b x0 x1 x2 x3 p0 p1 p2 p3 : Nat) (h : encodeWord i = enc n b [(x0, p0), (x1, p1), (x2, p2), (x3, p3)]) (hw : Fits n (b + x0 * 2 ^ p0 + x1 * 2 ^ p1 + x2 * 2 ^ p2 + x3 * 2 ^ p3)) : Statement i :=
  ofWord i n _ h hw

theorem of5 (i : Instr) (n b x0 x1 x2 x3 x4 p0 p1 p2 p3 p4 : Nat) (h : encodeWord i = enc n b [(x0, p0), (x1, p1), (x2, p2), (x3, p3), (x4, p4)]) (hw : Fits n (b + x0 * 2 ^ p0 + x1 * 2 ^ p1 + x2 * 2 ^ p2 + x3 * 2 ^ p3 + x4 * 2 ^ p4)) : Statement i :=
  ofWord i n _ h hw

theorem of6 (i : Instr) (n b x0 x1 x2 x3 x4 x5 p0 p1 p2 p3 p4 p5 : Nat) (h : encodeWord i = enc n b [(x0, p0), (x1, p1), (x2, p2), (x3, p3), (x4, p4), (x5, p5)]) (hw : Fits n (b + x0 * 2 ^ p0 + x1 * 2 ^ p1 + x2 * 2 ^ p2 + x3 * 2 ^ p3 + x4 * 2 ^ p4 + x5 * 2 ^ p5)) : Statement i :=
  ofWord i n _ h hw

theorem ofNone (i : Instr) (h : encodeWord i = none) : Statement i := by
  intro n x hx
  rw [h] at hx
  cases hx

theorem width_code (w : Width) : w.code ≤ 8 := by cases w <;> decide
theorem scope_code (s : Scope) : s.code ≤ 5 := by cases s <;> decide
theorem ty_code (x : Ty) : x.code ≤ 30 := by cases x <;> decide
theorem lty_code (x : LTy) : x.code ≤ 15 := by cases x <;> decide
theorem fmaty_code (x : FmaTy) : x.code ≤ 1 := by cases x <;> decide
theorem vfmaty_code (x : VfmaTy) : x.code ≤ 2 := by cases x <;> decide
theorem cond_code (x : Cond) : x.code ≤ 7 := by cases x <;> decide
theorem vcond_code (x : VCond) : x.code ≤ 3 := by cases x <;> decide
theorem fencekind_code (x : FenceKind) : x.code ≤ 4 := by cases x <;> decide
theorem msel_code (x : MSel) : x.code ≤ 3 := by cases x <;> decide
theorem bool_code (b : Bool) : b.toNat ≤ 1 := by cases b <;> decide

theorem add (d : Reg) (a : Reg) (b : Reg) : Statement (.add d a b) :=
  of3 _ _ _ _ _ _ _ _ _ (rfl : encodeWord (.add d a b) = enc 32 3 [(d.val, 7), (a.val, 12), (b.val, 17)]) (by have h_d := d.isLt; have h_a := a.isLt; have h_b := b.isLt; unfold Fits; omega)
theorem sub (d : Reg) (a : Reg) (b : Reg) : Statement (.sub d a b) :=
  of3 _ _ _ _ _ _ _ _ _ (rfl : encodeWord (.sub d a b) = enc 32 4194307 [(d.val, 7), (a.val, 12), (b.val, 17)]) (by have h_d := d.isLt; have h_a := a.isLt; have h_b := b.isLt; unfold Fits; omega)
theorem mul (d : Reg) (a : Reg) (b : Reg) : Statement (.mul d a b) :=
  of3 _ _ _ _ _ _ _ _ _ (rfl : encodeWord (.mul d a b) = enc 32 8388611 [(d.val, 7), (a.val, 12), (b.val, 17)]) (by have h_d := d.isLt; have h_a := a.isLt; have h_b := b.isLt; unfold Fits; omega)
theorem mulh (d : Reg) (a : Reg) (b : Reg) : Statement (.mulh d a b) :=
  of3 _ _ _ _ _ _ _ _ _ (rfl : encodeWord (.mulh d a b) = enc 32 12582915 [(d.val, 7), (a.val, 12), (b.val, 17)]) (by have h_d := d.isLt; have h_a := a.isLt; have h_b := b.isLt; unfold Fits; omega)
theorem mulhn (d : Reg) (a : Reg) (b : Reg) : Statement (.mulhn d a b) :=
  of3 _ _ _ _ _ _ _ _ _ (rfl : encodeWord (.mulhn d a b) = enc 32 16777219 [(d.val, 7), (a.val, 12), (b.val, 17)]) (by have h_d := d.isLt; have h_a := a.isLt; have h_b := b.isLt; unfold Fits; omega)
theorem div (d : Reg) (a : Reg) (b : Reg) : Statement (.div d a b) :=
  of3 _ _ _ _ _ _ _ _ _ (rfl : encodeWord (.div d a b) = enc 32 20971523 [(d.val, 7), (a.val, 12), (b.val, 17)]) (by have h_d := d.isLt; have h_a := a.isLt; have h_b := b.isLt; unfold Fits; omega)
theorem divn (d : Reg) (a : Reg) (b : Reg) : Statement (.divn d a b) :=
  of3 _ _ _ _ _ _ _ _ _ (rfl : encodeWord (.divn d a b) = enc 32 25165827 [(d.val, 7), (a.val, 12), (b.val, 17)]) (by have h_d := d.isLt; have h_a := a.isLt; have h_b := b.isLt; unfold Fits; omega)
theorem rem (d : Reg) (a : Reg) (b : Reg) : Statement (.rem d a b) :=
  of3 _ _ _ _ _ _ _ _ _ (rfl : encodeWord (.rem d a b) = enc 32 29360131 [(d.val, 7), (a.val, 12), (b.val, 17)]) (by have h_d := d.isLt; have h_a := a.isLt; have h_b := b.isLt; unfold Fits; omega)
theorem remn (d : Reg) (a : Reg) (b : Reg) : Statement (.remn d a b) :=
  of3 _ _ _ _ _ _ _ _ _ (rfl : encodeWord (.remn d a b) = enc 32 33554435 [(d.val, 7), (a.val, 12), (b.val, 17)]) (by have h_d := d.isLt; have h_a := a.isLt; have h_b := b.isLt; unfold Fits; omega)
theorem and (d : Reg) (a : Reg) (b : Reg) : Statement (.and d a b) :=
  of3 _ _ _ _ _ _ _ _ _ (rfl : encodeWord (.and d a b) = enc 32 37748739 [(d.val, 7), (a.val, 12), (b.val, 17)]) (by have h_d := d.isLt; have h_a := a.isLt; have h_b := b.isLt; unfold Fits; omega)
theorem or (d : Reg) (a : Reg) (b : Reg) : Statement (.or d a b) :=
  of3 _ _ _ _ _ _ _ _ _ (rfl : encodeWord (.or d a b) = enc 32 41943043 [(d.val, 7), (a.val, 12), (b.val, 17)]) (by have h_d := d.isLt; have h_a := a.isLt; have h_b := b.isLt; unfold Fits; omega)
theorem xor (d : Reg) (a : Reg) (b : Reg) : Statement (.xor d a b) :=
  of3 _ _ _ _ _ _ _ _ _ (rfl : encodeWord (.xor d a b) = enc 32 46137347 [(d.val, 7), (a.val, 12), (b.val, 17)]) (by have h_d := d.isLt; have h_a := a.isLt; have h_b := b.isLt; unfold Fits; omega)
theorem andn (d : Reg) (a : Reg) (b : Reg) : Statement (.andn d a b) :=
  of3 _ _ _ _ _ _ _ _ _ (rfl : encodeWord (.andn d a b) = enc 32 50331651 [(d.val, 7), (a.val, 12), (b.val, 17)]) (by have h_d := d.isLt; have h_a := a.isLt; have h_b := b.isLt; unfold Fits; omega)
theorem shl (d : Reg) (a : Reg) (b : Reg) : Statement (.shl d a b) :=
  of3 _ _ _ _ _ _ _ _ _ (rfl : encodeWord (.shl d a b) = enc 32 54525955 [(d.val, 7), (a.val, 12), (b.val, 17)]) (by have h_d := d.isLt; have h_a := a.isLt; have h_b := b.isLt; unfold Fits; omega)
theorem shr (d : Reg) (a : Reg) (b : Reg) : Statement (.shr d a b) :=
  of3 _ _ _ _ _ _ _ _ _ (rfl : encodeWord (.shr d a b) = enc 32 58720259 [(d.val, 7), (a.val, 12), (b.val, 17)]) (by have h_d := d.isLt; have h_a := a.isLt; have h_b := b.isLt; unfold Fits; omega)
theorem sra (d : Reg) (a : Reg) (b : Reg) : Statement (.sra d a b) :=
  of3 _ _ _ _ _ _ _ _ _ (rfl : encodeWord (.sra d a b) = enc 32 62914563 [(d.val, 7), (a.val, 12), (b.val, 17)]) (by have h_d := d.isLt; have h_a := a.isLt; have h_b := b.isLt; unfold Fits; omega)
theorem rol (d : Reg) (a : Reg) (b : Reg) : Statement (.rol d a b) :=
  of3 _ _ _ _ _ _ _ _ _ (rfl : encodeWord (.rol d a b) = enc 32 67108867 [(d.val, 7), (a.val, 12), (b.val, 17)]) (by have h_d := d.isLt; have h_a := a.isLt; have h_b := b.isLt; unfold Fits; omega)
theorem min (d : Reg) (a : Reg) (b : Reg) : Statement (.min d a b) :=
  of3 _ _ _ _ _ _ _ _ _ (rfl : encodeWord (.min d a b) = enc 32 71303171 [(d.val, 7), (a.val, 12), (b.val, 17)]) (by have h_d := d.isLt; have h_a := a.isLt; have h_b := b.isLt; unfold Fits; omega)
theorem max (d : Reg) (a : Reg) (b : Reg) : Statement (.max d a b) :=
  of3 _ _ _ _ _ _ _ _ _ (rfl : encodeWord (.max d a b) = enc 32 75497475 [(d.val, 7), (a.val, 12), (b.val, 17)]) (by have h_d := d.isLt; have h_a := a.isLt; have h_b := b.isLt; unfold Fits; omega)
theorem minn (d : Reg) (a : Reg) (b : Reg) : Statement (.minn d a b) :=
  of3 _ _ _ _ _ _ _ _ _ (rfl : encodeWord (.minn d a b) = enc 32 79691779 [(d.val, 7), (a.val, 12), (b.val, 17)]) (by have h_d := d.isLt; have h_a := a.isLt; have h_b := b.isLt; unfold Fits; omega)
theorem maxn (d : Reg) (a : Reg) (b : Reg) : Statement (.maxn d a b) :=
  of3 _ _ _ _ _ _ _ _ _ (rfl : encodeWord (.maxn d a b) = enc 32 83886083 [(d.val, 7), (a.val, 12), (b.val, 17)]) (by have h_d := d.isLt; have h_a := a.isLt; have h_b := b.isLt; unfold Fits; omega)
theorem slt (d : Reg) (a : Reg) (b : Reg) : Statement (.slt d a b) :=
  of3 _ _ _ _ _ _ _ _ _ (rfl : encodeWord (.slt d a b) = enc 32 88080387 [(d.val, 7), (a.val, 12), (b.val, 17)]) (by have h_d := d.isLt; have h_a := a.isLt; have h_b := b.isLt; unfold Fits; omega)
theorem sltn (d : Reg) (a : Reg) (b : Reg) : Statement (.sltn d a b) :=
  of3 _ _ _ _ _ _ _ _ _ (rfl : encodeWord (.sltn d a b) = enc 32 92274691 [(d.val, 7), (a.val, 12), (b.val, 17)]) (by have h_d := d.isLt; have h_a := a.isLt; have h_b := b.isLt; unfold Fits; omega)
theorem seq (d : Reg) (a : Reg) (b : Reg) : Statement (.seq d a b) :=
  of3 _ _ _ _ _ _ _ _ _ (rfl : encodeWord (.seq d a b) = enc 32 96468995 [(d.val, 7), (a.val, 12), (b.val, 17)]) (by have h_d := d.isLt; have h_a := a.isLt; have h_b := b.isLt; unfold Fits; omega)
theorem cmov (d : Reg) (a : Reg) (b : Reg) : Statement (.cmov d a b) :=
  of3 _ _ _ _ _ _ _ _ _ (rfl : encodeWord (.cmov d a b) = enc 32 100663299 [(d.val, 7), (a.val, 12), (b.val, 17)]) (by have h_d := d.isLt; have h_a := a.isLt; have h_b := b.isLt; unfold Fits; omega)
theorem clz (d : Reg) (a : Reg) : Statement (.clz d a) :=
  of2 _ _ _ _ _ _ _ (rfl : encodeWord (.clz d a) = enc 32 104857603 [(d.val, 7), (a.val, 12)]) (by have h_d := d.isLt; have h_a := a.isLt; unfold Fits; omega)
theorem ctz (d : Reg) (a : Reg) : Statement (.ctz d a) :=
  of2 _ _ _ _ _ _ _ (rfl : encodeWord (.ctz d a) = enc 32 109051907 [(d.val, 7), (a.val, 12)]) (by have h_d := d.isLt; have h_a := a.isLt; unfold Fits; omega)
theorem popc (d : Reg) (a : Reg) : Statement (.popc d a) :=
  of2 _ _ _ _ _ _ _ (rfl : encodeWord (.popc d a) = enc 32 113246211 [(d.val, 7), (a.val, 12)]) (by have h_d := d.isLt; have h_a := a.isLt; unfold Fits; omega)
theorem addi (d : Reg) (a : Reg) (i : BitVec 15) : Statement (.addi d a i) :=
  of3 _ _ _ _ _ _ _ _ _ (rfl : encodeWord (.addi d a i) = enc 32 5 [(d.val, 7), (a.val, 12), (i.toNat, 17)]) (by have h_d := d.isLt; have h_a := a.isLt; have h_i := i.isLt; unfold Fits; omega)
theorem andi (d : Reg) (a : Reg) (i : BitVec 15) : Statement (.andi d a i) :=
  of3 _ _ _ _ _ _ _ _ _ (rfl : encodeWord (.andi d a i) = enc 32 7 [(d.val, 7), (a.val, 12), (i.toNat, 17)]) (by have h_d := d.isLt; have h_a := a.isLt; have h_i := i.isLt; unfold Fits; omega)
theorem ori (d : Reg) (a : Reg) (i : BitVec 15) : Statement (.ori d a i) :=
  of3 _ _ _ _ _ _ _ _ _ (rfl : encodeWord (.ori d a i) = enc 32 9 [(d.val, 7), (a.val, 12), (i.toNat, 17)]) (by have h_d := d.isLt; have h_a := a.isLt; have h_i := i.isLt; unfold Fits; omega)
theorem xori (d : Reg) (a : Reg) (i : BitVec 15) : Statement (.xori d a i) :=
  of3 _ _ _ _ _ _ _ _ _ (rfl : encodeWord (.xori d a i) = enc 32 11 [(d.val, 7), (a.val, 12), (i.toNat, 17)]) (by have h_d := d.isLt; have h_a := a.isLt; have h_i := i.isLt; unfold Fits; omega)
theorem slti (d : Reg) (a : Reg) (i : BitVec 15) : Statement (.slti d a i) :=
  of3 _ _ _ _ _ _ _ _ _ (rfl : encodeWord (.slti d a i) = enc 32 15 [(d.val, 7), (a.val, 12), (i.toNat, 17)]) (by have h_d := d.isLt; have h_a := a.isLt; have h_i := i.isLt; unfold Fits; omega)
theorem shli (d : Reg) (a : Reg) (n : Fin 64) : Statement (.shli d a n) :=
  of3 _ _ _ _ _ _ _ _ _ (rfl : encodeWord (.shli d a n) = enc 32 13 [(d.val, 7), (a.val, 12), (n.val, 17)]) (by have h_d := d.isLt; have h_a := a.isLt; have h_n := n.isLt; unfold Fits; omega)
theorem shri (d : Reg) (a : Reg) (n : Fin 64) : Statement (.shri d a n) :=
  of3 _ _ _ _ _ _ _ _ _ (rfl : encodeWord (.shri d a n) = enc 32 16777229 [(d.val, 7), (a.val, 12), (n.val, 17)]) (by have h_d := d.isLt; have h_a := a.isLt; have h_n := n.isLt; unfold Fits; omega)
theorem srai (d : Reg) (a : Reg) (n : Fin 64) : Statement (.srai d a n) :=
  of3 _ _ _ _ _ _ _ _ _ (rfl : encodeWord (.srai d a n) = enc 32 33554445 [(d.val, 7), (a.val, 12), (n.val, 17)]) (by have h_d := d.isLt; have h_a := a.isLt; have h_n := n.isLt; unfold Fits; omega)
theorem roli (d : Reg) (a : Reg) (n : Fin 64) : Statement (.roli d a n) :=
  of3 _ _ _ _ _ _ _ _ _ (rfl : encodeWord (.roli d a n) = enc 32 50331661 [(d.val, 7), (a.val, 12), (n.val, 17)]) (by have h_d := d.isLt; have h_a := a.isLt; have h_n := n.isLt; unfold Fits; omega)
theorem limm (d : Reg) (i : BitVec 20) : Statement (.limm d i) :=
  of2 _ _ _ _ _ _ _ (rfl : encodeWord (.limm d i) = enc 32 17 [(d.val, 7), (i.toNat, 12)]) (by have h_d := d.isLt; have h_i := i.isLt; unfold Fits; omega)
theorem limmh (d : Reg) (i : BitVec 20) : Statement (.limmh d i) :=
  of2 _ _ _ _ _ _ _ (rfl : encodeWord (.limmh d i) = enc 32 19 [(d.val, 7), (i.toNat, 12)]) (by have h_d := d.isLt; have h_i := i.isLt; unfold Fits; omega)
theorem bpadd (w : Width) (d : Reg) (a : Reg) (b : Reg) : Statement (.bpadd w d a b) :=
  of4 _ _ _ _ _ _ _ _ _ _ _ (rfl : encodeWord (.bpadd w d a b) = enc 32 21 [(w.code, 26), (d.val, 7), (a.val, 12), (b.val, 17)]) (by have h_w := width_code w; have h_d := d.isLt; have h_a := a.isLt; have h_b := b.isLt; unfold Fits; omega)
theorem bpdiff (w : Width) (d : Reg) (a : Reg) (b : Reg) : Statement (.bpdiff w d a b) :=
  of4 _ _ _ _ _ _ _ _ _ _ _ (rfl : encodeWord (.bpdiff w d a b) = enc 32 4194325 [(w.code, 26), (d.val, 7), (a.val, 12), (b.val, 17)]) (by have h_w := width_code w; have h_d := d.isLt; have h_a := a.isLt; have h_b := b.isLt; unfold Fits; omega)
theorem bcrd (d : Reg) (a : Reg) (b : Reg) : Statement (.bcrd d a b) :=
  of3 _ _ _ _ _ _ _ _ _ (rfl : encodeWord (.bcrd d a b) = enc 32 8388629 [(d.val, 7), (a.val, 12), (b.val, 17)]) (by have h_d := d.isLt; have h_a := a.isLt; have h_b := b.isLt; unfold Fits; omega)
theorem brel (d : Reg) (a : Reg) (b : Reg) : Statement (.brel d a b) :=
  of3 _ _ _ _ _ _ _ _ _ (rfl : encodeWord (.brel d a b) = enc 32 12582933 [(d.val, 7), (a.val, 12), (b.val, 17)]) (by have h_d := d.isLt; have h_a := a.isLt; have h_b := b.isLt; unfold Fits; omega)
theorem bstripe (d : Reg) (a : Reg) (b : Reg) : Statement (.bstripe d a b) :=
  of3 _ _ _ _ _ _ _ _ _ (rfl : encodeWord (.bstripe d a b) = enc 32 16777237 [(d.val, 7), (a.val, 12), (b.val, 17)]) (by have h_d := d.isLt; have h_a := a.isLt; have h_b := b.isLt; unfold Fits; omega)
theorem b2byte (d : Reg) (a : Reg) : Statement (.b2byte d a) :=
  of2 _ _ _ _ _ _ _ (rfl : encodeWord (.b2byte d a) = enc 32 20971541 [(d.val, 7), (a.val, 12)]) (by have h_d := d.isLt; have h_a := a.isLt; unfold Fits; omega)
theorem byte2b (d : Reg) (a : Reg) : Statement (.byte2b d a) :=
  of2 _ _ _ _ _ _ _ (rfl : encodeWord (.byte2b d a) = enc 32 25165845 [(d.val, 7), (a.val, 12)]) (by have h_d := d.isLt; have h_a := a.isLt; unfold Fits; omega)
theorem bwin (s : Fin 3) (d : Reg) (a : Reg) : Statement (.bwin s d a) :=
  of3 _ _ _ _ _ _ _ _ _ (rfl : encodeWord (.bwin s d a) = enc 32 29360149 [(s.val, 17), (d.val, 7), (a.val, 12)]) (by have h_s := s.isLt; have h_d := d.isLt; have h_a := a.isLt; unfold Fits; omega)
theorem balign (w : Width) (d : Reg) (a : Reg) : Statement (.balign w d a) :=
  of3 _ _ _ _ _ _ _ _ _ (rfl : encodeWord (.balign w d a) = enc 32 33554453 [(w.code, 26), (d.val, 7), (a.val, 12)]) (by have h_w := width_code w; have h_d := d.isLt; have h_a := a.isLt; unfold Fits; omega)
theorem bpaddi (w : Width) (d : Reg) (a : Reg) (i : BitVec 11) : Statement (.bpaddi w d a i) :=
  of4 _ _ _ _ _ _ _ _ _ _ _ (rfl : encodeWord (.bpaddi w d a i) = enc 32 23 [(w.code, 17), (d.val, 7), (a.val, 12), (i.toNat, 21)]) (by have h_w := width_code w; have h_d := d.isLt; have h_a := a.isLt; have h_i := i.isLt; unfold Fits; omega)
theorem fadd (t : Ty) (d : Reg) (a : Reg) (b : Reg) : Statement (.fadd t d a b) :=
  of4 _ _ _ _ _ _ _ _ _ _ _ (rfl : encodeWord (.fadd t d a b) = enc 32 25 [(t.code, 26), (d.val, 7), (a.val, 12), (b.val, 17)]) (by have h_t := ty_code t; have h_d := d.isLt; have h_a := a.isLt; have h_b := b.isLt; unfold Fits; omega)
theorem fsub (t : Ty) (d : Reg) (a : Reg) (b : Reg) : Statement (.fsub t d a b) :=
  of4 _ _ _ _ _ _ _ _ _ _ _ (rfl : encodeWord (.fsub t d a b) = enc 32 4194329 [(t.code, 26), (d.val, 7), (a.val, 12), (b.val, 17)]) (by have h_t := ty_code t; have h_d := d.isLt; have h_a := a.isLt; have h_b := b.isLt; unfold Fits; omega)
theorem fmul (t : Ty) (d : Reg) (a : Reg) (b : Reg) : Statement (.fmul t d a b) :=
  of4 _ _ _ _ _ _ _ _ _ _ _ (rfl : encodeWord (.fmul t d a b) = enc 32 8388633 [(t.code, 26), (d.val, 7), (a.val, 12), (b.val, 17)]) (by have h_t := ty_code t; have h_d := d.isLt; have h_a := a.isLt; have h_b := b.isLt; unfold Fits; omega)
theorem fdiv (t : Ty) (d : Reg) (a : Reg) (b : Reg) : Statement (.fdiv t d a b) :=
  of4 _ _ _ _ _ _ _ _ _ _ _ (rfl : encodeWord (.fdiv t d a b) = enc 32 12582937 [(t.code, 26), (d.val, 7), (a.val, 12), (b.val, 17)]) (by have h_t := ty_code t; have h_d := d.isLt; have h_a := a.isLt; have h_b := b.isLt; unfold Fits; omega)
theorem fsqrt (t : Ty) (d : Reg) (a : Reg) : Statement (.fsqrt t d a) :=
  of3 _ _ _ _ _ _ _ _ _ (rfl : encodeWord (.fsqrt t d a) = enc 32 16777241 [(t.code, 26), (d.val, 7), (a.val, 12)]) (by have h_t := ty_code t; have h_d := d.isLt; have h_a := a.isLt; unfold Fits; omega)
theorem fmin (t : Ty) (d : Reg) (a : Reg) (b : Reg) : Statement (.fmin t d a b) :=
  of4 _ _ _ _ _ _ _ _ _ _ _ (rfl : encodeWord (.fmin t d a b) = enc 32 20971545 [(t.code, 26), (d.val, 7), (a.val, 12), (b.val, 17)]) (by have h_t := ty_code t; have h_d := d.isLt; have h_a := a.isLt; have h_b := b.isLt; unfold Fits; omega)
theorem fmax (t : Ty) (d : Reg) (a : Reg) (b : Reg) : Statement (.fmax t d a b) :=
  of4 _ _ _ _ _ _ _ _ _ _ _ (rfl : encodeWord (.fmax t d a b) = enc 32 25165849 [(t.code, 26), (d.val, 7), (a.val, 12), (b.val, 17)]) (by have h_t := ty_code t; have h_d := d.isLt; have h_a := a.isLt; have h_b := b.isLt; unfold Fits; omega)
theorem fcmpeq (t : Ty) (d : Reg) (a : Reg) (b : Reg) : Statement (.fcmpeq t d a b) :=
  of4 _ _ _ _ _ _ _ _ _ _ _ (rfl : encodeWord (.fcmpeq t d a b) = enc 32 29360153 [(t.code, 26), (d.val, 7), (a.val, 12), (b.val, 17)]) (by have h_t := ty_code t; have h_d := d.isLt; have h_a := a.isLt; have h_b := b.isLt; unfold Fits; omega)
theorem fcmplt (t : Ty) (d : Reg) (a : Reg) (b : Reg) : Statement (.fcmplt t d a b) :=
  of4 _ _ _ _ _ _ _ _ _ _ _ (rfl : encodeWord (.fcmplt t d a b) = enc 32 33554457 [(t.code, 26), (d.val, 7), (a.val, 12), (b.val, 17)]) (by have h_t := ty_code t; have h_d := d.isLt; have h_a := a.isLt; have h_b := b.isLt; unfold Fits; omega)
theorem fcmple (t : Ty) (d : Reg) (a : Reg) (b : Reg) : Statement (.fcmple t d a b) :=
  of4 _ _ _ _ _ _ _ _ _ _ _ (rfl : encodeWord (.fcmple t d a b) = enc 32 37748761 [(t.code, 26), (d.val, 7), (a.val, 12), (b.val, 17)]) (by have h_t := ty_code t; have h_d := d.isLt; have h_a := a.isLt; have h_b := b.isLt; unfold Fits; omega)
theorem fcvt (t : Ty) (s : Ty) (d : Reg) (a : Reg) : Statement (.fcvt t s d a) :=
  of4 _ _ _ _ _ _ _ _ _ _ _ (rfl : encodeWord (.fcvt t s d a) = enc 32 41943065 [(t.code, 26), (s.code, 17), (d.val, 7), (a.val, 12)]) (by have h_t := ty_code t; have h_s := ty_code s; have h_d := d.isLt; have h_a := a.isLt; unfold Fits; omega)
theorem fclass (t : Ty) (d : Reg) (a : Reg) : Statement (.fclass t d a) :=
  of3 _ _ _ _ _ _ _ _ _ (rfl : encodeWord (.fclass t d a) = enc 32 46137369 [(t.code, 26), (d.val, 7), (a.val, 12)]) (by have h_t := ty_code t; have h_d := d.isLt; have h_a := a.isLt; unfold Fits; omega)
theorem fma (t : FmaTy) (d : Reg) (a : Reg) (b : Reg) (c : Reg) : Statement (.fma t d a b c) :=
  of5 _ _ _ _ _ _ _ _ _ _ _ _ _ (rfl : encodeWord (.fma t d a b c) = enc 32 27 [(t.code, 30), (d.val, 7), (a.val, 12), (b.val, 17), (c.val, 22)]) (by have h_t := fmaty_code t; have h_d := d.isLt; have h_a := a.isLt; have h_b := b.isLt; have h_c := c.isLt; unfold Fits; omega)
theorem brc (c : Cond) (a : Reg) (b : Reg) (o : BitVec 12) : Statement (.brc c a b o) :=
  of4 _ _ _ _ _ _ _ _ _ _ _ (rfl : encodeWord (.brc c a b o) = enc 32 33 [(c.code, 17), (a.val, 7), (b.val, 12), (o.toNat, 20)]) (by have h_c := cond_code c; have h_a := a.isLt; have h_b := b.isLt; have h_o := o.isLt; unfold Fits; omega)
theorem jal (d : Reg) (o : BitVec 20) : Statement (.jal d o) :=
  of2 _ _ _ _ _ _ _ (rfl : encodeWord (.jal d o) = enc 32 35 [(d.val, 7), (o.toNat, 12)]) (by have h_d := d.isLt; have h_o := o.isLt; unfold Fits; omega)
theorem jr (a : Reg) : Statement (.jr a) :=
  of1 _ _ _ _ _ (rfl : encodeWord (.jr a) = enc 32 37 [(a.val, 12)]) (by have h_a := a.isLt; unfold Fits; omega)
theorem jalr (d : Reg) (a : Reg) : Statement (.jalr d a) :=
  of2 _ _ _ _ _ _ _ (rfl : encodeWord (.jalr d a) = enc 32 4194341 [(d.val, 7), (a.val, 12)]) (by have h_d := d.isLt; have h_a := a.isLt; unfold Fits; omega)
theorem loop (c : Reg) (o : BitVec 14) : Statement (.loop c o) :=
  of2 _ _ _ _ _ _ _ (rfl : encodeWord (.loop c o) = enc 32 39 [(c.val, 7), (o.toNat, 17)]) (by have h_c := c.isLt; have h_o := o.isLt; unfold Fits; omega)
theorem loops (o : BitVec 14) : Statement (.loops o) :=
  of1 _ _ _ _ _ (rfl : encodeWord (.loops o) = enc 32 2147483687 [(o.toNat, 17)]) (by have h_o := o.isLt; unfold Fits; omega)
theorem ld (w : Width) (x : Bool) (d : Reg) (a : Reg) (o : BitVec 10) : Statement (.ld w x d a o) :=
  of5 _ _ _ _ _ _ _ _ _ _ _ _ _ (rfl : encodeWord (.ld w x d a o) = enc 32 41 [(w.code, 17), (x.toNat, 21), (d.val, 7), (a.val, 12), (o.toNat, 22)]) (by have h_w := width_code w; have h_x := bool_code x; have h_d := d.isLt; have h_a := a.isLt; have h_o := o.isLt; unfold Fits; omega)
theorem st (w : Width) (d : Reg) (a : Reg) (o : BitVec 10) : Statement (.st w d a o) :=
  of4 _ _ _ _ _ _ _ _ _ _ _ (rfl : encodeWord (.st w d a o) = enc 32 43 [(w.code, 17), (d.val, 7), (a.val, 12), (o.toNat, 22)]) (by have h_w := width_code w; have h_d := d.isLt; have h_a := a.isLt; have h_o := o.isLt; unfold Fits; omega)
theorem ldv (w : Width) (d : Reg) (a : Reg) (o : BitVec 9) : Statement (.ldv w d a o) :=
  of4 _ _ _ _ _ _ _ _ _ _ _ (rfl : encodeWord (.ldv w d a o) = enc 32 45 [(w.code, 17), (d.val, 7), (a.val, 12), (o.toNat, 23)]) (by have h_w := width_code w; have h_d := d.isLt; have h_a := a.isLt; have h_o := o.isLt; unfold Fits; omega)
theorem stv (w : Width) (d : Reg) (a : Reg) (o : BitVec 9) : Statement (.stv w d a o) :=
  of4 _ _ _ _ _ _ _ _ _ _ _ (rfl : encodeWord (.stv w d a o) = enc 32 2097197 [(w.code, 17), (d.val, 7), (a.val, 12), (o.toNat, 23)]) (by have h_w := width_code w; have h_d := d.isLt; have h_a := a.isLt; have h_o := o.isLt; unfold Fits; omega)
theorem ldvx (w : Width) (d : Reg) (a : Reg) (i : Reg) : Statement (.ldvx w d a i) :=
  of4 _ _ _ _ _ _ _ _ _ _ _ (rfl : encodeWord (.ldvx w d a i) = enc 32 4194349 [(w.code, 17), (d.val, 7), (a.val, 12), (i.val, 23)]) (by have h_w := width_code w; have h_d := d.isLt; have h_a := a.isLt; have h_i := i.isLt; unfold Fits; omega)
theorem stvx (w : Width) (d : Reg) (a : Reg) (i : Reg) : Statement (.stvx w d a i) :=
  of4 _ _ _ _ _ _ _ _ _ _ _ (rfl : encodeWord (.stvx w d a i) = enc 32 6291501 [(w.code, 17), (d.val, 7), (a.val, 12), (i.val, 23)]) (by have h_w := width_code w; have h_d := d.isLt; have h_a := a.isLt; have h_i := i.isLt; unfold Fits; omega)
theorem ldAcq (w : Width) (x : Bool) (s : Scope) (d : Reg) (a : Reg) (o : BitVec 6) : Statement (.ldAcq w x s d a o) :=
  of6 _ _ _ _ _ _ _ _ _ _ _ _ _ _ _ (rfl : encodeWord (.ldAcq w x s d a o) = enc 32 47 [(w.code, 17), (x.toNat, 21), (s.code, 23), (d.val, 7), (a.val, 12), (o.toNat, 26)]) (by have h_w := width_code w; have h_x := bool_code x; have h_s := scope_code s; have h_d := d.isLt; have h_a := a.isLt; have h_o := o.isLt; unfold Fits; omega)
theorem stRel (w : Width) (s : Scope) (d : Reg) (a : Reg) (o : BitVec 6) : Statement (.stRel w s d a o) :=
  of5 _ _ _ _ _ _ _ _ _ _ _ _ _ (rfl : encodeWord (.stRel w s d a o) = enc 32 4194351 [(w.code, 17), (s.code, 23), (d.val, 7), (a.val, 12), (o.toNat, 26)]) (by have h_w := width_code w; have h_s := scope_code s; have h_d := d.isLt; have h_a := a.isLt; have h_o := o.isLt; unfold Fits; omega)
theorem ldt (w : Width) (x : Bool) (t : Tag) (a : Reg) (i : Reg) : Statement (.ldt w x t a i) :=
  of5 _ _ _ _ _ _ _ _ _ _ _ _ _ (rfl : encodeWord (.ldt w x t a i) = enc 32 49 [(w.code, 23), (x.toNat, 27), (t.val, 17), (a.val, 12), (i.val, 7)]) (by have h_w := width_code w; have h_x := bool_code x; have h_t := t.isLt; have h_a := a.isLt; have h_i := i.isLt; unfold Fits; omega)
theorem ldtv (w : Width) (t : Tag) (a : Reg) (i : Reg) : Statement (.ldtv w t a i) :=
  of4 _ _ _ _ _ _ _ _ _ _ _ (rfl : encodeWord (.ldtv w t a i) = enc 32 51 [(w.code, 23), (t.val, 17), (a.val, 12), (i.val, 7)]) (by have h_w := width_code w; have h_t := t.isLt; have h_a := a.isLt; have h_i := i.isLt; unfold Fits; omega)
theorem take (d : Reg) (a : Reg) : Statement (.take d a) :=
  of2 _ _ _ _ _ _ _ (rfl : encodeWord (.take d a) = enc 32 53 [(d.val, 7), (a.val, 12)]) (by have h_d := d.isLt; have h_a := a.isLt; unfold Fits; omega)
theorem takem (d : Reg) (a : Reg) (b : Reg) : Statement (.takem d a b) :=
  of3 _ _ _ _ _ _ _ _ _ (rfl : encodeWord (.takem d a b) = enc 32 4194357 [(d.val, 7), (a.val, 12), (b.val, 17)]) (by have h_d := d.isLt; have h_a := a.isLt; have h_b := b.isLt; unfold Fits; omega)
theorem taket (d : Reg) (a : Reg) (b : Reg) : Statement (.taket d a b) :=
  of3 _ _ _ _ _ _ _ _ _ (rfl : encodeWord (.taket d a b) = enc 32 8388661 [(d.val, 7), (a.val, 12), (b.val, 17)]) (by have h_d := d.isLt; have h_a := a.isLt; have h_b := b.isLt; unfold Fits; omega)
theorem lsq (d : Reg) (a : Reg) : Statement (.lsq d a) :=
  of2 _ _ _ _ _ _ _ (rfl : encodeWord (.lsq d a) = enc 32 12582965 [(d.val, 7), (a.val, 12)]) (by have h_d := d.isLt; have h_a := a.isLt; unfold Fits; omega)
theorem lsreissue (a : Reg) : Statement (.lsreissue a) :=
  of1 _ _ _ _ _ (rfl : encodeWord (.lsreissue a) = enc 32 16777269 [(a.val, 12)]) (by have h_a := a.isLt; unfold Fits; omega)
theorem lsclr (a : Reg) : Statement (.lsclr a) :=
  of1 _ _ _ _ _ (rfl : encodeWord (.lsclr a) = enc 32 20971573 [(a.val, 12)]) (by have h_a := a.isLt; unfold Fits; omega)
theorem lswait (a : Reg) : Statement (.lswait a) :=
  of1 _ _ _ _ _ (rfl : encodeWord (.lswait a) = enc 32 25165877 [(a.val, 12)]) (by have h_a := a.isLt; unfold Fits; omega)
theorem sfuExp2 (t : Tag) (a : Reg) : Statement (.sfuExp2 t a) :=
  of2 _ _ _ _ _ _ _ (rfl : encodeWord (.sfuExp2 t a) = enc 32 58720311 [(t.val, 17), (a.val, 12)]) (by have h_t := t.isLt; have h_a := a.isLt; unfold Fits; omega)
theorem sfuLog2 (t : Tag) (a : Reg) : Statement (.sfuLog2 t a) :=
  of2 _ _ _ _ _ _ _ (rfl : encodeWord (.sfuLog2 t a) = enc 32 192938039 [(t.val, 17), (a.val, 12)]) (by have h_t := t.isLt; have h_a := a.isLt; unfold Fits; omega)
theorem sfuRcp (t : Tag) (a : Reg) : Statement (.sfuRcp t a) :=
  of2 _ _ _ _ _ _ _ (rfl : encodeWord (.sfuRcp t a) = enc 32 327155767 [(t.val, 17), (a.val, 12)]) (by have h_t := t.isLt; have h_a := a.isLt; unfold Fits; omega)
theorem sfuRsq (t : Tag) (a : Reg) : Statement (.sfuRsq t a) :=
  of2 _ _ _ _ _ _ _ (rfl : encodeWord (.sfuRsq t a) = enc 32 461373495 [(t.val, 17), (a.val, 12)]) (by have h_t := t.isLt; have h_a := a.isLt; unfold Fits; omega)
theorem sfuSin (t : Tag) (a : Reg) : Statement (.sfuSin t a) :=
  of2 _ _ _ _ _ _ _ (rfl : encodeWord (.sfuSin t a) = enc 32 595591223 [(t.val, 17), (a.val, 12)]) (by have h_t := t.isLt; have h_a := a.isLt; unfold Fits; omega)
theorem sfuCos (t : Tag) (a : Reg) : Statement (.sfuCos t a) :=
  of2 _ _ _ _ _ _ _ (rfl : encodeWord (.sfuCos t a) = enc 32 729808951 [(t.val, 17), (a.val, 12)]) (by have h_t := t.isLt; have h_a := a.isLt; unfold Fits; omega)
theorem sfuTanh (t : Tag) (a : Reg) : Statement (.sfuTanh t a) :=
  of2 _ _ _ _ _ _ _ (rfl : encodeWord (.sfuTanh t a) = enc 32 864026679 [(t.val, 17), (a.val, 12)]) (by have h_t := t.isLt; have h_a := a.isLt; unfold Fits; omega)
theorem sfuErf (t : Tag) (a : Reg) : Statement (.sfuErf t a) :=
  of2 _ _ _ _ _ _ _ (rfl : encodeWord (.sfuErf t a) = enc 32 998244407 [(t.val, 17), (a.val, 12)]) (by have h_t := t.isLt; have h_a := a.isLt; unfold Fits; omega)
theorem amoAdd (y : Bool) (w : Width) (d : Reg) (a : Reg) (b : Reg) : Statement (.amoAdd y w d a b) :=
  of5 _ _ _ _ _ _ _ _ _ _ _ _ _ (rfl : encodeWord (.amoAdd y w d a b) = enc 32 57 [(y.toNat, 31), (w.code, 27), (d.val, 7), (a.val, 12), (b.val, 17)]) (by have h_y := bool_code y; have h_w := width_code w; have h_d := d.isLt; have h_a := a.isLt; have h_b := b.isLt; unfold Fits; omega)
theorem amoAnd (y : Bool) (w : Width) (d : Reg) (a : Reg) (b : Reg) : Statement (.amoAnd y w d a b) :=
  of5 _ _ _ _ _ _ _ _ _ _ _ _ _ (rfl : encodeWord (.amoAnd y w d a b) = enc 32 4194361 [(y.toNat, 31), (w.code, 27), (d.val, 7), (a.val, 12), (b.val, 17)]) (by have h_y := bool_code y; have h_w := width_code w; have h_d := d.isLt; have h_a := a.isLt; have h_b := b.isLt; unfold Fits; omega)
theorem amoOr (y : Bool) (w : Width) (d : Reg) (a : Reg) (b : Reg) : Statement (.amoOr y w d a b) :=
  of5 _ _ _ _ _ _ _ _ _ _ _ _ _ (rfl : encodeWord (.amoOr y w d a b) = enc 32 8388665 [(y.toNat, 31), (w.code, 27), (d.val, 7), (a.val, 12), (b.val, 17)]) (by have h_y := bool_code y; have h_w := width_code w; have h_d := d.isLt; have h_a := a.isLt; have h_b := b.isLt; unfold Fits; omega)
theorem amoXor (y : Bool) (w : Width) (d : Reg) (a : Reg) (b : Reg) : Statement (.amoXor y w d a b) :=
  of5 _ _ _ _ _ _ _ _ _ _ _ _ _ (rfl : encodeWord (.amoXor y w d a b) = enc 32 12582969 [(y.toNat, 31), (w.code, 27), (d.val, 7), (a.val, 12), (b.val, 17)]) (by have h_y := bool_code y; have h_w := width_code w; have h_d := d.isLt; have h_a := a.isLt; have h_b := b.isLt; unfold Fits; omega)
theorem amoMin (y : Bool) (w : Width) (d : Reg) (a : Reg) (b : Reg) : Statement (.amoMin y w d a b) :=
  of5 _ _ _ _ _ _ _ _ _ _ _ _ _ (rfl : encodeWord (.amoMin y w d a b) = enc 32 16777273 [(y.toNat, 31), (w.code, 27), (d.val, 7), (a.val, 12), (b.val, 17)]) (by have h_y := bool_code y; have h_w := width_code w; have h_d := d.isLt; have h_a := a.isLt; have h_b := b.isLt; unfold Fits; omega)
theorem amoMax (y : Bool) (w : Width) (d : Reg) (a : Reg) (b : Reg) : Statement (.amoMax y w d a b) :=
  of5 _ _ _ _ _ _ _ _ _ _ _ _ _ (rfl : encodeWord (.amoMax y w d a b) = enc 32 20971577 [(y.toNat, 31), (w.code, 27), (d.val, 7), (a.val, 12), (b.val, 17)]) (by have h_y := bool_code y; have h_w := width_code w; have h_d := d.isLt; have h_a := a.isLt; have h_b := b.isLt; unfold Fits; omega)
theorem amoMinn (y : Bool) (w : Width) (d : Reg) (a : Reg) (b : Reg) : Statement (.amoMinn y w d a b) :=
  of5 _ _ _ _ _ _ _ _ _ _ _ _ _ (rfl : encodeWord (.amoMinn y w d a b) = enc 32 25165881 [(y.toNat, 31), (w.code, 27), (d.val, 7), (a.val, 12), (b.val, 17)]) (by have h_y := bool_code y; have h_w := width_code w; have h_d := d.isLt; have h_a := a.isLt; have h_b := b.isLt; unfold Fits; omega)
theorem amoMaxn (y : Bool) (w : Width) (d : Reg) (a : Reg) (b : Reg) : Statement (.amoMaxn y w d a b) :=
  of5 _ _ _ _ _ _ _ _ _ _ _ _ _ (rfl : encodeWord (.amoMaxn y w d a b) = enc 32 29360185 [(y.toNat, 31), (w.code, 27), (d.val, 7), (a.val, 12), (b.val, 17)]) (by have h_y := bool_code y; have h_w := width_code w; have h_d := d.isLt; have h_a := a.isLt; have h_b := b.isLt; unfold Fits; omega)
theorem amoSwap (y : Bool) (w : Width) (d : Reg) (a : Reg) (b : Reg) : Statement (.amoSwap y w d a b) :=
  of5 _ _ _ _ _ _ _ _ _ _ _ _ _ (rfl : encodeWord (.amoSwap y w d a b) = enc 32 33554489 [(y.toNat, 31), (w.code, 27), (d.val, 7), (a.val, 12), (b.val, 17)]) (by have h_y := bool_code y; have h_w := width_code w; have h_d := d.isLt; have h_a := a.isLt; have h_b := b.isLt; unfold Fits; omega)
theorem amoCas (y : Bool) (w : Width) (d : Reg) (a : Reg) (b : Reg) : Statement (.amoCas y w d a b) :=
  of5 _ _ _ _ _ _ _ _ _ _ _ _ _ (rfl : encodeWord (.amoCas y w d a b) = enc 32 37748793 [(y.toNat, 31), (w.code, 27), (d.val, 7), (a.val, 12), (b.val, 17)]) (by have h_y := bool_code y; have h_w := width_code w; have h_d := d.isLt; have h_a := a.isLt; have h_b := b.isLt; unfold Fits; omega)
theorem amoFadd (y : Bool) (d : Reg) (a : Reg) (b : Reg) : Statement (.amoFadd y d a b) :=
  of4 _ _ _ _ _ _ _ _ _ _ _ (rfl : encodeWord (.amoFadd y d a b) = enc 32 981467193 [(y.toNat, 31), (d.val, 7), (a.val, 12), (b.val, 17)]) (by have h_y := bool_code y; have h_d := d.isLt; have h_a := a.isLt; have h_b := b.isLt; unfold Fits; omega)
theorem redAdd (y : Bool) (w : Width) (a : Reg) (b : Reg) : Statement (.redAdd y w a b) :=
  of4 _ _ _ _ _ _ _ _ _ _ _ (rfl : encodeWord (.redAdd y w a b) = enc 32 46137401 [(y.toNat, 31), (w.code, 27), (a.val, 12), (b.val, 17)]) (by have h_y := bool_code y; have h_w := width_code w; have h_a := a.isLt; have h_b := b.isLt; unfold Fits; omega)
theorem redAnd (y : Bool) (w : Width) (a : Reg) (b : Reg) : Statement (.redAnd y w a b) :=
  of4 _ _ _ _ _ _ _ _ _ _ _ (rfl : encodeWord (.redAnd y w a b) = enc 32 50331705 [(y.toNat, 31), (w.code, 27), (a.val, 12), (b.val, 17)]) (by have h_y := bool_code y; have h_w := width_code w; have h_a := a.isLt; have h_b := b.isLt; unfold Fits; omega)
theorem redOr (y : Bool) (w : Width) (a : Reg) (b : Reg) : Statement (.redOr y w a b) :=
  of4 _ _ _ _ _ _ _ _ _ _ _ (rfl : encodeWord (.redOr y w a b) = enc 32 54526009 [(y.toNat, 31), (w.code, 27), (a.val, 12), (b.val, 17)]) (by have h_y := bool_code y; have h_w := width_code w; have h_a := a.isLt; have h_b := b.isLt; unfold Fits; omega)
theorem redXor (y : Bool) (w : Width) (a : Reg) (b : Reg) : Statement (.redXor y w a b) :=
  of4 _ _ _ _ _ _ _ _ _ _ _ (rfl : encodeWord (.redXor y w a b) = enc 32 58720313 [(y.toNat, 31), (w.code, 27), (a.val, 12), (b.val, 17)]) (by have h_y := bool_code y; have h_w := width_code w; have h_a := a.isLt; have h_b := b.isLt; unfold Fits; omega)
theorem redMin (y : Bool) (w : Width) (a : Reg) (b : Reg) : Statement (.redMin y w a b) :=
  of4 _ _ _ _ _ _ _ _ _ _ _ (rfl : encodeWord (.redMin y w a b) = enc 32 62914617 [(y.toNat, 31), (w.code, 27), (a.val, 12), (b.val, 17)]) (by have h_y := bool_code y; have h_w := width_code w; have h_a := a.isLt; have h_b := b.isLt; unfold Fits; omega)
theorem redMax (y : Bool) (w : Width) (a : Reg) (b : Reg) : Statement (.redMax y w a b) :=
  of4 _ _ _ _ _ _ _ _ _ _ _ (rfl : encodeWord (.redMax y w a b) = enc 32 67108921 [(y.toNat, 31), (w.code, 27), (a.val, 12), (b.val, 17)]) (by have h_y := bool_code y; have h_w := width_code w; have h_a := a.isLt; have h_b := b.isLt; unfold Fits; omega)
theorem redMinn (y : Bool) (w : Width) (a : Reg) (b : Reg) : Statement (.redMinn y w a b) :=
  of4 _ _ _ _ _ _ _ _ _ _ _ (rfl : encodeWord (.redMinn y w a b) = enc 32 71303225 [(y.toNat, 31), (w.code, 27), (a.val, 12), (b.val, 17)]) (by have h_y := bool_code y; have h_w := width_code w; have h_a := a.isLt; have h_b := b.isLt; unfold Fits; omega)
theorem redMaxn (y : Bool) (w : Width) (a : Reg) (b : Reg) : Statement (.redMaxn y w a b) :=
  of4 _ _ _ _ _ _ _ _ _ _ _ (rfl : encodeWord (.redMaxn y w a b) = enc 32 75497529 [(y.toNat, 31), (w.code, 27), (a.val, 12), (b.val, 17)]) (by have h_y := bool_code y; have h_w := width_code w; have h_a := a.isLt; have h_b := b.isLt; unfold Fits; omega)
theorem redFadd (y : Bool) (a : Reg) (b : Reg) : Statement (.redFadd y a b) :=
  of3 _ _ _ _ _ _ _ _ _ (rfl : encodeWord (.redFadd y a b) = enc 32 1019215929 [(y.toNat, 31), (a.val, 12), (b.val, 17)]) (by have h_y := bool_code y; have h_a := a.isLt; have h_b := b.isLt; unfold Fits; omega)
theorem redFmax (y : Bool) (a : Reg) (b : Reg) : Statement (.redFmax y a b) :=
  of3 _ _ _ _ _ _ _ _ _ (rfl : encodeWord (.redFmax y a b) = enc 32 1023410233 [(y.toNat, 31), (a.val, 12), (b.val, 17)]) (by have h_y := bool_code y; have h_a := a.isLt; have h_b := b.isLt; unfold Fits; omega)
theorem fence (k : FenceKind) (s : Scope) : Statement (.fence k s) :=
  of2 _ _ _ _ _ _ _ (rfl : encodeWord (.fence k s) = enc 32 59 [(k.code, 24), (s.code, 27)]) (by have h_k := fencekind_code k; have h_s := scope_code s; unfold Fits; omega)
theorem enq (s : Scope) (d : Reg) (a : Reg) (b : Reg) : Statement (.enq s d a b) :=
  of4 _ _ _ _ _ _ _ _ _ _ _ (rfl : encodeWord (.enq s d a b) = enc 32 61 [(s.code, 28), (d.val, 7), (a.val, 12), (b.val, 17)]) (by have h_s := scope_code s; have h_d := d.isLt; have h_a := a.isLt; have h_b := b.isLt; unfold Fits; omega)
theorem deq (s : Scope) (d : Reg) (a : Reg) (b : Reg) : Statement (.deq s d a b) :=
  of4 _ _ _ _ _ _ _ _ _ _ _ (rfl : encodeWord (.deq s d a b) = enc 32 4194365 [(s.code, 28), (d.val, 7), (a.val, 12), (b.val, 17)]) (by have h_s := scope_code s; have h_d := d.isLt; have h_a := a.isLt; have h_b := b.isLt; unfold Fits; omega)
theorem ringstat (s : Scope) (d : Reg) (a : Reg) : Statement (.ringstat s d a) :=
  of3 _ _ _ _ _ _ _ _ _ (rfl : encodeWord (.ringstat s d a) = enc 32 8388669 [(s.code, 28), (d.val, 7), (a.val, 12)]) (by have h_s := scope_code s; have h_d := d.isLt; have h_a := a.isLt; unfold Fits; omega)
theorem cadd (r : Bool) (s : Scope) (a : Reg) (b : Reg) : Statement (.cadd r s a b) :=
  of4 _ _ _ _ _ _ _ _ _ _ _ (rfl : encodeWord (.cadd r s a b) = enc 32 65 [(r.toNat, 27), (s.code, 28), (a.val, 12), (b.val, 17)]) (by have h_r := bool_code r; have h_s := scope_code s; have h_a := a.isLt; have h_b := b.isLt; unfold Fits; omega)
theorem cmax (r : Bool) (s : Scope) (a : Reg) (b : Reg) : Statement (.cmax r s a b) :=
  of4 _ _ _ _ _ _ _ _ _ _ _ (rfl : encodeWord (.cmax r s a b) = enc 32 4194369 [(r.toNat, 27), (s.code, 28), (a.val, 12), (b.val, 17)]) (by have h_r := bool_code r; have h_s := scope_code s; have h_a := a.isLt; have h_b := b.isLt; unfold Fits; omega)
theorem cwait (s : Scope) (d : Reg) (a : Reg) (b : Reg) : Statement (.cwait s d a b) :=
  of4 _ _ _ _ _ _ _ _ _ _ _ (rfl : encodeWord (.cwait s d a b) = enc 32 8388673 [(s.code, 28), (d.val, 7), (a.val, 12), (b.val, 17)]) (by have h_s := scope_code s; have h_d := d.isLt; have h_a := a.isLt; have h_b := b.isLt; unfold Fits; omega)
theorem cwaitt (s : Scope) (d : Reg) (a : Reg) (b : Reg) : Statement (.cwaitt s d a b) :=
  of4 _ _ _ _ _ _ _ _ _ _ _ (rfl : encodeWord (.cwaitt s d a b) = enc 32 12582977 [(s.code, 28), (d.val, 7), (a.val, 12), (b.val, 17)]) (by have h_s := scope_code s; have h_d := d.isLt; have h_a := a.isLt; have h_b := b.isLt; unfold Fits; omega)
theorem carm (s : Scope) (d : Reg) (a : Reg) (b : Reg) : Statement (.carm s d a b) :=
  of4 _ _ _ _ _ _ _ _ _ _ _ (rfl : encodeWord (.carm s d a b) = enc 32 16777281 [(s.code, 28), (d.val, 7), (a.val, 12), (b.val, 17)]) (by have h_s := scope_code s; have h_d := d.isLt; have h_a := a.isLt; have h_b := b.isLt; unfold Fits; omega)
theorem msg (s : Scope) (d : Reg) (a : Reg) (b : Reg) : Statement (.msg s d a b) :=
  of4 _ _ _ _ _ _ _ _ _ _ _ (rfl : encodeWord (.msg s d a b) = enc 32 67 [(s.code, 28), (d.val, 7), (a.val, 12), (b.val, 17)]) (by have h_s := scope_code s; have h_d := d.isLt; have h_a := a.isLt; have h_b := b.isLt; unfold Fits; omega)
theorem msgc (s : Scope) (d : Reg) (a : Reg) (b : Reg) : Statement (.msgc s d a b) :=
  of4 _ _ _ _ _ _ _ _ _ _ _ (rfl : encodeWord (.msgc s d a b) = enc 32 4194371 [(s.code, 28), (d.val, 7), (a.val, 12), (b.val, 17)]) (by have h_s := scope_code s; have h_d := d.isLt; have h_a := a.isLt; have h_b := b.isLt; unfold Fits; omega)
theorem spawn (s : Scope) (a : Reg) (b : Reg) : Statement (.spawn s a b) :=
  of3 _ _ _ _ _ _ _ _ _ (rfl : encodeWord (.spawn s a b) = enc 32 8388675 [(s.code, 28), (a.val, 12), (b.val, 17)]) (by have h_s := scope_code s; have h_a := a.isLt; have h_b := b.isLt; unfold Fits; omega)
theorem recv (s : Scope) : Statement (.recv s) :=
  of1 _ _ _ _ _ (rfl : encodeWord (.recv s) = enc 32 12582979 [(s.code, 28)]) (by have h_s := scope_code s; unfold Fits; omega)
theorem endAct (s : Scope) : Statement (.endAct s) :=
  of1 _ _ _ _ _ (rfl : encodeWord (.endAct s) = enc 32 16777283 [(s.code, 28)]) (by have h_s := scope_code s; unfold Fits; omega)
theorem yield (s : Scope) (a : Reg) : Statement (.yield s a) :=
  of2 _ _ _ _ _ _ _ (rfl : encodeWord (.yield s a) = enc 32 20971587 [(s.code, 28), (a.val, 12)]) (by have h_s := scope_code s; have h_a := a.isLt; unfold Fits; omega)
theorem rankmap (s : Scope) (d : Reg) (a : Reg) (b : Reg) : Statement (.rankmap s d a b) :=
  of4 _ _ _ _ _ _ _ _ _ _ _ (rfl : encodeWord (.rankmap s d a b) = enc 32 25165891 [(s.code, 28), (d.val, 7), (a.val, 12), (b.val, 17)]) (by have h_s := scope_code s; have h_d := d.isLt; have h_a := a.isLt; have h_b := b.isLt; unfold Fits; omega)
theorem dqpush (s : Scope) (d : Reg) (a : Reg) : Statement (.dqpush s d a) :=
  of3 _ _ _ _ _ _ _ _ _ (rfl : encodeWord (.dqpush s d a) = enc 32 69 [(s.code, 28), (d.val, 7), (a.val, 12)]) (by have h_s := scope_code s; have h_d := d.isLt; have h_a := a.isLt; unfold Fits; omega)
theorem dqpop (s : Scope) (d : Reg) (a : Reg) : Statement (.dqpop s d a) :=
  of3 _ _ _ _ _ _ _ _ _ (rfl : encodeWord (.dqpop s d a) = enc 32 4194373 [(s.code, 28), (d.val, 7), (a.val, 12)]) (by have h_s := scope_code s; have h_d := d.isLt; have h_a := a.isLt; unfold Fits; omega)
theorem dqcount (s : Scope) (d : Reg) : Statement (.dqcount s d) :=
  of2 _ _ _ _ _ _ _ (rfl : encodeWord (.dqcount s d) = enc 32 8388677 [(s.code, 28), (d.val, 7)]) (by have h_s := scope_code s; have h_d := d.isLt; unfold Fits; omega)
theorem barCfg (s : Scope) (d : Reg) (a : Reg) (b : Reg) : Statement (.barCfg s d a b) :=
  of4 _ _ _ _ _ _ _ _ _ _ _ (rfl : encodeWord (.barCfg s d a b) = enc 32 71 [(s.code, 28), (d.val, 7), (a.val, 12), (b.val, 17)]) (by have h_s := scope_code s; have h_d := d.isLt; have h_a := a.isLt; have h_b := b.isLt; unfold Fits; omega)
theorem barArr (s : Scope) (d : Reg) (b : Reg) : Statement (.barArr s d b) :=
  of3 _ _ _ _ _ _ _ _ _ (rfl : encodeWord (.barArr s d b) = enc 32 4194375 [(s.code, 28), (d.val, 7), (b.val, 17)]) (by have h_s := scope_code s; have h_d := d.isLt; have h_b := b.isLt; unfold Fits; omega)
theorem barWait (s : Scope) (d : Reg) (a : Reg) (b : Reg) : Statement (.barWait s d a b) :=
  of4 _ _ _ _ _ _ _ _ _ _ _ (rfl : encodeWord (.barWait s d a b) = enc 32 8388679 [(s.code, 28), (d.val, 7), (a.val, 12), (b.val, 17)]) (by have h_s := scope_code s; have h_d := d.isLt; have h_a := a.isLt; have h_b := b.isLt; unfold Fits; omega)
theorem barStat (s : Scope) (d : Reg) (a : Reg) (b : Reg) : Statement (.barStat s d a b) :=
  of4 _ _ _ _ _ _ _ _ _ _ _ (rfl : encodeWord (.barStat s d a b) = enc 32 12582983 [(s.code, 28), (d.val, 7), (a.val, 12), (b.val, 17)]) (by have h_s := scope_code s; have h_d := d.isLt; have h_a := a.isLt; have h_b := b.isLt; unfold Fits; omega)
theorem capnew (s : Scope) (d : Reg) (a : Reg) (b : Reg) : Statement (.capnew s d a b) :=
  of4 _ _ _ _ _ _ _ _ _ _ _ (rfl : encodeWord (.capnew s d a b) = enc 32 73 [(s.code, 28), (d.val, 7), (a.val, 12), (b.val, 17)]) (by have h_s := scope_code s; have h_d := d.isLt; have h_a := a.isLt; have h_b := b.isLt; unfold Fits; omega)
theorem capfwd (s : Scope) (d : Reg) (a : Reg) : Statement (.capfwd s d a) :=
  of3 _ _ _ _ _ _ _ _ _ (rfl : encodeWord (.capfwd s d a) = enc 32 4194377 [(s.code, 28), (d.val, 7), (a.val, 12)]) (by have h_s := scope_code s; have h_d := d.isLt; have h_a := a.isLt; unfold Fits; omega)
theorem capend (s : Scope) (a : Reg) : Statement (.capend s a) :=
  of2 _ _ _ _ _ _ _ (rfl : encodeWord (.capend s a) = enc 32 8388681 [(s.code, 28), (a.val, 12)]) (by have h_s := scope_code s; have h_a := a.isLt; unfold Fits; omega)
theorem caprd (s : Scope) (d : Reg) (a : Reg) (b : Reg) : Statement (.caprd s d a b) :=
  of4 _ _ _ _ _ _ _ _ _ _ _ (rfl : encodeWord (.caprd s d a b) = enc 32 12582985 [(s.code, 28), (d.val, 7), (a.val, 12), (b.val, 17)]) (by have h_s := scope_code s; have h_d := d.isLt; have h_a := a.isLt; have h_b := b.isLt; unfold Fits; omega)
theorem capins (s : Scope) (d : Reg) (a : Reg) (b : Reg) : Statement (.capins s d a b) :=
  of4 _ _ _ _ _ _ _ _ _ _ _ (rfl : encodeWord (.capins s d a b) = enc 32 75 [(s.code, 28), (d.val, 7), (a.val, 12), (b.val, 17)]) (by have h_s := scope_code s; have h_d := d.isLt; have h_a := a.isLt; have h_b := b.isLt; unfold Fits; omega)
theorem capdel (s : Scope) (d : Reg) (a : Reg) : Statement (.capdel s d a) :=
  of3 _ _ _ _ _ _ _ _ _ (rfl : encodeWord (.capdel s d a) = enc 32 4194379 [(s.code, 28), (d.val, 7), (a.val, 12)]) (by have h_s := scope_code s; have h_d := d.isLt; have h_a := a.isLt; unfold Fits; omega)
theorem capset (s : Scope) (d : Reg) (a : Reg) (b : Reg) : Statement (.capset s d a b) :=
  of4 _ _ _ _ _ _ _ _ _ _ _ (rfl : encodeWord (.capset s d a b) = enc 32 8388683 [(s.code, 28), (d.val, 7), (a.val, 12), (b.val, 17)]) (by have h_s := scope_code s; have h_d := d.isLt; have h_a := a.isLt; have h_b := b.isLt; unfold Fits; omega)
theorem vadd (t : LTy) (m : MSel) (d : Reg) (a : Reg) (b : Reg) : Statement (.vadd t m d a b) :=
  of5 _ _ _ _ _ _ _ _ _ _ _ _ _ (rfl : encodeWord (.vadd t m d a b) = enc 32 77 [(t.code, 26), (m.code, 30), (d.val, 7), (a.val, 12), (b.val, 17)]) (by have h_t := lty_code t; have h_m := msel_code m; have h_d := d.isLt; have h_a := a.isLt; have h_b := b.isLt; unfold Fits; omega)
theorem vsub (t : LTy) (m : MSel) (d : Reg) (a : Reg) (b : Reg) : Statement (.vsub t m d a b) :=
  of5 _ _ _ _ _ _ _ _ _ _ _ _ _ (rfl : encodeWord (.vsub t m d a b) = enc 32 4194381 [(t.code, 26), (m.code, 30), (d.val, 7), (a.val, 12), (b.val, 17)]) (by have h_t := lty_code t; have h_m := msel_code m; have h_d := d.isLt; have h_a := a.isLt; have h_b := b.isLt; unfold Fits; omega)
theorem vmul (t : LTy) (m : MSel) (d : Reg) (a : Reg) (b : Reg) : Statement (.vmul t m d a b) :=
  of5 _ _ _ _ _ _ _ _ _ _ _ _ _ (rfl : encodeWord (.vmul t m d a b) = enc 32 8388685 [(t.code, 26), (m.code, 30), (d.val, 7), (a.val, 12), (b.val, 17)]) (by have h_t := lty_code t; have h_m := msel_code m; have h_d := d.isLt; have h_a := a.isLt; have h_b := b.isLt; unfold Fits; omega)
theorem vmin (t : LTy) (m : MSel) (d : Reg) (a : Reg) (b : Reg) : Statement (.vmin t m d a b) :=
  of5 _ _ _ _ _ _ _ _ _ _ _ _ _ (rfl : encodeWord (.vmin t m d a b) = enc 32 12582989 [(t.code, 26), (m.code, 30), (d.val, 7), (a.val, 12), (b.val, 17)]) (by have h_t := lty_code t; have h_m := msel_code m; have h_d := d.isLt; have h_a := a.isLt; have h_b := b.isLt; unfold Fits; omega)
theorem vmax (t : LTy) (m : MSel) (d : Reg) (a : Reg) (b : Reg) : Statement (.vmax t m d a b) :=
  of5 _ _ _ _ _ _ _ _ _ _ _ _ _ (rfl : encodeWord (.vmax t m d a b) = enc 32 16777293 [(t.code, 26), (m.code, 30), (d.val, 7), (a.val, 12), (b.val, 17)]) (by have h_t := lty_code t; have h_m := msel_code m; have h_d := d.isLt; have h_a := a.isLt; have h_b := b.isLt; unfold Fits; omega)
theorem vabs (t : LTy) (m : MSel) (d : Reg) (a : Reg) : Statement (.vabs t m d a) :=
  of4 _ _ _ _ _ _ _ _ _ _ _ (rfl : encodeWord (.vabs t m d a) = enc 32 20971597 [(t.code, 26), (m.code, 30), (d.val, 7), (a.val, 12)]) (by have h_t := lty_code t; have h_m := msel_code m; have h_d := d.isLt; have h_a := a.isLt; unfold Fits; omega)
theorem vneg (t : LTy) (m : MSel) (d : Reg) (a : Reg) : Statement (.vneg t m d a) :=
  of4 _ _ _ _ _ _ _ _ _ _ _ (rfl : encodeWord (.vneg t m d a) = enc 32 25165901 [(t.code, 26), (m.code, 30), (d.val, 7), (a.val, 12)]) (by have h_t := lty_code t; have h_m := msel_code m; have h_d := d.isLt; have h_a := a.isLt; unfold Fits; omega)
theorem vcmp (t : LTy) (c : VCond) (d : MReg) (a : Reg) (b : Reg) : Statement (.vcmp t c d a b) :=
  of5 _ _ _ _ _ _ _ _ _ _ _ _ _ (rfl : encodeWord (.vcmp t c d a b) = enc 32 29360205 [(t.code, 26), (c.code, 30), (d.val, 7), (a.val, 12), (b.val, 17)]) (by have h_t := lty_code t; have h_c := vcond_code c; have h_d := d.isLt; have h_a := a.isLt; have h_b := b.isLt; unfold Fits; omega)
theorem vsel (t : LTy) (m : MSel) (d : Reg) (a : Reg) (b : Reg) : Statement (.vsel t m d a b) :=
  of5 _ _ _ _ _ _ _ _ _ _ _ _ _ (rfl : encodeWord (.vsel t m d a b) = enc 32 33554509 [(t.code, 26), (m.code, 30), (d.val, 7), (a.val, 12), (b.val, 17)]) (by have h_t := lty_code t; have h_m := msel_code m; have h_d := d.isLt; have h_a := a.isLt; have h_b := b.isLt; unfold Fits; omega)
theorem vand (t : LTy) (m : MSel) (d : Reg) (a : Reg) (b : Reg) : Statement (.vand t m d a b) :=
  of5 _ _ _ _ _ _ _ _ _ _ _ _ _ (rfl : encodeWord (.vand t m d a b) = enc 32 37748813 [(t.code, 26), (m.code, 30), (d.val, 7), (a.val, 12), (b.val, 17)]) (by have h_t := lty_code t; have h_m := msel_code m; have h_d := d.isLt; have h_a := a.isLt; have h_b := b.isLt; unfold Fits; omega)
theorem vor (t : LTy) (m : MSel) (d : Reg) (a : Reg) (b : Reg) : Statement (.vor t m d a b) :=
  of5 _ _ _ _ _ _ _ _ _ _ _ _ _ (rfl : encodeWord (.vor t m d a b) = enc 32 41943117 [(t.code, 26), (m.code, 30), (d.val, 7), (a.val, 12), (b.val, 17)]) (by have h_t := lty_code t; have h_m := msel_code m; have h_d := d.isLt; have h_a := a.isLt; have h_b := b.isLt; unfold Fits; omega)
theorem vxor (t : LTy) (m : MSel) (d : Reg) (a : Reg) (b : Reg) : Statement (.vxor t m d a b) :=
  of5 _ _ _ _ _ _ _ _ _ _ _ _ _ (rfl : encodeWord (.vxor t m d a b) = enc 32 46137421 [(t.code, 26), (m.code, 30), (d.val, 7), (a.val, 12), (b.val, 17)]) (by have h_t := lty_code t; have h_m := msel_code m; have h_d := d.isLt; have h_a := a.isLt; have h_b := b.isLt; unfold Fits; omega)
theorem vshl (t : LTy) (m : MSel) (d : Reg) (a : Reg) (b : Reg) : Statement (.vshl t m d a b) :=
  of5 _ _ _ _ _ _ _ _ _ _ _ _ _ (rfl : encodeWord (.vshl t m d a b) = enc 32 50331725 [(t.code, 26), (m.code, 30), (d.val, 7), (a.val, 12), (b.val, 17)]) (by have h_t := lty_code t; have h_m := msel_code m; have h_d := d.isLt; have h_a := a.isLt; have h_b := b.isLt; unfold Fits; omega)
theorem vshr (t : LTy) (m : MSel) (d : Reg) (a : Reg) (b : Reg) : Statement (.vshr t m d a b) :=
  of5 _ _ _ _ _ _ _ _ _ _ _ _ _ (rfl : encodeWord (.vshr t m d a b) = enc 32 54526029 [(t.code, 26), (m.code, 30), (d.val, 7), (a.val, 12), (b.val, 17)]) (by have h_t := lty_code t; have h_m := msel_code m; have h_d := d.isLt; have h_a := a.isLt; have h_b := b.isLt; unfold Fits; omega)
theorem vsra (t : LTy) (m : MSel) (d : Reg) (a : Reg) (b : Reg) : Statement (.vsra t m d a b) :=
  of5 _ _ _ _ _ _ _ _ _ _ _ _ _ (rfl : encodeWord (.vsra t m d a b) = enc 32 58720333 [(t.code, 26), (m.code, 30), (d.val, 7), (a.val, 12), (b.val, 17)]) (by have h_t := lty_code t; have h_m := msel_code m; have h_d := d.isLt; have h_a := a.isLt; have h_b := b.isLt; unfold Fits; omega)
theorem vaddF32Q (m : Bool) (d : Reg) (b : Reg) : Statement (.vaddF32Q m d b) :=
  of3 _ _ _ _ _ _ _ _ _ (rfl : encodeWord (.vaddF32Q m d b) = enc 16 0 [(m.toNat, 15), (d.val, 5), (b.val, 10)]) (by have h_m := bool_code m; have h_d := d.isLt; have h_b := b.isLt; unfold Fits; omega)
theorem vsubF32Q (m : Bool) (d : Reg) (b : Reg) : Statement (.vsubF32Q m d b) :=
  of3 _ _ _ _ _ _ _ _ _ (rfl : encodeWord (.vsubF32Q m d b) = enc 16 2 [(m.toNat, 15), (d.val, 5), (b.val, 10)]) (by have h_m := bool_code m; have h_d := d.isLt; have h_b := b.isLt; unfold Fits; omega)
theorem vmulF32Q (m : Bool) (d : Reg) (b : Reg) : Statement (.vmulF32Q m d b) :=
  of3 _ _ _ _ _ _ _ _ _ (rfl : encodeWord (.vmulF32Q m d b) = enc 16 4 [(m.toNat, 15), (d.val, 5), (b.val, 10)]) (by have h_m := bool_code m; have h_d := d.isLt; have h_b := b.isLt; unfold Fits; omega)
theorem vmaxF32Q (m : Bool) (d : Reg) (b : Reg) : Statement (.vmaxF32Q m d b) :=
  of3 _ _ _ _ _ _ _ _ _ (rfl : encodeWord (.vmaxF32Q m d b) = enc 16 6 [(m.toNat, 15), (d.val, 5), (b.val, 10)]) (by have h_m := bool_code m; have h_d := d.isLt; have h_b := b.isLt; unfold Fits; omega)
theorem vminF32Q (m : Bool) (d : Reg) (b : Reg) : Statement (.vminF32Q m d b) :=
  of3 _ _ _ _ _ _ _ _ _ (rfl : encodeWord (.vminF32Q m d b) = enc 16 8 [(m.toNat, 15), (d.val, 5), (b.val, 10)]) (by have h_m := bool_code m; have h_d := d.isLt; have h_b := b.isLt; unfold Fits; omega)
theorem vaddI32Q (m : Bool) (d : Reg) (b : Reg) : Statement (.vaddI32Q m d b) :=
  of3 _ _ _ _ _ _ _ _ _ (rfl : encodeWord (.vaddI32Q m d b) = enc 16 10 [(m.toNat, 15), (d.val, 5), (b.val, 10)]) (by have h_m := bool_code m; have h_d := d.isLt; have h_b := b.isLt; unfold Fits; omega)
theorem vsubI32Q (m : Bool) (d : Reg) (b : Reg) : Statement (.vsubI32Q m d b) :=
  of3 _ _ _ _ _ _ _ _ _ (rfl : encodeWord (.vsubI32Q m d b) = enc 16 12 [(m.toNat, 15), (d.val, 5), (b.val, 10)]) (by have h_m := bool_code m; have h_d := d.isLt; have h_b := b.isLt; unfold Fits; omega)
theorem vmulI32Q (m : Bool) (d : Reg) (b : Reg) : Statement (.vmulI32Q m d b) :=
  of3 _ _ _ _ _ _ _ _ _ (rfl : encodeWord (.vmulI32Q m d b) = enc 16 14 [(m.toNat, 15), (d.val, 5), (b.val, 10)]) (by have h_m := bool_code m; have h_d := d.isLt; have h_b := b.isLt; unfold Fits; omega)
theorem vandB32Q (m : Bool) (d : Reg) (b : Reg) : Statement (.vandB32Q m d b) :=
  of3 _ _ _ _ _ _ _ _ _ (rfl : encodeWord (.vandB32Q m d b) = enc 16 16 [(m.toNat, 15), (d.val, 5), (b.val, 10)]) (by have h_m := bool_code m; have h_d := d.isLt; have h_b := b.isLt; unfold Fits; omega)
theorem vorB32Q (m : Bool) (d : Reg) (b : Reg) : Statement (.vorB32Q m d b) :=
  of3 _ _ _ _ _ _ _ _ _ (rfl : encodeWord (.vorB32Q m d b) = enc 16 18 [(m.toNat, 15), (d.val, 5), (b.val, 10)]) (by have h_m := bool_code m; have h_d := d.isLt; have h_b := b.isLt; unfold Fits; omega)
theorem vxorB32Q (m : Bool) (d : Reg) (b : Reg) : Statement (.vxorB32Q m d b) :=
  of3 _ _ _ _ _ _ _ _ _ (rfl : encodeWord (.vxorB32Q m d b) = enc 16 20 [(m.toNat, 15), (d.val, 5), (b.val, 10)]) (by have h_m := bool_code m; have h_d := d.isLt; have h_b := b.isLt; unfold Fits; omega)
theorem vshlI32Q (m : Bool) (d : Reg) (b : Reg) : Statement (.vshlI32Q m d b) :=
  of3 _ _ _ _ _ _ _ _ _ (rfl : encodeWord (.vshlI32Q m d b) = enc 16 22 [(m.toNat, 15), (d.val, 5), (b.val, 10)]) (by have h_m := bool_code m; have h_d := d.isLt; have h_b := b.isLt; unfold Fits; omega)
theorem vsraI32Q (m : Bool) (d : Reg) (b : Reg) : Statement (.vsraI32Q m d b) :=
  of3 _ _ _ _ _ _ _ _ _ (rfl : encodeWord (.vsraI32Q m d b) = enc 16 24 [(m.toNat, 15), (d.val, 5), (b.val, 10)]) (by have h_m := bool_code m; have h_d := d.isLt; have h_b := b.isLt; unfold Fits; omega)
theorem vmovQ (m : Bool) (d : Reg) (b : Reg) : Statement (.vmovQ m d b) :=
  of3 _ _ _ _ _ _ _ _ _ (rfl : encodeWord (.vmovQ m d b) = enc 16 26 [(m.toNat, 15), (d.val, 5), (b.val, 10)]) (by have h_m := bool_code m; have h_d := d.isLt; have h_b := b.isLt; unfold Fits; omega)
theorem vnegF32Q (m : Bool) (d : Reg) (b : Reg) : Statement (.vnegF32Q m d b) :=
  of3 _ _ _ _ _ _ _ _ _ (rfl : encodeWord (.vnegF32Q m d b) = enc 16 28 [(m.toNat, 15), (d.val, 5), (b.val, 10)]) (by have h_m := bool_code m; have h_d := d.isLt; have h_b := b.isLt; unfold Fits; omega)
theorem vabsF32Q (m : Bool) (d : Reg) (b : Reg) : Statement (.vabsF32Q m d b) :=
  of3 _ _ _ _ _ _ _ _ _ (rfl : encodeWord (.vabsF32Q m d b) = enc 16 30 [(m.toNat, 15), (d.val, 5), (b.val, 10)]) (by have h_m := bool_code m; have h_d := d.isLt; have h_b := b.isLt; unfold Fits; omega)
theorem vfma (t : VfmaTy) (m : Bool) (d : Reg) (a : Reg) (b : Reg) (c : Reg) : Statement (.vfma t m d a b c) :=
  of6 _ _ _ _ _ _ _ _ _ _ _ _ _ _ _ (rfl : encodeWord (.vfma t m d a b c) = enc 32 79 [(t.code, 29), (m.toNat, 31), (d.val, 7), (a.val, 12), (b.val, 17), (c.val, 22)]) (by have h_t := vfmaty_code t; have h_m := bool_code m; have h_d := d.isLt; have h_a := a.isLt; have h_b := b.isLt; have h_c := c.isLt; unfold Fits; omega)
theorem vfms (t : VfmaTy) (m : Bool) (d : Reg) (a : Reg) (b : Reg) (c : Reg) : Statement (.vfms t m d a b c) :=
  of6 _ _ _ _ _ _ _ _ _ _ _ _ _ _ _ (rfl : encodeWord (.vfms t m d a b c) = enc 32 134217807 [(t.code, 29), (m.toNat, 31), (d.val, 7), (a.val, 12), (b.val, 17), (c.val, 22)]) (by have h_t := vfmaty_code t; have h_m := bool_code m; have h_d := d.isLt; have h_a := a.isLt; have h_b := b.isLt; have h_c := c.isLt; unfold Fits; omega)
theorem vfnma (t : VfmaTy) (m : Bool) (d : Reg) (a : Reg) (b : Reg) (c : Reg) : Statement (.vfnma t m d a b c) :=
  of6 _ _ _ _ _ _ _ _ _ _ _ _ _ _ _ (rfl : encodeWord (.vfnma t m d a b c) = enc 32 268435535 [(t.code, 29), (m.toNat, 31), (d.val, 7), (a.val, 12), (b.val, 17), (c.val, 22)]) (by have h_t := vfmaty_code t; have h_m := bool_code m; have h_d := d.isLt; have h_a := a.isLt; have h_b := b.isLt; have h_c := c.isLt; unfold Fits; omega)
theorem vcvt (t : Ty) (s : Ty) (m : MSel) (d : Reg) (a : Reg) : Statement (.vcvt t s m d a) :=
  of5 _ _ _ _ _ _ _ _ _ _ _ _ _ (rfl : encodeWord (.vcvt t s m d a) = enc 32 81 [(t.code, 25), (s.code, 17), (m.code, 30), (d.val, 7), (a.val, 12)]) (by have h_t := ty_code t; have h_s := ty_code s; have h_m := msel_code m; have h_d := d.isLt; have h_a := a.isLt; unfold Fits; omega)
theorem vpack (t : Ty) (m : MSel) (d : Reg) (a : Reg) (b : Reg) : Statement (.vpack t m d a b) :=
  of5 _ _ _ _ _ _ _ _ _ _ _ _ _ (rfl : encodeWord (.vpack t m d a b) = enc 32 4194385 [(t.code, 25), (m.code, 30), (d.val, 7), (a.val, 12), (b.val, 17)]) (by have h_t := ty_code t; have h_m := msel_code m; have h_d := d.isLt; have h_a := a.isLt; have h_b := b.isLt; unfold Fits; omega)
theorem vunpack (t : Ty) (m : MSel) (d : Reg) (a : Reg) (b : Reg) : Statement (.vunpack t m d a b) :=
  of5 _ _ _ _ _ _ _ _ _ _ _ _ _ (rfl : encodeWord (.vunpack t m d a b) = enc 32 8388689 [(t.code, 25), (m.code, 30), (d.val, 7), (a.val, 12), (b.val, 17)]) (by have h_t := ty_code t; have h_m := msel_code m; have h_d := d.isLt; have h_a := a.isLt; have h_b := b.isLt; unfold Fits; omega)
theorem vquant (t : Ty) (m : MSel) (d : Reg) (a : Reg) (b : Reg) : Statement (.vquant t m d a b) :=
  of5 _ _ _ _ _ _ _ _ _ _ _ _ _ (rfl : encodeWord (.vquant t m d a b) = enc 32 12582993 [(t.code, 25), (m.code, 30), (d.val, 7), (a.val, 12), (b.val, 17)]) (by have h_t := ty_code t; have h_m := msel_code m; have h_d := d.isLt; have h_a := a.isLt; have h_b := b.isLt; unfold Fits; omega)
theorem vdeq (t : Ty) (m : MSel) (d : Reg) (a : Reg) (b : Reg) : Statement (.vdeq t m d a b) :=
  of5 _ _ _ _ _ _ _ _ _ _ _ _ _ (rfl : encodeWord (.vdeq t m d a b) = enc 32 16777297 [(t.code, 25), (m.code, 30), (d.val, 7), (a.val, 12), (b.val, 17)]) (by have h_t := ty_code t; have h_m := msel_code m; have h_d := d.isLt; have h_a := a.isLt; have h_b := b.isLt; unfold Fits; omega)
theorem vperm (t : LTy) (d : Reg) (a : Reg) (b : Reg) : Statement (.vperm t d a b) :=
  of4 _ _ _ _ _ _ _ _ _ _ _ (rfl : encodeWord (.vperm t d a b) = enc 32 83 [(t.code, 25), (d.val, 7), (a.val, 12), (b.val, 17)]) (by have h_t := lty_code t; have h_d := d.isLt; have h_a := a.isLt; have h_b := b.isLt; unfold Fits; omega)
theorem vbcast (t : LTy) (d : Reg) (a : Reg) : Statement (.vbcast t d a) :=
  of3 _ _ _ _ _ _ _ _ _ (rfl : encodeWord (.vbcast t d a) = enc 32 4194387 [(t.code, 25), (d.val, 7), (a.val, 12)]) (by have h_t := lty_code t; have h_d := d.isLt; have h_a := a.isLt; unfold Fits; omega)
theorem vext (t : LTy) (d : Reg) (a : Reg) (b : Reg) : Statement (.vext t d a b) :=
  of4 _ _ _ _ _ _ _ _ _ _ _ (rfl : encodeWord (.vext t d a b) = enc 32 8388691 [(t.code, 25), (d.val, 7), (a.val, 12), (b.val, 17)]) (by have h_t := lty_code t; have h_d := d.isLt; have h_a := a.isLt; have h_b := b.isLt; unfold Fits; omega)
theorem vins (t : LTy) (d : Reg) (a : Reg) (b : Reg) : Statement (.vins t d a b) :=
  of4 _ _ _ _ _ _ _ _ _ _ _ (rfl : encodeWord (.vins t d a b) = enc 32 12582995 [(t.code, 25), (d.val, 7), (a.val, 12), (b.val, 17)]) (by have h_t := lty_code t; have h_d := d.isLt; have h_a := a.isLt; have h_b := b.isLt; unfold Fits; omega)
theorem vslide (t : LTy) (d : Reg) (a : Reg) (b : Reg) : Statement (.vslide t d a b) :=
  of4 _ _ _ _ _ _ _ _ _ _ _ (rfl : encodeWord (.vslide t d a b) = enc 32 16777299 [(t.code, 25), (d.val, 7), (a.val, 12), (b.val, 17)]) (by have h_t := lty_code t; have h_d := d.isLt; have h_a := a.isLt; have h_b := b.isLt; unfold Fits; omega)
theorem vshuf (t : LTy) (d : Reg) (a : Reg) (b : Reg) : Statement (.vshuf t d a b) :=
  of4 _ _ _ _ _ _ _ _ _ _ _ (rfl : encodeWord (.vshuf t d a b) = enc 32 20971603 [(t.code, 25), (d.val, 7), (a.val, 12), (b.val, 17)]) (by have h_t := lty_code t; have h_d := d.isLt; have h_a := a.isLt; have h_b := b.isLt; unfold Fits; omega)
theorem vredadd (t : LTy) (m : MSel) (d : Reg) (a : Reg) : Statement (.vredadd t m d a) :=
  of4 _ _ _ _ _ _ _ _ _ _ _ (rfl : encodeWord (.vredadd t m d a) = enc 32 85 [(t.code, 24), (m.code, 28), (d.val, 7), (a.val, 12)]) (by have h_t := lty_code t; have h_m := msel_code m; have h_d := d.isLt; have h_a := a.isLt; unfold Fits; omega)
theorem vredmax (t : LTy) (m : MSel) (d : Reg) (a : Reg) : Statement (.vredmax t m d a) :=
  of4 _ _ _ _ _ _ _ _ _ _ _ (rfl : encodeWord (.vredmax t m d a) = enc 32 4194389 [(t.code, 24), (m.code, 28), (d.val, 7), (a.val, 12)]) (by have h_t := lty_code t; have h_m := msel_code m; have h_d := d.isLt; have h_a := a.isLt; unfold Fits; omega)
theorem vredmin (t : LTy) (m : MSel) (d : Reg) (a : Reg) : Statement (.vredmin t m d a) :=
  of4 _ _ _ _ _ _ _ _ _ _ _ (rfl : encodeWord (.vredmin t m d a) = enc 32 8388693 [(t.code, 24), (m.code, 28), (d.val, 7), (a.val, 12)]) (by have h_t := lty_code t; have h_m := msel_code m; have h_d := d.isLt; have h_a := a.isLt; unfold Fits; omega)
theorem vscan (t : LTy) (m : MSel) (d : Reg) (a : Reg) : Statement (.vscan t m d a) :=
  of4 _ _ _ _ _ _ _ _ _ _ _ (rfl : encodeWord (.vscan t m d a) = enc 32 12582997 [(t.code, 24), (m.code, 28), (d.val, 7), (a.val, 12)]) (by have h_t := lty_code t; have h_m := msel_code m; have h_d := d.isLt; have h_a := a.isLt; unfold Fits; omega)
theorem mand (d : MReg) (a : MReg) (b : MReg) : Statement (.mand d a b) :=
  of3 _ _ _ _ _ _ _ _ _ (rfl : encodeWord (.mand d a b) = enc 32 87 [(d.val, 7), (a.val, 12), (b.val, 17)]) (by have h_d := d.isLt; have h_a := a.isLt; have h_b := b.isLt; unfold Fits; omega)
theorem mor (d : MReg) (a : MReg) (b : MReg) : Statement (.mor d a b) :=
  of3 _ _ _ _ _ _ _ _ _ (rfl : encodeWord (.mor d a b) = enc 32 4194391 [(d.val, 7), (a.val, 12), (b.val, 17)]) (by have h_d := d.isLt; have h_a := a.isLt; have h_b := b.isLt; unfold Fits; omega)
theorem mnot (d : MReg) (a : MReg) : Statement (.mnot d a) :=
  of2 _ _ _ _ _ _ _ (rfl : encodeWord (.mnot d a) = enc 32 8388695 [(d.val, 7), (a.val, 12)]) (by have h_d := d.isLt; have h_a := a.isLt; unfold Fits; omega)
theorem mpopc (d : Reg) (a : MReg) : Statement (.mpopc d a) :=
  of2 _ _ _ _ _ _ _ (rfl : encodeWord (.mpopc d a) = enc 32 12582999 [(d.val, 7), (a.val, 12)]) (by have h_d := d.isLt; have h_a := a.isLt; unfold Fits; omega)
theorem mfirst (d : Reg) (a : MReg) : Statement (.mfirst d a) :=
  of2 _ _ _ _ _ _ _ (rfl : encodeWord (.mfirst d a) = enc 32 16777303 [(d.val, 7), (a.val, 12)]) (by have h_d := d.isLt; have h_a := a.isLt; unfold Fits; omega)
theorem mset (d : MReg) (a : Reg) : Statement (.mset d a) :=
  of2 _ _ _ _ _ _ _ (rfl : encodeWord (.mset d a) = enc 32 20971607 [(d.val, 7), (a.val, 12)]) (by have h_d := d.isLt; have h_a := a.isLt; unfold Fits; omega)
theorem vaddi (t : LTy) (d : Reg) (a : Reg) (i : BitVec 9) : Statement (.vaddi t d a i) :=
  of4 _ _ _ _ _ _ _ _ _ _ _ (rfl : encodeWord (.vaddi t d a i) = enc 32 89 [(t.code, 26), (d.val, 7), (a.val, 12), (i.toNat, 17)]) (by have h_t := lty_code t; have h_d := d.isLt; have h_a := a.isLt; have h_i := i.isLt; unfold Fits; omega)
theorem vshli (t : LTy) (d : Reg) (a : Reg) (i : BitVec 9) : Statement (.vshli t d a i) :=
  of4 _ _ _ _ _ _ _ _ _ _ _ (rfl : encodeWord (.vshli t d a i) = enc 32 1073741913 [(t.code, 26), (d.val, 7), (a.val, 12), (i.toNat, 17)]) (by have h_t := lty_code t; have h_d := d.isLt; have h_a := a.isLt; have h_i := i.isLt; unfold Fits; omega)
theorem vmovi (t : LTy) (d : Reg) (i : BitVec 9) : Statement (.vmovi t d i) :=
  of3 _ _ _ _ _ _ _ _ _ (rfl : encodeWord (.vmovi t d i) = enc 32 2147483737 [(t.code, 26), (d.val, 7), (i.toNat, 17)]) (by have h_t := lty_code t; have h_d := d.isLt; have h_i := i.isLt; unfold Fits; omega)
theorem strmCfg (s : Scope) (d : Reg) (a : Reg) : Statement (.strmCfg s d a) :=
  of3 _ _ _ _ _ _ _ _ _ (rfl : encodeWord (.strmCfg s d a) = enc 32 93 [(s.code, 28), (d.val, 7), (a.val, 12)]) (by have h_s := scope_code s; have h_d := d.isLt; have h_a := a.isLt; unfold Fits; omega)
theorem strmEnd (s : Scope) (d : Reg) : Statement (.strmEnd s d) :=
  of2 _ _ _ _ _ _ _ (rfl : encodeWord (.strmEnd s d) = enc 32 4194397 [(s.code, 28), (d.val, 7)]) (by have h_s := scope_code s; have h_d := d.isLt; unfold Fits; omega)
theorem strmPos (s : Scope) (d : Reg) (a : Reg) : Statement (.strmPos s d a) :=
  of3 _ _ _ _ _ _ _ _ _ (rfl : encodeWord (.strmPos s d a) = enc 32 8388701 [(s.code, 28), (d.val, 7), (a.val, 12)]) (by have h_s := scope_code s; have h_d := d.isLt; have h_a := a.isLt; unfold Fits; omega)
theorem opclaim (s : Scope) (d : Reg) (a : Reg) : Statement (.opclaim s d a) :=
  of3 _ _ _ _ _ _ _ _ _ (rfl : encodeWord (.opclaim s d a) = enc 32 97 [(s.code, 28), (d.val, 7), (a.val, 12)]) (by have h_s := scope_code s; have h_d := d.isLt; have h_a := a.isLt; unfold Fits; omega)
theorem oprel (s : Scope) (a : Reg) : Statement (.oprel s a) :=
  of2 _ _ _ _ _ _ _ (rfl : encodeWord (.oprel s a) = enc 32 4194401 [(s.code, 28), (a.val, 12)]) (by have h_s := scope_code s; have h_a := a.isLt; unfold Fits; omega)
theorem opload (s : Scope) (a : Reg) (b : Reg) : Statement (.opload s a b) :=
  of3 _ _ _ _ _ _ _ _ _ (rfl : encodeWord (.opload s a b) = enc 32 8388705 [(s.code, 28), (a.val, 12), (b.val, 17)]) (by have h_s := scope_code s; have h_a := a.isLt; have h_b := b.isLt; unfold Fits; omega)
theorem opstat (s : Scope) (d : Reg) (a : Reg) : Statement (.opstat s d a) :=
  of3 _ _ _ _ _ _ _ _ _ (rfl : encodeWord (.opstat s d a) = enc 32 12583009 [(s.code, 28), (d.val, 7), (a.val, 12)]) (by have h_s := scope_code s; have h_d := d.isLt; have h_a := a.isLt; unfold Fits; omega)
theorem ttEnq (s : Scope) (d : Reg) (a : Reg) : Statement (.ttEnq s d a) :=
  of3 _ _ _ _ _ _ _ _ _ (rfl : encodeWord (.ttEnq s d a) = enc 32 99 [(s.code, 28), (d.val, 7), (a.val, 12)]) (by have h_s := scope_code s; have h_d := d.isLt; have h_a := a.isLt; unfold Fits; omega)
theorem ttGrp (s : Scope) (d : Reg) (a : Reg) : Statement (.ttGrp s d a) :=
  of3 _ _ _ _ _ _ _ _ _ (rfl : encodeWord (.ttGrp s d a) = enc 32 4194403 [(s.code, 28), (d.val, 7), (a.val, 12)]) (by have h_s := scope_code s; have h_d := d.isLt; have h_a := a.isLt; unfold Fits; omega)
theorem ttPair (s : Scope) (d : Reg) (a : Reg) : Statement (.ttPair s d a) :=
  of3 _ _ _ _ _ _ _ _ _ (rfl : encodeWord (.ttPair s d a) = enc 32 8388707 [(s.code, 28), (d.val, 7), (a.val, 12)]) (by have h_s := scope_code s; have h_d := d.isLt; have h_a := a.isLt; unfold Fits; omega)
theorem ttAppend (s : Scope) (d : Reg) (a : Reg) (b : Reg) : Statement (.ttAppend s d a b) :=
  of4 _ _ _ _ _ _ _ _ _ _ _ (rfl : encodeWord (.ttAppend s d a b) = enc 32 12583011 [(s.code, 28), (d.val, 7), (a.val, 12), (b.val, 17)]) (by have h_s := scope_code s; have h_d := d.isLt; have h_a := a.isLt; have h_b := b.isLt; unfold Fits; omega)
theorem ttQcfg (s : Scope) (a : Reg) : Statement (.ttQcfg s a) :=
  of2 _ _ _ _ _ _ _ (rfl : encodeWord (.ttQcfg s a) = enc 32 16777315 [(s.code, 28), (a.val, 12)]) (by have h_s := scope_code s; have h_a := a.isLt; unfold Fits; omega)
theorem accClr (s : Scope) (a : Reg) (b : Reg) : Statement (.accClr s a b) :=
  of3 _ _ _ _ _ _ _ _ _ (rfl : encodeWord (.accClr s a b) = enc 32 101 [(s.code, 28), (a.val, 12), (b.val, 17)]) (by have h_s := scope_code s; have h_a := a.isLt; have h_b := b.isLt; unfold Fits; omega)
theorem accScale (s : Scope) (a : Reg) (b : Reg) : Statement (.accScale s a b) :=
  of3 _ _ _ _ _ _ _ _ _ (rfl : encodeWord (.accScale s a b) = enc 32 4194405 [(s.code, 28), (a.val, 12), (b.val, 17)]) (by have h_s := scope_code s; have h_a := a.isLt; have h_b := b.isLt; unfold Fits; omega)
theorem accDrain (s : Scope) (a : Reg) (b : Reg) : Statement (.accDrain s a b) :=
  of3 _ _ _ _ _ _ _ _ _ (rfl : encodeWord (.accDrain s a b) = enc 32 8388709 [(s.code, 28), (a.val, 12), (b.val, 17)]) (by have h_s := scope_code s; have h_a := a.isLt; have h_b := b.isLt; unfold Fits; omega)
theorem accLoad (s : Scope) (a : Reg) (b : Reg) : Statement (.accLoad s a b) :=
  of3 _ _ _ _ _ _ _ _ _ (rfl : encodeWord (.accLoad s a b) = enc 32 12583013 [(s.code, 28), (a.val, 12), (b.val, 17)]) (by have h_s := scope_code s; have h_a := a.isLt; have h_b := b.isLt; unfold Fits; omega)
theorem cpy (s : Scope) (d : Reg) (a : Reg) (b : Reg) : Statement (.cpy s d a b) :=
  of4 _ _ _ _ _ _ _ _ _ _ _ (rfl : encodeWord (.cpy s d a b) = enc 32 105 [(s.code, 28), (d.val, 7), (a.val, 12), (b.val, 17)]) (by have h_s := scope_code s; have h_d := d.isLt; have h_a := a.isLt; have h_b := b.isLt; unfold Fits; omega)
theorem cpy2d (s : Scope) (d : Reg) (a : Reg) (b : Reg) : Statement (.cpy2d s d a b) :=
  of4 _ _ _ _ _ _ _ _ _ _ _ (rfl : encodeWord (.cpy2d s d a b) = enc 32 4194409 [(s.code, 28), (d.val, 7), (a.val, 12), (b.val, 17)]) (by have h_s := scope_code s; have h_d := d.isLt; have h_a := a.isLt; have h_b := b.isLt; unfold Fits; omega)
theorem cpyCvt (s : Scope) (d : Reg) (a : Reg) (b : Reg) : Statement (.cpyCvt s d a b) :=
  of4 _ _ _ _ _ _ _ _ _ _ _ (rfl : encodeWord (.cpyCvt s d a b) = enc 32 8388713 [(s.code, 28), (d.val, 7), (a.val, 12), (b.val, 17)]) (by have h_s := scope_code s; have h_d := d.isLt; have h_a := a.isLt; have h_b := b.isLt; unfold Fits; omega)
theorem putSig (s : Scope) (d : Reg) (a : Reg) (b : Reg) : Statement (.putSig s d a b) :=
  of4 _ _ _ _ _ _ _ _ _ _ _ (rfl : encodeWord (.putSig s d a b) = enc 32 12583017 [(s.code, 28), (d.val, 7), (a.val, 12), (b.val, 17)]) (by have h_s := scope_code s; have h_d := d.isLt; have h_a := a.isLt; have h_b := b.isLt; unfold Fits; omega)
theorem wsLoad (s : Scope) (d : Reg) (a : Reg) (b : Reg) : Statement (.wsLoad s d a b) :=
  of4 _ _ _ _ _ _ _ _ _ _ _ (rfl : encodeWord (.wsLoad s d a b) = enc 32 16777321 [(s.code, 28), (d.val, 7), (a.val, 12), (b.val, 17)]) (by have h_s := scope_code s; have h_d := d.isLt; have h_a := a.isLt; have h_b := b.isLt; unfold Fits; omega)
theorem siftCfg (s : Scope) (d : Reg) (a : Reg) (b : Reg) : Statement (.siftCfg s d a b) :=
  of4 _ _ _ _ _ _ _ _ _ _ _ (rfl : encodeWord (.siftCfg s d a b) = enc 32 107 [(s.code, 28), (d.val, 7), (a.val, 12), (b.val, 17)]) (by have h_s := scope_code s; have h_d := d.isLt; have h_a := a.isLt; have h_b := b.isLt; unfold Fits; omega)
theorem gath (s : Scope) (d : Reg) (a : Reg) (b : Reg) : Statement (.gath s d a b) :=
  of4 _ _ _ _ _ _ _ _ _ _ _ (rfl : encodeWord (.gath s d a b) = enc 32 4194411 [(s.code, 28), (d.val, 7), (a.val, 12), (b.val, 17)]) (by have h_s := scope_code s; have h_d := d.isLt; have h_a := a.isLt; have h_b := b.isLt; unfold Fits; omega)
theorem scat (s : Scope) (d : Reg) (a : Reg) (b : Reg) : Statement (.scat s d a b) :=
  of4 _ _ _ _ _ _ _ _ _ _ _ (rfl : encodeWord (.scat s d a b) = enc 32 8388715 [(s.code, 28), (d.val, 7), (a.val, 12), (b.val, 17)]) (by have h_s := scope_code s; have h_d := d.isLt; have h_a := a.isLt; have h_b := b.isLt; unfold Fits; omega)
theorem siftStat (s : Scope) (d : Reg) (a : Reg) : Statement (.siftStat s d a) :=
  of3 _ _ _ _ _ _ _ _ _ (rfl : encodeWord (.siftStat s d a) = enc 32 12583019 [(s.code, 28), (d.val, 7), (a.val, 12)]) (by have h_s := scope_code s; have h_d := d.isLt; have h_a := a.isLt; unfold Fits; omega)
theorem kbind (s : Scope) (d : Reg) (a : Reg) (b : Reg) : Statement (.kbind s d a b) :=
  of4 _ _ _ _ _ _ _ _ _ _ _ (rfl : encodeWord (.kbind s d a b) = enc 32 109 [(s.code, 28), (d.val, 7), (a.val, 12), (b.val, 17)]) (by have h_s := scope_code s; have h_d := d.isLt; have h_a := a.isLt; have h_b := b.isLt; unfold Fits; omega)
theorem ksend (s : Scope) (d : Reg) (a : Reg) : Statement (.ksend s d a) :=
  of3 _ _ _ _ _ _ _ _ _ (rfl : encodeWord (.ksend s d a) = enc 32 4194413 [(s.code, 28), (d.val, 7), (a.val, 12)]) (by have h_s := scope_code s; have h_d := d.isLt; have h_a := a.isLt; unfold Fits; omega)
theorem kdrain (s : Scope) (d : Reg) (a : Reg) (b : Reg) : Statement (.kdrain s d a b) :=
  of4 _ _ _ _ _ _ _ _ _ _ _ (rfl : encodeWord (.kdrain s d a b) = enc 32 8388717 [(s.code, 28), (d.val, 7), (a.val, 12), (b.val, 17)]) (by have h_s := scope_code s; have h_d := d.isLt; have h_a := a.isLt; have h_b := b.isLt; unfold Fits; omega)
theorem topkCfg (s : Scope) (d : Reg) (a : Reg) (b : Reg) : Statement (.topkCfg s d a b) :=
  of4 _ _ _ _ _ _ _ _ _ _ _ (rfl : encodeWord (.topkCfg s d a b) = enc 32 12583021 [(s.code, 28), (d.val, 7), (a.val, 12), (b.val, 17)]) (by have h_s := scope_code s; have h_d := d.isLt; have h_a := a.isLt; have h_b := b.isLt; unfold Fits; omega)
theorem topkSend (s : Scope) (d : Reg) (a : Reg) (b : Reg) : Statement (.topkSend s d a b) :=
  of4 _ _ _ _ _ _ _ _ _ _ _ (rfl : encodeWord (.topkSend s d a b) = enc 32 16777325 [(s.code, 28), (d.val, 7), (a.val, 12), (b.val, 17)]) (by have h_s := scope_code s; have h_d := d.isLt; have h_a := a.isLt; have h_b := b.isLt; unfold Fits; omega)
theorem topkRd (s : Scope) (d : Reg) (a : Reg) (b : Reg) : Statement (.topkRd s d a b) :=
  of4 _ _ _ _ _ _ _ _ _ _ _ (rfl : encodeWord (.topkRd s d a b) = enc 32 20971629 [(s.code, 28), (d.val, 7), (a.val, 12), (b.val, 17)]) (by have h_s := scope_code s; have h_d := d.isLt; have h_a := a.isLt; have h_b := b.isLt; unfold Fits; omega)
theorem collRed (s : Scope) (d : Reg) (a : Reg) (b : Reg) : Statement (.collRed s d a b) :=
  of4 _ _ _ _ _ _ _ _ _ _ _ (rfl : encodeWord (.collRed s d a b) = enc 32 111 [(s.code, 28), (d.val, 7), (a.val, 12), (b.val, 17)]) (by have h_s := scope_code s; have h_d := d.isLt; have h_a := a.isLt; have h_b := b.isLt; unfold Fits; omega)
theorem collBcast (s : Scope) (d : Reg) (a : Reg) (b : Reg) : Statement (.collBcast s d a b) :=
  of4 _ _ _ _ _ _ _ _ _ _ _ (rfl : encodeWord (.collBcast s d a b) = enc 32 4194415 [(s.code, 28), (d.val, 7), (a.val, 12), (b.val, 17)]) (by have h_s := scope_code s; have h_d := d.isLt; have h_a := a.isLt; have h_b := b.isLt; unfold Fits; omega)
theorem tokSend (s : Scope) (d : Reg) (a : Reg) (b : Reg) : Statement (.tokSend s d a b) :=
  of4 _ _ _ _ _ _ _ _ _ _ _ (rfl : encodeWord (.tokSend s d a b) = enc 32 8388719 [(s.code, 28), (d.val, 7), (a.val, 12), (b.val, 17)]) (by have h_s := scope_code s; have h_d := d.isLt; have h_a := a.isLt; have h_b := b.isLt; unfold Fits; omega)
theorem fabStat (s : Scope) (d : Reg) (a : Reg) : Statement (.fabStat s d a) :=
  of3 _ _ _ _ _ _ _ _ _ (rfl : encodeWord (.fabStat s d a) = enc 32 12583023 [(s.code, 28), (d.val, 7), (a.val, 12)]) (by have h_s := scope_code s; have h_d := d.isLt; have h_a := a.isLt; unfold Fits; omega)
theorem trap (c : BitVec 12) : Statement (.trap c) :=
  of2 _ _ _ _ _ _ _ (rfl : encodeWord (.trap c) = enc 32 113 [(c.toNat / 32, 25), (c.toNat % 32, 17)]) (by have h_c := c.isLt; unfold Fits; omega)
theorem ctlrd (d : Reg) (n : BitVec 12) : Statement (.ctlrd d n) :=
  of3 _ _ _ _ _ _ _ _ _ (rfl : encodeWord (.ctlrd d n) = enc 32 8388721 [(d.val, 7), (n.toNat / 32, 25), (n.toNat % 32, 17)]) (by have h_d := d.isLt; have h_n := n.isLt; unfold Fits; omega)
theorem ctlwr (a : Reg) (n : BitVec 12) : Statement (.ctlwr a n) :=
  of3 _ _ _ _ _ _ _ _ _ (rfl : encodeWord (.ctlwr a n) = enc 32 12583025 [(a.val, 12), (n.toNat / 32, 25), (n.toNat % 32, 17)]) (by have h_a := a.isLt; have h_n := n.isLt; unfold Fits; omega)
theorem tlbinvPage (a : Reg) (b : Reg) : Statement (.tlbinvPage a b) :=
  of2 _ _ _ _ _ _ _ (rfl : encodeWord (.tlbinvPage a b) = enc 32 115 [(a.val, 12), (b.val, 17)]) (by have h_a := a.isLt; have h_b := b.isLt; unfold Fits; omega)
theorem tlbinvCtx (b : Reg) : Statement (.tlbinvCtx b) :=
  of1 _ _ _ _ _ (rfl : encodeWord (.tlbinvCtx b) = enc 32 8388723 [(b.val, 17)]) (by have h_b := b.isLt; unfold Fits; omega)
theorem crumbMark (a : Reg) : Statement (.crumbMark a) :=
  of1 _ _ _ _ _ (rfl : encodeWord (.crumbMark a) = enc 32 117 [(a.val, 12)]) (by have h_a := a.isLt; unfold Fits; omega)
theorem fenceI : Statement .fenceI := of0 _ 32 4194363 rfl (by unfold Fits; omega)
theorem commit : Statement .commit := of0 _ 32 8388667 rfl (by unfold Fits; omega)
theorem eret : Statement .eret := of0 _ 32 4194417 rfl (by unfold Fits; omega)
theorem halt : Statement .halt := of0 _ 32 16777329 rfl (by unfold Fits; omega)
theorem tlbinvAll : Statement .tlbinvAll := of0 _ 32 16777331 rfl (by unfold Fits; omega)
theorem harvest : Statement .harvest := of0 _ 32 4194419 rfl (by unfold Fits; omega)
theorem dispatch : Statement .dispatch := ofNone _ rfl
theorem messageArrival : Statement .messageArrival := ofNone _ rfl
theorem spillReinject : Statement .spillReinject := ofNone _ rfl
theorem drain : Statement .drain := ofNone _ rfl
theorem deliver : Statement .deliver := ofNone _ rfl
theorem perform : Statement .perform := ofNone _ rfl
theorem answer : Statement .answer := ofNone _ rfl
theorem postedWriteFlush : Statement .postedWriteFlush := ofNone _ rfl
theorem bankReplayRetry : Statement .bankReplayRetry := ofNone _ rfl
theorem bankhashRewrite : Statement .bankhashRewrite := ofNone _ rfl
theorem escapeChannelEntry : Statement .escapeChannelEntry := ofNone _ rfl
theorem leaseGrant : Statement .leaseGrant := ofNone _ rfl
theorem leaseRecall : Statement .leaseRecall := ofNone _ rfl
theorem leaseIdleReturn : Statement .leaseIdleReturn := ofNone _ rfl
theorem pageWalkComplete : Statement .pageWalkComplete := ofNone _ rfl
theorem tlbinvComplete : Statement .tlbinvComplete := ofNone _ rfl
theorem faultRewalk : Statement .faultRewalk := ofNone _ rfl
theorem harvestComplete : Statement .harvestComplete := ofNone _ rfl
theorem dirtyLogMerge : Statement .dirtyLogMerge := ofNone _ rfl
theorem rankmapComplete : Statement .rankmapComplete := ofNone _ rfl
theorem sfuResult : Statement .sfuResult := ofNone _ rfl
theorem yieldExpiry : Statement .yieldExpiry := ofNone _ rfl
theorem cwaittTimeout : Statement .cwaittTimeout := ofNone _ rfl
theorem barrierPhaseComplete : Statement .barrierPhaseComplete := ofNone _ rfl
theorem inheritanceNotice : Statement .inheritanceNotice := ofNone _ rfl
theorem stealRequest : Statement .stealRequest := ofNone _ rfl
theorem stealVictimReply : Statement .stealVictimReply := ofNone _ rfl
theorem stealBackoffExpiry : Statement .stealBackoffExpiry := ofNone _ rfl
theorem launchRingRegister : Statement .launchRingRegister := ofNone _ rfl
theorem tailNotice : Statement .tailNotice := ofNone _ rfl
theorem launchRingPoll : Statement .launchRingPoll := ofNone _ rfl
theorem launchExpansion : Statement .launchExpansion := ofNone _ rfl
theorem contextSwitch : Statement .contextSwitch := ofNone _ rfl
theorem haltConfirm : Statement .haltConfirm := ofNone _ rfl
theorem contextSaveComplete : Statement .contextSaveComplete := ofNone _ rfl
theorem contextRestore : Statement .contextRestore := ofNone _ rfl
theorem tileTaskIssue : Statement .tileTaskIssue := ofNone _ rfl
theorem tileTaskComplete : Statement .tileTaskComplete := ofNone _ rfl
theorem pairCommit : Statement .pairCommit := ofNone _ rfl
theorem pairTimeout : Statement .pairTimeout := ofNone _ rfl
theorem groupStart : Statement .groupStart := ofNone _ rfl
theorem groupFinish : Statement .groupFinish := ofNone _ rfl
theorem matrixCommandStart : Statement .matrixCommandStart := ofNone _ rfl
theorem matrixCommandComplete : Statement .matrixCommandComplete := ofNone _ rfl
theorem copyCommandStart : Statement .copyCommandStart := ofNone _ rfl
theorem copyChunk : Statement .copyChunk := ofNone _ rfl
theorem copyCommandComplete : Statement .copyCommandComplete := ofNone _ rfl
theorem engineFaultStop : Statement .engineFaultStop := ofNone _ rfl
theorem wsBankRefresh : Statement .wsBankRefresh := ofNone _ rfl
theorem wsPhaseChange : Statement .wsPhaseChange := ofNone _ rfl
theorem sifterCommandComplete : Statement .sifterCommandComplete := ofNone _ rfl
theorem keyedBatch : Statement .keyedBatch := ofNone _ rfl
theorem topkScore : Statement .topkScore := ofNone _ rfl
theorem topkCfgComplete : Statement .topkCfgComplete := ofNone _ rfl
theorem capsuleArrival : Statement .capsuleArrival := ofNone _ rfl
theorem capsuleSpillLanding : Statement .capsuleSpillLanding := ofNone _ rfl
theorem cellArrival : Statement .cellArrival := ofNone _ rfl
theorem reductionCellCombine : Statement .reductionCellCombine := ofNone _ rfl
theorem tokenRowArrival : Statement .tokenRowArrival := ofNone _ rfl
theorem portDown : Statement .portDown := ofNone _ rfl
theorem cellLost : Statement .cellLost := ofNone _ rfl
theorem replayRingRead : Statement .replayRingRead := ofNone _ rfl
theorem replayDeparture : Statement .replayDeparture := ofNone _ rfl
theorem hostWrite : Statement .hostWrite := ofNone _ rfl
theorem hostRead : Statement .hostRead := ofNone _ rfl
theorem detset : Statement .detset := ofNone _ rfl
theorem wsReadPhaseRequest : Statement .wsReadPhaseRequest := ofNone _ rfl
theorem wsWritePhaseRequest : Statement .wsWritePhaseRequest := ofNone _ rfl
theorem censusFreeze : Statement .censusFreeze := ofNone _ rfl
theorem censusThaw : Statement .censusThaw := ofNone _ rfl
theorem park : Statement .park := ofNone _ rfl
theorem ckpt : Statement .ckpt := ofNone _ rfl
theorem checkpointComplete : Statement .checkpointComplete := ofNone _ rfl
theorem cdataRead : Statement .cdataRead := ofNone _ rfl
theorem cdataWrite : Statement .cdataWrite := ofNone _ rfl
theorem configRegisterWrite : Statement .configRegisterWrite := ofNone _ rfl
theorem powerUpBoot : Statement .powerUpBoot := ofNone _ rfl
theorem attestationQuote : Statement .attestationQuote := ofNone _ rfl
theorem illegalWord : Statement .illegalWord := ofNone _ rfl
theorem routerCommandComplete : Statement .routerCommandComplete := ofNone _ rfl
theorem linkRetrain : Statement .linkRetrain := ofNone _ rfl
theorem poweredHour : Statement .poweredHour := ofNone _ rfl
theorem supplyDroopEvent : Statement .supplyDroopEvent := ofNone _ rfl

end Sys2Proof.Laws.Encoding
end

