-- ==== Sys2Proof/Tests/Slice0.lean ====
section
/-! SUPPORT. Tests: words of the spec's encodings decoded, ill-formed terms refused, single steps against the spec's worked examples, and for
every obligation with hypotheses a state that meets them (witness_<obligation>). -/

open Sys2Proof Sys2Proof.Machine

namespace Sys2Proof.Tests

set_option Elab.async false

/-! ## Decoding: words built from the spec's encodings (R86 to R95) -/

theorem test_decode_add_to_rem :
    decodeTableWord 32 0x00372483 = some (.add 9 18 27) ∧
    decodeTableWord 32 0x00772483 = some (.sub 9 18 27) ∧
    decodeTableWord 32 0x00B72483 = some (.mul 9 18 27) ∧
    decodeTableWord 32 0x00F72483 = some (.mulh 9 18 27) ∧
    decodeTableWord 32 0x01372483 = some (.mulhn 9 18 27) ∧
    decodeTableWord 32 0x01772483 = some (.div 9 18 27) ∧
    decodeTableWord 32 0x01B72483 = some (.divn 9 18 27) ∧
    decodeTableWord 32 0x01F72483 = some (.rem 9 18 27) := by decide

theorem test_decode_remn_to_sra :
    decodeTableWord 32 0x02372483 = some (.remn 9 18 27) ∧
    decodeTableWord 32 0x02772483 = some (.and 9 18 27) ∧
    decodeTableWord 32 0x02B72483 = some (.or 9 18 27) ∧
    decodeTableWord 32 0x02F72483 = some (.xor 9 18 27) ∧
    decodeTableWord 32 0x03372483 = some (.andn 9 18 27) ∧
    decodeTableWord 32 0x03772483 = some (.shl 9 18 27) ∧
    decodeTableWord 32 0x03B72483 = some (.shr 9 18 27) ∧
    decodeTableWord 32 0x03F72483 = some (.sra 9 18 27) := by decide

theorem test_decode_rol_to_seq :
    decodeTableWord 32 0x04372483 = some (.rol 9 18 27) ∧
    decodeTableWord 32 0x04772483 = some (.min 9 18 27) ∧
    decodeTableWord 32 0x04B72483 = some (.max 9 18 27) ∧
    decodeTableWord 32 0x04F72483 = some (.minn 9 18 27) ∧
    decodeTableWord 32 0x05372483 = some (.maxn 9 18 27) ∧
    decodeTableWord 32 0x05772483 = some (.slt 9 18 27) ∧
    decodeTableWord 32 0x05B72483 = some (.sltn 9 18 27) ∧
    decodeTableWord 32 0x05F72483 = some (.seq 9 18 27) := by decide

theorem test_decode_cmov_to_xori :
    decodeTableWord 32 0x06372483 = some (.cmov 9 18 27) ∧
    decodeTableWord 32 0x06412483 = some (.clz 9 18) ∧
    decodeTableWord 32 0x06812483 = some (.ctz 9 18) ∧
    decodeTableWord 32 0x06C12483 = some (.popc 9 18) ∧
    decodeTableWord 32 0x800B2485 = some (.addi 9 18 0x4005) ∧
    decodeTableWord 32 0x800B2487 = some (.andi 9 18 0x4005) ∧
    decodeTableWord 32 0x800B2489 = some (.ori 9 18 0x4005) ∧
    decodeTableWord 32 0x800B248B = some (.xori 9 18 0x4005) := by decide

theorem test_decode_slti_to_bpadd :
    decodeTableWord 32 0x800B248F = some (.slti 9 18 0x4005) ∧
    decodeTableWord 32 0x004B248D = some (.shli 9 18 37) ∧
    decodeTableWord 32 0x014B248D = some (.shri 9 18 37) ∧
    decodeTableWord 32 0x024B248D = some (.srai 9 18 37) ∧
    decodeTableWord 32 0x034B248D = some (.roli 9 18 37) ∧
    decodeTableWord 32 0x80005491 = some (.limm 9 0x80005) ∧
    decodeTableWord 32 0x80005493 = some (.limmh 9 0x80005) ∧
    decodeTableWord 32 0x08372495 = some (.bpadd .w3 9 18 27) := by decide

theorem test_decode_bpdiff_to_balign :
    decodeTableWord 32 0x08772495 = some (.bpdiff .w3 9 18 27) ∧
    decodeTableWord 32 0x00B72495 = some (.bcrd 9 18 27) ∧
    decodeTableWord 32 0x00F72495 = some (.brel 9 18 27) ∧
    decodeTableWord 32 0x01372495 = some (.bstripe 9 18 27) ∧
    decodeTableWord 32 0x01412495 = some (.b2byte 9 18) ∧
    decodeTableWord 32 0x01812495 = some (.byte2b 9 18) ∧
    decodeTableWord 32 0x01C52495 = some (.bwin 2 9 18) ∧
    decodeTableWord 32 0x0A012495 = some (.balign .w3 9 18) := by decide

theorem test_decode_bpaddi_to_fmax :
    decodeTableWord 32 0x80A52497 = some (.bpaddi .w3 9 18 0x405) ∧
    decodeTableWord 32 0x04372499 = some (.fadd .f40 9 18 27) ∧
    decodeTableWord 32 0x04772499 = some (.fsub .f40 9 18 27) ∧
    decodeTableWord 32 0x04B72499 = some (.fmul .f40 9 18 27) ∧
    decodeTableWord 32 0x04F72499 = some (.fdiv .f40 9 18 27) ∧
    decodeTableWord 32 0x05012499 = some (.fsqrt .f40 9 18) ∧
    decodeTableWord 32 0x05772499 = some (.fmin .f40 9 18 27) ∧
    decodeTableWord 32 0x05B72499 = some (.fmax .f40 9 18 27) := by decide

theorem test_decode_fcmpeq_to_jal :
    decodeTableWord 32 0x05F72499 = some (.fcmpeq .f40 9 18 27) ∧
    decodeTableWord 32 0x06372499 = some (.fcmplt .f40 9 18 27) ∧
    decodeTableWord 32 0x06772499 = some (.fcmple .f40 9 18 27) ∧
    decodeTableWord 32 0x168B2499 = some (.fcvt .e4m3 .e4m3 9 18) ∧
    decodeTableWord 32 0x16C12499 = some (.fclass .e4m3 9 18) ∧
    decodeTableWord 32 0x4337249B = some (.fma .f40 9 18 27 12) ∧
    decodeTableWord 32 0x805BB921 = some (.brc .gen 18 27 0x805) ∧
    decodeTableWord 32 0x800054A3 = some (.jal 9 0x80005) := by decide

theorem test_decode_jr_to_stv :
    decodeTableWord 32 0x00012025 = some (.jr 18) ∧
    decodeTableWord 32 0x004124A5 = some (.jalr 9 18) ∧
    decodeTableWord 32 0x400A0627 = some (.loop 12 0x2005) ∧
    decodeTableWord 32 0xC00A0027 = some (.loops 0x2005) ∧
    decodeTableWord 32 0x816524A9 = some (.ld .w3 true 9 18 0x205) ∧
    decodeTableWord 32 0x814524AB = some (.st .w3 9 18 0x205) ∧
    decodeTableWord 32 0x828F24AD = some (.ldv .w32 9 18 0x105) ∧
    decodeTableWord 32 0x82AF24AD = some (.stv .w32 9 18 0x105) := by decide

theorem test_decode_ldvx_to_takem :
    decodeTableWord 32 0x02CF24AD = some (.ldvx .w32 9 18 5) ∧
    decodeTableWord 32 0x02EF24AD = some (.stvx .w32 9 18 5) ∧
    decodeTableWord 32 0x962524AF = some (.ldAcq .w3 true .pod 9 18 0x25) ∧
    decodeTableWord 32 0x964524AF = some (.stRel .w3 .pod 9 18 0x25) ∧
    decodeTableWord 32 0x094B22B1 = some (.ldt .w3 true 37 18 5) ∧
    decodeTableWord 32 0x03CB22B3 = some (.ldtv .w32 37 18 5) ∧
    decodeTableWord 32 0x000124B5 = some (.take 9 18) ∧
    decodeTableWord 32 0x007724B5 = some (.takem 9 18 27) := by decide

theorem test_decode_taket_to_sfuRcp :
    decodeTableWord 32 0x00B724B5 = some (.taket 9 18 27) ∧
    decodeTableWord 32 0x00C124B5 = some (.lsq 9 18) ∧
    decodeTableWord 32 0x01012035 = some (.lsreissue 18) ∧
    decodeTableWord 32 0x01412035 = some (.lsclr 18) ∧
    decodeTableWord 32 0x01812035 = some (.lswait 18) ∧
    decodeTableWord 32 0x03CB2037 = some (.sfuExp2 37 18) ∧
    decodeTableWord 32 0x0BCB2037 = some (.sfuLog2 37 18) ∧
    decodeTableWord 32 0x13CB2037 = some (.sfuRcp 37 18) := by decide

theorem test_decode_sfuRsq_to_amoOr :
    decodeTableWord 32 0x1BCB2037 = some (.sfuRsq 37 18) ∧
    decodeTableWord 32 0x23CB2037 = some (.sfuSin 37 18) ∧
    decodeTableWord 32 0x2BCB2037 = some (.sfuCos 37 18) ∧
    decodeTableWord 32 0x33CB2037 = some (.sfuTanh 37 18) ∧
    decodeTableWord 32 0x3BCB2037 = some (.sfuErf 37 18) ∧
    decodeTableWord 32 0x903724B9 = some (.amoAdd true .w3 9 18 27) ∧
    decodeTableWord 32 0x907724B9 = some (.amoAnd true .w3 9 18 27) ∧
    decodeTableWord 32 0x90B724B9 = some (.amoOr true .w3 9 18 27) := by decide

theorem test_decode_amoXor_to_amoFadd :
    decodeTableWord 32 0x90F724B9 = some (.amoXor true .w3 9 18 27) ∧
    decodeTableWord 32 0x913724B9 = some (.amoMin true .w3 9 18 27) ∧
    decodeTableWord 32 0x917724B9 = some (.amoMax true .w3 9 18 27) ∧
    decodeTableWord 32 0x91B724B9 = some (.amoMinn true .w3 9 18 27) ∧
    decodeTableWord 32 0x91F724B9 = some (.amoMaxn true .w3 9 18 27) ∧
    decodeTableWord 32 0x923724B9 = some (.amoSwap true .w3 9 18 27) ∧
    decodeTableWord 32 0x927724B9 = some (.amoCas true .w3 9 18 27) ∧
    decodeTableWord 32 0xBAB724B9 = some (.amoFadd true 9 18 27) := by decide

theorem test_decode_redAdd_to_redMaxn :
    decodeTableWord 32 0x92F72039 = some (.redAdd true .w3 18 27) ∧
    decodeTableWord 32 0x93372039 = some (.redAnd true .w3 18 27) ∧
    decodeTableWord 32 0x93772039 = some (.redOr true .w3 18 27) ∧
    decodeTableWord 32 0x93B72039 = some (.redXor true .w3 18 27) ∧
    decodeTableWord 32 0x93F72039 = some (.redMin true .w3 18 27) ∧
    decodeTableWord 32 0x94372039 = some (.redMax true .w3 18 27) ∧
    decodeTableWord 32 0x94772039 = some (.redMinn true .w3 18 27) ∧
    decodeTableWord 32 0x94B72039 = some (.redMaxn true .w3 18 27) := by decide

theorem test_decode_redFadd_to_cmax :
    decodeTableWord 32 0xBCF72039 = some (.redFadd true 18 27) ∧
    decodeTableWord 32 0xBD372039 = some (.redFmax true 18 27) ∧
    decodeTableWord 32 0x2300003B = some (.fence .ss .pod) ∧
    decodeTableWord 32 0x403724BD = some (.enq .pod 9 18 27) ∧
    decodeTableWord 32 0x407724BD = some (.deq .pod 9 18 27) ∧
    decodeTableWord 32 0x408124BD = some (.ringstat .pod 9 18) ∧
    decodeTableWord 32 0x48372041 = some (.cadd true .pod 18 27) ∧
    decodeTableWord 32 0x48772041 = some (.cmax true .pod 18 27) := by decide

theorem test_decode_cwait_to_endAct :
    decodeTableWord 32 0x40B724C1 = some (.cwait .pod 9 18 27) ∧
    decodeTableWord 32 0x40F724C1 = some (.cwaitt .pod 9 18 27) ∧
    decodeTableWord 32 0x413724C1 = some (.carm .pod 9 18 27) ∧
    decodeTableWord 32 0x403724C3 = some (.msg .pod 9 18 27) ∧
    decodeTableWord 32 0x407724C3 = some (.msgc .pod 9 18 27) ∧
    decodeTableWord 32 0x40B72043 = some (.spawn .pod 18 27) ∧
    decodeTableWord 32 0x40C00043 = some (.recv .pod) ∧
    decodeTableWord 32 0x41000043 = some (.endAct .pod) := by decide

theorem test_decode_yield_to_barWait :
    decodeTableWord 32 0x41412043 = some (.yield .pod 18) ∧
    decodeTableWord 32 0x41B724C3 = some (.rankmap .pod 9 18 27) ∧
    decodeTableWord 32 0x400124C5 = some (.dqpush .pod 9 18) ∧
    decodeTableWord 32 0x404124C5 = some (.dqpop .pod 9 18) ∧
    decodeTableWord 32 0x408004C5 = some (.dqcount .pod 9) ∧
    decodeTableWord 32 0x403724C7 = some (.barCfg .pod 9 18 27) ∧
    decodeTableWord 32 0x407604C7 = some (.barArr .pod 9 27) ∧
    decodeTableWord 32 0x40B724C7 = some (.barWait .pod 9 18 27) := by decide

theorem test_decode_barStat_to_capset :
    decodeTableWord 32 0x40F724C7 = some (.barStat .pod 9 18 27) ∧
    decodeTableWord 32 0x403724C9 = some (.capnew .pod 9 18 27) ∧
    decodeTableWord 32 0x404124C9 = some (.capfwd .pod 9 18) ∧
    decodeTableWord 32 0x40812049 = some (.capend .pod 18) ∧
    decodeTableWord 32 0x40F724C9 = some (.caprd .pod 9 18 27) ∧
    decodeTableWord 32 0x403724CB = some (.capins .pod 9 18 27) ∧
    decodeTableWord 32 0x404124CB = some (.capdel .pod 9 18) ∧
    decodeTableWord 32 0x40B724CB = some (.capset .pod 9 18 27) := by decide

theorem test_decode_vadd_to_vcmp :
    decodeTableWord 32 0x943724CD = some (.vadd .i16 .m1 9 18 27) ∧
    decodeTableWord 32 0x947724CD = some (.vsub .i16 .m1 9 18 27) ∧
    decodeTableWord 32 0x94B724CD = some (.vmul .i16 .m1 9 18 27) ∧
    decodeTableWord 32 0x94F724CD = some (.vmin .i16 .m1 9 18 27) ∧
    decodeTableWord 32 0x953724CD = some (.vmax .i16 .m1 9 18 27) ∧
    decodeTableWord 32 0x954124CD = some (.vabs .i16 .m1 9 18) ∧
    decodeTableWord 32 0x958124CD = some (.vneg .i16 .m1 9 18) ∧
    decodeTableWord 32 0xD5F7234D = some (.vcmp .i16 .le 6 18 27) := by decide

theorem test_decode_vsel_to_vaddF32Q :
    decodeTableWord 32 0x963724CD = some (.vsel .i16 .m1 9 18 27) ∧
    decodeTableWord 32 0x967724CD = some (.vand .i16 .m1 9 18 27) ∧
    decodeTableWord 32 0x96B724CD = some (.vor .i16 .m1 9 18 27) ∧
    decodeTableWord 32 0x96F724CD = some (.vxor .i16 .m1 9 18 27) ∧
    decodeTableWord 32 0x973724CD = some (.vshl .i16 .m1 9 18 27) ∧
    decodeTableWord 32 0x977724CD = some (.vshr .i16 .m1 9 18 27) ∧
    decodeTableWord 32 0x97B724CD = some (.vsra .i16 .m1 9 18 27) ∧
    decodeTableWord 16 0xED20 = some (.vaddF32Q true 9 27) := by decide

theorem test_decode_vsubF32Q_to_vandB32Q :
    decodeTableWord 16 0xED22 = some (.vsubF32Q true 9 27) ∧
    decodeTableWord 16 0xED24 = some (.vmulF32Q true 9 27) ∧
    decodeTableWord 16 0xED26 = some (.vmaxF32Q true 9 27) ∧
    decodeTableWord 16 0xED28 = some (.vminF32Q true 9 27) ∧
    decodeTableWord 16 0xED2A = some (.vaddI32Q true 9 27) ∧
    decodeTableWord 16 0xED2C = some (.vsubI32Q true 9 27) ∧
    decodeTableWord 16 0xED2E = some (.vmulI32Q true 9 27) ∧
    decodeTableWord 16 0xED30 = some (.vandB32Q true 9 27) := by decide

theorem test_decode_vorB32Q_to_vfma :
    decodeTableWord 16 0xED32 = some (.vorB32Q true 9 27) ∧
    decodeTableWord 16 0xED34 = some (.vxorB32Q true 9 27) ∧
    decodeTableWord 16 0xED36 = some (.vshlI32Q true 9 27) ∧
    decodeTableWord 16 0xED38 = some (.vsraI32Q true 9 27) ∧
    decodeTableWord 16 0xED3A = some (.vmovQ true 9 27) ∧
    decodeTableWord 16 0xED3C = some (.vnegF32Q true 9 27) ∧
    decodeTableWord 16 0xED3E = some (.vabsF32Q true 9 27) ∧
    decodeTableWord 32 0xC33724CF = some (.vfma .f16 true 9 18 27 12) := by decide

theorem test_decode_vfms_to_vperm :
    decodeTableWord 32 0xCB3724CF = some (.vfms .f16 true 9 18 27 12) ∧
    decodeTableWord 32 0xD33724CF = some (.vfnma .f16 true 9 18 27 12) ∧
    decodeTableWord 32 0x860724D1 = some (.vcvt .f16 .f16 .m1 9 18) ∧
    decodeTableWord 32 0x8A7724D1 = some (.vpack .e4m3 .m1 9 18 27) ∧
    decodeTableWord 32 0x8AB724D1 = some (.vunpack .e4m3 .m1 9 18 27) ∧
    decodeTableWord 32 0xBAF724D1 = some (.vquant .q4 .m1 9 18 27) ∧
    decodeTableWord 32 0xBB3724D1 = some (.vdeq .q4 .m1 9 18 27) ∧
    decodeTableWord 32 0x0A3724D3 = some (.vperm .i16 9 18 27) := by decide

theorem test_decode_vbcast_to_vredmin :
    decodeTableWord 32 0x0A4124D3 = some (.vbcast .i16 9 18) ∧
    decodeTableWord 32 0x0AB724D3 = some (.vext .i16 9 18 27) ∧
    decodeTableWord 32 0x0AF724D3 = some (.vins .i16 9 18 27) ∧
    decodeTableWord 32 0x0B3724D3 = some (.vslide .i16 9 18 27) ∧
    decodeTableWord 32 0x0B7724D3 = some (.vshuf .i16 9 18 27) ∧
    decodeTableWord 32 0x250124D5 = some (.vredadd .i16 .m1 9 18) ∧
    decodeTableWord 32 0x254124D5 = some (.vredmax .i16 .m1 9 18) ∧
    decodeTableWord 32 0x258124D5 = some (.vredmin .i16 .m1 9 18) := by decide

theorem test_decode_vscan_to_vaddi :
    decodeTableWord 32 0x25C124D5 = some (.vscan .i16 .m1 9 18) ∧
    decodeTableWord 32 0x000A3357 = some (.mand 6 3 5) ∧
    decodeTableWord 32 0x004A3357 = some (.mor 6 3 5) ∧
    decodeTableWord 32 0x00803357 = some (.mnot 6 3) ∧
    decodeTableWord 32 0x00C034D7 = some (.mpopc 9 3) ∧
    decodeTableWord 32 0x010034D7 = some (.mfirst 9 3) ∧
    decodeTableWord 32 0x01412357 = some (.mset 6 18) ∧
    decodeTableWord 32 0x160B24D9 = some (.vaddi .i16 9 18 0x105) := by decide

theorem test_decode_vshli_to_opload :
    decodeTableWord 32 0x540B24D9 = some (.vshli .i16 9 18 0x005) ∧
    decodeTableWord 32 0x960A04D9 = some (.vmovi .i16 9 0x105) ∧
    decodeTableWord 32 0x400124DD = some (.strmCfg .pod 9 18) ∧
    decodeTableWord 32 0x404004DD = some (.strmEnd .pod 9) ∧
    decodeTableWord 32 0x408124DD = some (.strmPos .pod 9 18) ∧
    decodeTableWord 32 0x400124E1 = some (.opclaim .pod 9 18) ∧
    decodeTableWord 32 0x40412061 = some (.oprel .pod 18) ∧
    decodeTableWord 32 0x40B72061 = some (.opload .pod 18 27) := by decide

theorem test_decode_opstat_to_accScale :
    decodeTableWord 32 0x40C124E1 = some (.opstat .pod 9 18) ∧
    decodeTableWord 32 0x400124E3 = some (.ttEnq .pod 9 18) ∧
    decodeTableWord 32 0x404124E3 = some (.ttGrp .pod 9 18) ∧
    decodeTableWord 32 0x408124E3 = some (.ttPair .pod 9 18) ∧
    decodeTableWord 32 0x40F724E3 = some (.ttAppend .pod 9 18 27) ∧
    decodeTableWord 32 0x41012063 = some (.ttQcfg .pod 18) ∧
    decodeTableWord 32 0x40372065 = some (.accClr .pod 18 27) ∧
    decodeTableWord 32 0x40772065 = some (.accScale .pod 18 27) := by decide

theorem test_decode_accDrain_to_siftCfg :
    decodeTableWord 32 0x40B72065 = some (.accDrain .pod 18 27) ∧
    decodeTableWord 32 0x40F72065 = some (.accLoad .pod 18 27) ∧
    decodeTableWord 32 0x403724E9 = some (.cpy .pod 9 18 27) ∧
    decodeTableWord 32 0x407724E9 = some (.cpy2d .pod 9 18 27) ∧
    decodeTableWord 32 0x40B724E9 = some (.cpyCvt .pod 9 18 27) ∧
    decodeTableWord 32 0x40F724E9 = some (.putSig .pod 9 18 27) ∧
    decodeTableWord 32 0x413724E9 = some (.wsLoad .pod 9 18 27) ∧
    decodeTableWord 32 0x403724EB = some (.siftCfg .pod 9 18 27) := by decide

theorem test_decode_gath_to_topkSend :
    decodeTableWord 32 0x407724EB = some (.gath .pod 9 18 27) ∧
    decodeTableWord 32 0x40B724EB = some (.scat .pod 9 18 27) ∧
    decodeTableWord 32 0x40C124EB = some (.siftStat .pod 9 18) ∧
    decodeTableWord 32 0x403724ED = some (.kbind .pod 9 18 27) ∧
    decodeTableWord 32 0x404124ED = some (.ksend .pod 9 18) ∧
    decodeTableWord 32 0x40B724ED = some (.kdrain .pod 9 18 27) ∧
    decodeTableWord 32 0x40F724ED = some (.topkCfg .pod 9 18 27) ∧
    decodeTableWord 32 0x413724ED = some (.topkSend .pod 9 18 27) := by decide

theorem test_decode_topkRd_to_ctlwr :
    decodeTableWord 32 0x417724ED = some (.topkRd .pod 9 18 27) ∧
    decodeTableWord 32 0x403724EF = some (.collRed .pod 9 18 27) ∧
    decodeTableWord 32 0x407724EF = some (.collBcast .pod 9 18 27) ∧
    decodeTableWord 32 0x40B724EF = some (.tokSend .pod 9 18 27) ∧
    decodeTableWord 32 0x40C124EF = some (.fabStat .pod 9 18) ∧
    decodeTableWord 32 0x800A0071 = some (.trap 0x805) ∧
    decodeTableWord 32 0x808A04F1 = some (.ctlrd 9 0x805) ∧
    decodeTableWord 32 0x80CB2071 = some (.ctlwr 18 0x805) := by decide

theorem test_decode_tlbinvPage_to_tlbinvAll :
    decodeTableWord 32 0x00372073 = some (.tlbinvPage 18 27) ∧
    decodeTableWord 32 0x00B60073 = some (.tlbinvCtx 27) ∧
    decodeTableWord 32 0x00012075 = some (.crumbMark 18) ∧
    decodeTableWord 32 0x0040003B = some .fenceI ∧
    decodeTableWord 32 0x0080003B = some .commit ∧
    decodeTableWord 32 0x00400071 = some .eret ∧
    decodeTableWord 32 0x01000071 = some .halt ∧
    decodeTableWord 32 0x01000073 = some .tlbinvAll := by decide

theorem test_decode_harvest_to_harvest :
    decodeTableWord 32 0x00400073 = some .harvest := by decide

/-! ## Ill-formed terms (R96 step 3) -/

theorem test_wf_scalar_fp : ∀ i ∈ [Instr.fadd .bf16 1 2 3, .fsub .bf16 1 2 3, .fmul .f16 1 2 3, .fdiv .e4m3 1 2 3, .fsqrt .i32 1 2, .fmin .q4 1 2 3,
    .fmax .bf16 1 2 3, .fcmpeq .n8 1 2 3, .fcmplt .f16 1 2 3, .fcmple .bf16 1 2 3, .fcvt .q4 .f32 1 2, .fcvt .f32 .q8 1 2, .fclass .i8 1 2], i.wf = false := by decide

theorem test_wf_control_and_memory : ∀ i ∈ [Instr.loop 0 5, .ldv .w3 1 2 0, .stv .w6 1 2 0, .ldvx .w1 1 2 3, .stvx .w4 1 2 3, .ldtv .w1 1 2 3, .take 4 4,
    .takem 4 4 5, .taket 4 4 5, .barCfg .sys 1 2 3, .barArr .sys 1 2, .barWait .sys 1 2 3, .barStat .sys 1 2 3], i.wf = false := by decide

theorem test_wf_lane_types : ∀ i ∈ [Instr.vadd .b32 .none 1 2 3, .vsub .b8 .none 1 2 3, .vmul .b16 .none 1 2 3, .vmin .b64 .none 1 2 3, .vmax .b32 .none 1 2 3,
    .vabs .n8 .none 1 2, .vneg .n16 .none 1 2, .vcmp .b8 .eq 1 2 3, .vsel .b32 .none 1 2 3, .vand .f32 .none 1 2 3, .vor .bf16 .none 1 2 3, .vxor .f16 .none 1 2 3,
    .vshl .f32 .none 1 2 3, .vshr .bf16 .none 1 2 3, .vsra .f16 .none 1 2 3], i.wf = false := by decide

theorem test_wf_lane_forms : ∀ i ∈ [Instr.vaddF32Q false 0 0, .vcvt .f40 .f32 .none 1 2, .vcvt .f32 .e4m3 .none 1 2, .vpack .f32 .none 1 2 3, .vunpack .i64 .none 1 2 3,
    .vquant .f16 .none 1 2 3, .vdeq .i8 .none 1 2 3, .vredadd .b8 .none 1 2, .vredmax .b16 .none 1 2, .vredmin .b32 .none 1 2, .vscan .b64 .none 1 2, .vaddi .f32 1 2 0,
    .vshli .i32 1 2 32, .vshli .f32 1 2 0], i.wf = false := by decide

/-! ## States of the tests, and witnesses -/

/-- The machine after reset with scalar registers of the running strand set. -/
def withRegs (l : List (Reg × Word)) : State := l.foldl (fun s x => s.wr x.1 x.2) State.reset

/-- The machine after reset with the running strand changed. -/
def withMe (f : Strand → Strand) : State := State.reset.modMe f

/-- The machine about to run `add s1, s2, s3`. -/
def addNext : State := State.reset.withFetchWord 32 0x00062083

theorem witness_DecodeOfEncode : (Instr.add 1 2 3).wf = true ∧ encodeWord (.add 1 2 3) = some (32, 0x00062083) := by decide

theorem witness_EncodeOfDecode : decodeHalves 0x2083 0x0006 = .ok (.add 1 2 3, 32) ∧ decodeHalves 0x0C5A 0xFFFF = .ok (.vmovQ false 2 3, 16) :=
  ⟨rfl, rfl⟩

/-- Whether a step answers a next state. -/
def goesOn (o : Out) : Bool := match o with | .next _ => true | .fault _ => false | .refused _ => false

theorem next_of_goesOn (o : Out) (h : goesOn o = true) : ∃ t, o = .next t := by
  cases o with
  | next t => exact ⟨t, rfl⟩
  | fault _ => cases h
  | refused _ => cases h

theorem addNext_goesOn : goesOn (step addNext) = true := by decide +kernel

theorem witness_StepKeepsCanonical : addNext.Inv ∧ ∃ t, step addNext = .next t := ⟨(by decide : addNext.mem.wf = true), next_of_goesOn _ addNext_goesOn⟩

theorem witness_StepRunsDecoded : ∃ u, addNext.agenda = .issue 0 :: [] ∧
    State.mayIssue { addNext with clock := addNext.clock + 1, agenda := [] } 0 = true ∧
    State.picked { addNext with clock := addNext.clock + 1, agenda := [] } 0 = true ∧ (addNext.strand 0).block = none ∧
    State.ownDue { addNext with clock := addNext.clock + 1, agenda := [], cur := 0 } = false ∧
    State.fetch { addNext with clock := addNext.clock + 1, agenda := [], cur := 0 } = (.ok (0x2083, 6), u) ∧
    decodeHalves 0x2083 6 = .ok (.add 1 2 3, 32) ∧ u.heldBack (.add 1 2 3) = false ∧ u.poisoned (.add 1 2 3) = none :=
  ⟨_, rfl, by decide, by decide +kernel, rfl, by decide, rfl, rfl, by decide, by decide⟩

theorem witness_FetchReadsMemory : ∃ l t w, wbit 0 63 = false ∧ addNext.resolve addNext.ci addNext.user .fetch 0 16 = (.ok [l], t) ∧
    (t.me.fetched.find? fun h => h.1 == 0) = none ∧ isHost l.phys = false ∧ t.mem.readGran l.phys = some w :=
  ⟨_, _, _, by decide, rfl, by decide, by decide, rfl⟩

theorem witness_MemoryResults : Mem.wf [] = true ∧ (0xFF : Word) ≠ wholeMask ∧ Mem.readGran [] (hbmAddr 8191 (2 ^ 39 - 64)) = none ∧
    Mem.readGran [] (localAddr 0 (2 ^ 25 - 64)) = some 0 ∧ spaceOf (localAddr 0 64) < 3 ∧ spaceOf (wsAddr 7 64) < 3 := by decide

theorem witness_TrapInstruction : (State.reset.me.status.trapped && State.reset.me.status.mode) = false ∧
    ((withMe fun t => { t with status := ⟨.ready, true, true, true⟩ }).me.status.trapped &&
      (withMe fun t => { t with status := ⟨.ready, true, true, true⟩ }).me.status.mode) = true := by decide

/-- The machine about to run the word 0, whose halfword 0x0000 is no instruction. -/
def zeroNext : State := State.reset.withFetchWord 32 0

theorem witness_IllegalWords : ∃ u e, zeroNext.agenda = .issue 0 :: [] ∧
    State.mayIssue { zeroNext with clock := zeroNext.clock + 1, agenda := [] } 0 = true ∧
    State.picked { zeroNext with clock := zeroNext.clock + 1, agenda := [] } 0 = true ∧ (zeroNext.strand 0).block = none ∧
    State.ownDue { zeroNext with clock := zeroNext.clock + 1, agenda := [], cur := 0 } = false ∧
    State.fetch { zeroNext with clock := zeroNext.clock + 1, agenda := [], cur := 0 } = (.ok (0, 0), u) ∧
    decodeHalves 0 0 = .error e ∧ (zeroNext.me.status.trapped && zeroNext.me.status.mode) = false :=
  ⟨_, _, rfl, by decide, by decide +kernel, rfl, by decide, rfl, rfl, by decide⟩

theorem witness_PrivilegedInstructions : (withMe fun t => { t with status := ⟨.ready, true, false, true⟩ }).me.status.mode = true ∧
    State.reset.user = true ∧ (∃ x, ctlInfo 0x043 = some x ∧ x.userR = false) ∧ ∃ x, ctlInfo 0x002 = some x ∧ x.userW = false :=
  ⟨by decide, by decide, ⟨_, rfl, by decide⟩, _, rfl, by decide⟩

/-- A strand whose region stores to a watched granule. -/
def watching : State :=
  (withMe fun t => { t with region := [⟨1, 1, localAddr 0 64, 0xE000000000000040, wholeMask, 0, none, none, false, 64⟩] }).modHome (.core 0) fun h =>
    { h with watch := [⟨localAddr 0 64, 5, .waiter 0 1 0 0⟩] }

theorem witness_ScalarResultFrame : (1 : Reg) ≠ 0 ∧ (2 : Reg) ≠ 1 := by decide

theorem witness_BitPointerResults : ((0x7FFF_FFFF_FFFF_FFFF : Word).getLsbD 63 = false) ∧
    ((0xB000_0000_0000_0000 : Word).getLsbD 63 = true ∧ State.reset.winDecode State.reset.ci 0xB000_0000_0000_0000 = none) ∧
    (0xE000_0000_01FF_FFFF : Word).getLsbD 63 = true ∧ ∃ w, State.reset.winDecode State.reset.ci 0xE000_0000_01FF_FFFF = some w :=
  ⟨by decide, ⟨by decide, by decide⟩, by decide, _, rfl⟩

/-- A strand whose instruction has waited for the walk of page 0, which gave no page. -/
def faulting : State := withMe fun t => { t with walked := [⟨false, 0, .page⟩] }

theorem witness_RegionResults :
    (∃ k p u, faulting.resolve faulting.ci faulting.user .load (faulting.ea 1 (0 : BitVec 10) 8) 8 = (.error (.page k p), u)) ∧
    (∃ k p u, (faulting.rd 1).toNat % 64 + 8 ≤ 64 ∧ faulting.splits (faulting.rd 1) 8 = false ∧
      faulting.resolve faulting.ci faulting.user (.atomic true) (faulting.rd 1) 8 = (.error (.page k p), u) ∧ u.unwatched []) ∧
    State.reset.unwatched [] ∧ ∃ a, lowestWatched watching watching.ci watching.me.regionGrans = some a :=
  ⟨⟨_, _, _, rfl⟩, ⟨_, _, _, by decide, by decide +kernel, rfl, rfl⟩, rfl, 0xE000000000000040, by decide⟩

theorem witness_FloatSpecialValues :
    fdecode .f32 false 0x7FC00000 = .nan ∧ fdecode .f32 false 0x3F800000 ≠ .nan ∧ fdecode .f32 false 0x7F800000 = .inf false ∧
    fdecode .f32 false 0xFF800000 = .inf true ∧ (∃ e, fdecode .f32 false 0x80000000 = .fin true 0 e) ∧ (∃ e, fdecode .f32 false 0 = .fin false 0 e) ∧
    (∃ m e, fdecode .f32 false 0xBF800000 = .fin true m e ∧ m ≠ 0) ∧ (∃ m n e, fdecode .f32 false 0x3F800000 = .fin false m n ∧ m ≠ 0 ∧
      fdecode .f32 false 0 = .fin false 0 e ∧ n ≠ e) ∧ Ty.i8.isFp = false ∧ Ty.n8.isSigned = false :=
  ⟨by decide, by decide, by decide, by decide, ⟨_, rfl⟩, ⟨_, rfl⟩, ⟨_, _, rfl, by decide⟩, ⟨_, _, _, rfl, by decide, rfl, by decide⟩, rfl, rfl⟩

theorem witness_ScalarFloatResults : fdecode .f32 (State.reset.fpEnv State.reset.ci).nanm 0x3F800000 ≠ .nan := by decide

theorem witness_LaneIntegerResults : LTy.i8.isFp = false ∧ State.reset.unbound [24, 1, 31] ∧
    ((0 : BitVec 9).toInt ≥ 0 ∧ (7 : BitVec 9).toInt < LTy.i8.bits) ∧ ((BitVec.ofInt 9 (-1)).toInt < 0 ∧ (LTy.i8.bits : Int) ≤ (8 : BitVec 9).toInt) :=
  ⟨by decide, by intro r _; revert r; decide, by decide, by decide⟩

theorem witness_ShortLaneForms : State.reset.unbound [2, 3] ∧ ∀ e < 32, fdecode .f32 (State.reset.fpEnv State.reset.ci).nanm (State.reset.el 3 32 e) ≠ .nan := by
  refine ⟨by intro r _; revert r; decide, by decide +kernel⟩

theorem witness_LaneFloatResults : State.reset.unbound [1, 2, 3, 4] ∧ LTy.f16.isFp = true ∧ (Instr.vpack .e4m3 .none 1 2 3).wf = true ∧
    (Instr.vquant .q4 .m2 1 2 3).wf = true := by
  refine ⟨by intro r _; revert r; decide, by decide, by decide, by decide⟩

theorem witness_LaneMoves : State.reset.unbound [1, 2, 3] ∧ mselReg .m2 = some 2 ∧ State.reset.rdM 1 = 0 ∧
    ((State.reset.wrM 1 0x80000000).rdM 1).getLsbD 31 = true ∧ ∀ j < 31, ((State.reset.wrM 1 0x80000000).rdM 1).getLsbD j = false := by
  refine ⟨by intro r _; revert r; decide, by decide, by decide, by decide, by decide⟩

theorem witness_LaneReductions : State.reset.unbound [1, 2, 3] ∧ LTy.i16.isFp = false ∧ LTy.bf16.isFp = true ∧
    State.reset.isActive .none 16 63 = true ∧ (∀ e < 64, State.reset.isActive .m1 16 e = false) := by
  refine ⟨by intro r _; revert r; decide, by decide, by decide, by decide, by decide⟩

/-- The bf16 elements of v2 are ones, or NaNs, and those of v1 are zeros. -/
def bfRegs (e : Nat) : State := withMe fun t => { t with regs := t.regs.wrV 2 (BitVec.ofNat 1024 ((List.replicate 64 e).foldl (fun x y => x * 65536 + y) 0)) }

theorem witness_LaneReductions_floats : (∀ e ∈ [0x3F80, 0x7FC0], (bfRegs e).unbound [1, 2]) ∧
    (let s := bfRegs 0x3F80
     s.isActive .none 16 0 = true ∧ fdecode .f32 s.laneEnv.nanm (cvtFF .f32 .bf16 s.laneEnv 0 (s.el 2 16 0)).1 ≠ .nan) ∧
    (let s := bfRegs 0x7FC0
     s.isActive .none 16 0 = true ∧ ∀ e < 64, fdecode .f32 s.laneEnv.nanm (cvtFF .f32 .bf16 s.laneEnv 0 (s.el 2 16 e)).1 = .nan) := by
  refine ⟨?_, by decide +kernel, by decide +kernel⟩
  intro e he r _
  simp only [List.mem_cons, List.not_mem_nil, or_false] at he
  rcases he with rfl | rfl <;> revert r <;> decide

/-- The machine with words from offset 0 of core 0's local memory on. -/
def withWords (s : State) (ws : List Word) : State :=
  { s with mem := (ws.zipIdx.foldl (fun m x => m.writeGran (localAddr 0 (64 * x.2)) x.1) s.mem) }

/-- The running strand with the words it has loaded from an address for its instruction. -/
def withGot (s : State) (a : Word) (ws : List Word) : State :=
  s.modMe fun t => { t with got := (a.toNat, 64 * ws.length, some (joinWords ws)) :: t.got }

/-- The strand's self-window address of an offset. -/
def selfAt (off : Nat) : Word := ofN (0xE000000000000000 + off)

/-- Whether an address resolves, with what a condition asks. -/
def oks {ε α : Type} (p : α → State → Bool) (r : Except ε α × State) : Bool := match r.1 with | .ok x => p x r.2 | .error _ => false

theorem of_oks {ε α : Type} (p : α → State → Bool) (r : Except ε α × State) (h : oks p r = true) : ∃ x u, r = (.ok x, u) ∧ p x u = true := by
  obtain ⟨a, u⟩ := r
  cases a with
  | ok x => exact ⟨x, u, rfl, h⟩
  | error _ => cases h

/-- Whether all elements resolve, with what a condition asks. -/
def allOk (p : List (Word × List Cut) → State → Bool) (r : (List (Word × List Cut) × Option (Word × Stop)) × State) : Bool :=
  r.1.2.isNone && p r.1.1 r.2

theorem of_allOk (p : List (Word × List Cut) → State → Bool) (r : (List (Word × List Cut) × Option (Word × Stop)) × State) (h : allOk p r = true) :
    ∃ xs u, r = ((xs, none), u) ∧ p xs u = true := by
  obtain ⟨⟨xs, e⟩, u⟩ := r
  cases e with
  | none => exact ⟨xs, u, rfl, h⟩
  | some _ => cases h

/-- A strand of activation 1 on core 0. -/
def running : State := withMe fun t => { t with act := 1, bound := true, seq := 1 }

/-- A tail stream of one f32 element at offset 0x400. -/
def tailWords : List Word := [selfAt 0x400, 0x40, 0x0000010000100001, 0, 0, 0, 0, 0]

/-- The machine with that descriptor at offset 0, and its address in s1. -/
def streamAt : State := withGot (withRegs [(1, selfAt 0)]) (selfAt 0) tailWords

/-- A strand with that stream bound to v24. -/
def tailBound (pos : Nat) : State := withMe fun t => { t with streams := some ⟨tailWords, pos⟩ :: List.replicate 7 none }

theorem streamAt_unbound : ∀ r, streamAt.boundStream r = none := by decide

theorem witness_StreamInstructions :
    (streamAt.me.streams.length = 8 ∧ (streamAt.rd 1).toNat % 512 = 0 ∧ streamAt.loaded (streamAt.rd 1) 8 tailWords ∧
      24 ≤ (24 : Reg).val ∧ (23 : Reg).val < 24 ∧ streamRejects tailWords = false ∧ ∀ r x, r ≠ 24 → streamAt.boundStream r = some x → x.isTail = false) ∧
    ((tailBound 0).isBound 24 = true ∧ (tailBound 0).isBound 25 = false ∧ (tailBound 0).me.streams.length = 8) ∧
    (∃ x, (tailBound 0).boundStream 24 = some x ∧ (tailBound 0).me.tailStream = some x ∧ x.pos < x.total ∧ x.lane.bits ≠ LTy.i8.bits) ∧
    (∃ x, (tailBound 1).boundStream 24 = some x ∧ (tailBound 1).me.tailStream = some x ∧ x.total ≤ x.pos) ∧ State.reset.me.tailStream = none := by
  refine ⟨⟨by decide, by decide, ⟨_, rfl, by decide⟩, by decide, by decide, by decide, ?_⟩, by decide, ⟨_, rfl, rfl, by decide, by decide⟩, ⟨_, rfl, rfl, by decide⟩, by decide⟩
  intro r x _ h; rw [streamAt_unbound] at h; cases h

/-- A strand whose loaded words are uncorrectable. -/
def badGot : State := withMe fun t => { t with got := [(64, 64, none)] }

theorem witness_LoadsIssue :
    (∃ ls u, streamAt.resolve streamAt.ci streamAt.user .load (streamAt.rd 1 + BitVec.ofInt 64 ((0 : BitVec 10).toInt * Width.w32.bits)) Width.w32.bits = (.ok ls, u) ∧ true) ∧
    (streamAt.isBound 24 = false ∧
      ∃ ls u, streamAt.resolve streamAt.ci streamAt.user .load (streamAt.rd 1 + BitVec.ofInt 64 ((1 : BitVec 9).toInt * 1024)) 1024 = (.ok ls, u) ∧ true) ∧
    (∃ xs u, streamAt.resolveElems .load 64 ((List.range (1024 / 64)).map fun e => streamAt.rd 1 + sextW 64 (streamAt.el 2 64 e) * ofN 64) = ((xs, none), u) ∧
      true) ∧
    (streamAt.isBound 2 = false ∧ (gransOf 0 1).length = 1 ∧ 0 < 1) ∧
    (∃ ws, streamAt.loaded (selfAt 0) 8 ws) ∧ badGot.me.gotten (64 : Word).toNat (64 * 1) = some none ∧
    (streamAt.me.gotten (selfAt 0x800).toNat (64 * 8) = none ∧
      ∃ ls u, streamAt.resolve streamAt.ci streamAt.user .load (selfAt 0x800) (64 * 8) = (.ok ls, u) ∧ true) ∧
    (running.strandOfAct running.ci running.me.act = some running.cur ∧ running.me.out = [] ∧
      ∃ p : Part, (mkAccess 0 [p] [] .ack).written = false ∧ p.op = .read ∧ p.sent = false ∧ p.valued = false) :=
  ⟨of_oks _ _ (by decide +kernel), ⟨by decide, of_oks _ _ (by decide +kernel)⟩, of_allOk _ _ (by decide +kernel), by decide, ⟨_, _, rfl, rfl⟩, by decide,
    ⟨by decide, of_oks _ _ (by decide +kernel)⟩, by decide, by decide, mkPart 0 .read false (0, 0), by decide⟩

theorem witness_StoresBuffer :
    (∃ ls u, streamAt.resolve streamAt.ci streamAt.user .store (streamAt.rd 1 + BitVec.ofInt 64 ((1 : BitVec 10).toInt * Width.w3.bits)) Width.w3.bits = (.ok ls, u) ∧
      decide (u.me.bufUsed + (cutsOf (scalarStep (selfAt 3).toNat 3) (selfAt 3).toNat 3 ls).length ≤ 512) = true) ∧
    streamAt.rd 1 + BitVec.ofInt 64 ((1 : BitVec 10).toInt * Width.w3.bits) = selfAt 3 ∧
    (streamAt.rd 1 + BitVec.ofInt 64 ((1 : BitVec 10).toInt * Width.w3.bits)).toNat + 3 ≤ 2 ^ 64 ∧ streamAt.isBound 24 = false ∧ streamAt.isBound 2 = false ∧
    ∃ xs u, streamAt.resolveElems .store 64 ((List.range (1024 / 64)).map fun e => streamAt.rd 1 + sextW 64 (streamAt.el 2 64 e) * ofN 64) = ((xs, none), u) ∧
      decide (u.me.bufUsed + (xs.map fun y => y.2.length).sum ≤ 512) = true :=
  ⟨of_oks (fun (ls : List Loc) u => decide (u.me.bufUsed + (cutsOf (scalarStep (selfAt 3).toNat 3) (selfAt 3).toNat 3 ls).length ≤ 512)) _ (by decide +kernel),
    by decide, by decide, by decide, by decide,
    of_allOk (fun xs u => decide (u.me.bufUsed + (xs.map fun y => y.2.length).sum ≤ 512)) _ (by decide +kernel)⟩

/-- A vector store at an address that is no multiple of 64 takes 17 entries (R150). -/
theorem witness_StoresBuffer_stv : streamAt.isBound 2 = false ∧
    ∃ ls u, streamAt.resolve streamAt.ci streamAt.user .store (streamAt.rd 1 + BitVec.ofInt 64 ((1 : BitVec 9).toInt * 1024)) 1024 = (.ok ls, u) ∧
      decide ((streamAt.rd 1 + BitVec.ofInt 64 ((1 : BitVec 9).toInt * 1024)).toNat + 1024 ≤ 2 ^ 64 ∧
        ls.length = (gransOf (streamAt.rd 1 + BitVec.ofInt 64 ((1 : BitVec 9).toInt * 1024)).toNat 1024).length ∧ u.me.bufUsed + ls.length ≤ 512) = true :=
  ⟨by decide, of_oks (fun (ls : List Loc) u => decide ((streamAt.rd 1 + BitVec.ofInt 64 ((1 : BitVec 9).toInt * 1024)).toNat + 1024 ≤ 2 ^ 64 ∧
        ls.length = (gransOf (streamAt.rd 1 + BitVec.ofInt 64 ((1 : BitVec 9).toInt * 1024)).toNat 1024).length ∧ u.me.bufUsed + ls.length ≤ 512)) _
    (by decide +kernel)⟩

/-- A strand whose slot 63 is in a state, of a kind. -/
def slotIs (st : SlotState) (k : SlotKind) : State :=
  withMe fun t => { t with slots := t.slots.set 63 { Slot.init with state := st, kind := k, value := 5 } }

theorem witness_TaggedRequests : (slotIs .pending .scalar).me.slots[(63 : Tag).val].state ≠ .free ∧ State.reset.me.slots[(63 : Tag).val].state = .free := by
  decide

theorem witness_TakeResults : ((1 : Reg) ≠ 2 ∨ (1 : Reg) = 0) ∧ ((0 : Reg) ≠ 0 ∨ (0 : Reg) = 0) ∧
    (∀ k ∈ [SlotKind.scalar, .vector, .sfu], (slotIs .landed k).me.firstArrived (BitVec.allOnes 64) = some 63 ∧
      (slotIs .landed k).me.slots[(63 : Tag).val].state = .landed ∧ (slotIs .landed k).me.slots[(63 : Tag).val].kind = k ∧ (slotIs .landed k).isBound 24 = false) ∧
    ((slotIs .faulted .scalar).me.firstArrived (BitVec.allOnes 64) = some 63 ∧ (slotIs .faulted .scalar).me.slots[(63 : Tag).val].state = .faulted ∧
      wbit (slotIs .faulted .scalar).myCore.lfmode 0 = false ∧ (slotIs .faulted .scalar).me.slots[(63 : Tag).val].kind ≠ .vector) ∧
    wbit ((slotIs .faulted .scalar).modMyCore fun k => { k with lfmode := 1 }).myCore.lfmode 0 = true ∧
    (State.reset.me.firstArrived (BitVec.allOnes 64) = none ∧ ∀ i : Fin 64, State.reset.me.slots[i].coming = false) ∧
    ((slotIs .pending .scalar).me.firstArrived (BitVec.allOnes 64) = none ∧ (slotIs .pending .scalar).me.slots[(63 : Fin 64)].coming = true ∧
      (slotIs .pending .scalar).me.slots[(63 : Fin 64)].drop = false) := by
  decide +kernel

theorem witness_SlotInstructions : (withRegs [(1, 0xBF)]).rd 1 = ofN (0x80 + (63 : Tag).val) ∧ State.reset.unlogged ∧ (State.reset.rd 1).getLsbD 7 = false ∧
    ((slotIs .pending .scalar).wr 1 (ofN (2 ^ 63))).rd 1 = ofN (2 ^ (63 : Tag).val) ∧ (slotIs .faulted .scalar).me.slots[(63 : Tag).val].state = .faulted ∧
    (slotIs .pending .scalar).me.slots[(63 : Fin 64)].coming = true ∧ (slotIs .landed .scalar).me.slots[(63 : Fin 64)].coming = false :=
  ⟨by decide, fun _ => rfl, by decide, by decide, by decide, by decide, by decide⟩

/-- s1 names offset 0 of the core's own memory, s2 offset 0x200. -/
def twoRegs : State := withRegs [(1, selfAt 0), (2, selfAt 0x200)]

theorem witness_AtomicsIssue : (∃ l u, (twoRegs.rd 1).toNat % 64 + 64 ≤ 64 ∧ twoRegs.resolve twoRegs.ci twoRegs.user (.atomic true) (twoRegs.rd 1) 64 = (.ok [l], u) ∧
      twoRegs.splits (twoRegs.rd 1) 64 = false ∧ wbit u.myCore.det 0 = false ∧ u.unwatched [(l.phys, ofN ((twoRegs.rd 1).toNat / 64 * 64))]) ∧
    ((withRegs [(1, selfAt 1)]).rd 1).toNat % 64 + 64 > 64 :=
  ⟨⟨_, _, by decide, rfl, by decide +kernel, by decide, rfl⟩, by decide⟩

/-- A strand with a committed store that is not performed. -/
def storing : State := withMe fun t => { t with drain := [⟨0, 0, localAddr 0 64, 0xE000000000000040, wholeMask, 0, none, none, false, 64⟩], seq := 1 }

theorem witness_FenceResults : State.reset.unwatched [] ∧ State.reset.committed.me.storesDone 0 = true ∧ storing.unwatched [] ∧
    storing.committed.me.storesDone 0 = false := ⟨rfl, by decide, rfl, by decide⟩

/-- A message image for rank 7 and a target of 3 at offset 0. -/
def armWords : List Word := [0x10, 0, 0, 0, 0, 0, 0, 0, 7, 3]

/-- The machine with it, s1 at it and s2 at a counter; rank 7 is mapped or not. -/
def armAt (mapped : Bool) : State :=
  let s := withGot twoRegs (selfAt 0) armWords
  if mapped then { s with ranks := [(s.rankKey 0 7, 0x40000000)] } else s

theorem witness_CounterInstructions : ((withRegs [(2, selfAt 63)]).rd 2).toNat % 64 ≠ 0 ∧ (twoRegs.rd 2).toNat % 64 = 0 ∧
    (∃ l u, twoRegs.resolve twoRegs.ci twoRegs.user (.atomic false) (twoRegs.rd 2) 64 = (.ok [l], u) ∧ isWs l.phys = false ∧ isHost l.phys = false ∧
      u.unwatched [] ∧ (twoRegs.rd 3).msb = false ∧ (twoRegs.rd 1).msb = true) ∧
    ∀ mapped, ∃ l u, (armAt mapped).resolve (armAt mapped).ci (armAt mapped).user .load ((armAt mapped).rd 2) 64 = (.ok [l], u) ∧ isWs l.phys = false ∧
      isHost l.phys = false ∧ ((armAt mapped).rd 1).toNat % 64 = 0 ∧ u.loaded ((armAt mapped).rd 1) 10 armWords ∧ (Msg.ofWords armWords).kind ≤ 1 ∧
      (wordAt armWords 0).toNat % 16 = 0 ∧ u.unwatched [] ∧ wfld (wordAt armWords 8) 24 40 = 0 ∧
      rankState (u.rankEntry u.ci (wfld (wordAt armWords 8) 0 24)) = if mapped then 1 else 0 := by
  refine ⟨by decide, by decide, ⟨_, _, rfl, by decide, by decide, rfl, by decide, by decide⟩, ?_⟩
  intro mapped
  cases mapped
  · exact ⟨_, _, rfl, by decide, by decide, by decide, ⟨_, rfl, by decide⟩, by decide, by decide, rfl, by decide, by decide⟩
  · exact ⟨_, _, rfl, by decide, by decide, by decide, ⟨_, rfl, by decide⟩, by decide, by decide, rfl, by decide, by decide⟩

/-- A strand that has loaded a message image of zeros from offset 0. -/
def zerosAt : State := withGot twoRegs (selfAt 0) (List.replicate 8 0)

theorem witness_RingInstructions :
    (∃ l l1 l2 l3 k u v, (twoRegs.rd 1).toNat % 256 = 0 ∧ (twoRegs.rd 2).toNat % 64 = 0 ∧
      twoRegs.resolve twoRegs.ci twoRegs.user .store (twoRegs.rd 1) 256 = (.ok [l, l1, l2, l3], u) ∧
      u.resolve u.ci u.user .load (twoRegs.rd 2) 64 = (.ok [k], v) ∧ v.unwatched [] ∧ u.resolve u.ci u.user .store (twoRegs.rd 2) 64 = (.ok [k], v) ∧
      ([l, l1, l2, l3, k].all fun x => !isWs x.phys && !isHost x.phys) = true) ∧
    ((withRegs [(1, selfAt 64)]).rd 1).toNat % 256 ≠ 0 ∧
    (∃ l l1 l2 l3 u, twoRegs.resolve twoRegs.ci twoRegs.user .load (twoRegs.rd 1) 256 = (.ok [l, l1, l2, l3], u)) ∧
    (zerosAt.loaded (zerosAt.rd 1) 8 (List.replicate 8 0) ∧ (wordAt (List.replicate 8 0) 0).toNat % 16 = 0 ∧ zerosAt.unwatched []) ∧
    ∃ ls u, twoRegs.resolve twoRegs.ci twoRegs.user .store (twoRegs.rd 1) 512 = (.ok ls, u) ∧
      (!ls.isEmpty && ls.all (fun l => !isWs l.phys && !isHost l.phys) &&
        (lowestWatched u u.ci (u.me.regionGrans ++ ((ls.map (·.phys)).zip ((gransUp (twoRegs.rd 1).toNat 8).map ofN))) == none)) = true := by
  refine ⟨⟨_, _, _, _, _, _, _, by decide, by decide, rfl, rfl, rfl, rfl, by decide⟩, by decide, ⟨_, _, _, _, _, rfl⟩, ⟨⟨_, rfl, by decide⟩, by decide, rfl⟩, ?_⟩
  exact of_oks (fun (ls : List Loc) u => !ls.isEmpty && ls.all (fun l => !isWs l.phys && !isHost l.phys) &&
        (lowestWatched u u.ci (u.me.regionGrans ++ ((ls.map (·.phys)).zip ((gransUp (twoRegs.rd 1).toNat 8).map ofN))) == none)) _ (by decide +kernel)

theorem witness_MessageInstructions :
    ((zerosAt.rd 1).toNat % 64 = 0 ∧ zerosAt.loaded (zerosAt.rd 1) 8 (List.replicate 8 0) ∧ (Msg.ofWords (List.replicate 8 0)).kind ≤ 1 ∧
      (Msg.ofWords (List.replicate 8 0)).w0.toNat % 16 = 0 ∧ zerosAt.unwatched []) ∧
    (0 < ((withRegs [(2, 256)]).rd 2).toNat ∧ ((withRegs [(2, 256)]).rd 2).toNat ≤ 256) ∧
    (wfld ((withRegs [(3, 0x0100000000000000)]).rd 3) 56 4 ≤ 1 ∧ ((withRegs [(1, 0x10)]).rd 1).toNat % 16 = 0) ∧
    (1 < wfld ((withRegs [(3, 0x0200000000000000)]).rd 3) 56 4) ∧ State.reset.rd 1 = 0 ∧ (withRegs [(1, 65536)]).rd 1 ≠ 0 := by
  refine ⟨⟨by decide, ⟨_, rfl, by decide⟩, by decide, by decide, rfl⟩, by decide, by decide, by decide, by decide, by decide⟩

/-- A strand with a completion counter, of an activation whose tagged load is still under way, or of one with none. -/
def ending (coming : Bool) (compl : Word) : State :=
  let s := if coming then slotIs .pending .scalar else State.reset
  s.modMe fun t => { t with compl := compl }

/-- A strand at handler 0 whose core has a message for it, sent in a NaN mode. -/
def receiving (nan : Bool) : State :=
  State.reset.modCore 0 fun k => { k with inbox := [⟨{ Msg.init with w1 := if nan then ofN (2 ^ 61) else 0 }, 0⟩] }

theorem unlogged_modCore (s : State) (k : Nat) (f : Core → Core) (h : s.unlogged) (hf : ∀ x, (f x).det = x.det) : (s.modCore k f).unlogged := by
  intro c
  by_cases hc : c = k
  · subst hc; rw [State.core_modCore, hf]; exact h c
  · rw [State.core_modCore_ne _ _ _ _ hc]; exact h c

theorem receiving_unlogged (nan : Bool) : (receiving nan).unlogged := unlogged_modCore State.reset 0 _ (fun _ => rfl) (fun _ => rfl)

theorem witness_ActivationEnds_recv : (∀ x ∈ (State.reset.core State.reset.ci).inbox, x.msg.w0 = State.reset.me.handler → State.reset.nanMatches State.reset.ci x.msg = true) ∧
    ∀ nan, ∃ x, let s := receiving nan
      s.me.capsule = none ∧ s.me.block = none ∧ s.unwatched [] ∧ s.unlogged ∧ s.me.gate = false ∧ (s.core s.ci).inbox = [x] ∧ x.msg.w0 = s.me.handler ∧
        s.nanMatches s.ci x.msg = !nan ∧ s.recvFor s.ci s.me.handler = none ∧ (s.core s.ci).deque = [] ∧ (s.core s.ci).resume = [] ∧
        s.recvFor s.ci x.msg.w0 = none ∧ (s.core s.ci).park = false ∧ s.dieRuns (dieOf s.ci) = true ∧ s.resumeHeld s.ci = none ∧ s.me.compl = 0 := by
  refine ⟨by decide, fun nan => ?_⟩
  cases nan
  · exact ⟨_, rfl, rfl, rfl, receiving_unlogged false, rfl, rfl, by decide, by decide, by decide, by decide, by decide, by decide, by decide, by decide, by decide⟩
  · exact ⟨_, rfl, rfl, rfl, receiving_unlogged true, rfl, rfl, by decide, by decide, by decide, by decide, by decide, by decide, by decide, by decide, by decide⟩

theorem witness_ActivationEnds :
    ((ending true 0).me.capsule = none ∧ (ending true 0).me.block = none ∧ (ending true 0).unwatched [] ∧
      ((ending true 0).committed.modMe fun t => { t with block := some (.ending .die) }).endReady (ending true 0).cur .die = false) ∧
    ((ending false 0).me.capsule = none ∧ (ending false 0).me.block = none ∧ (ending false 0).unwatched [] ∧ (ending false 0).me.compl = 0 ∧
      ((ending false 0).committed.modMe fun t => { t with block := some (.ending .die) }).endReady (ending false 0).cur .die = true) ∧
    ((ending false 64).me.capsule = none ∧ (ending false 64).me.block = none ∧ (ending false 64).unwatched [] ∧ (ending false 64).me.compl ≠ 0 ∧
      ((ending false 64).committed.modMe fun t => { t with block := some (.ending .die) }).endReady (ending false 64).cur .die = true) := by
  refine ⟨⟨rfl, rfl, rfl, ?_⟩, ⟨rfl, rfl, rfl, rfl, ?_⟩, rfl, rfl, rfl, by decide, ?_⟩ <;> decide +kernel

theorem witness_StoresAndEndsComplete :
    (oks (fun ls u => decide (u.me.bufUsed + (cutsOf (scalarStep (selfAt 3).toNat 3) (selfAt 3).toNat 3 ls).length ≤ 512))
      (streamAt.resolve streamAt.ci streamAt.user .store (selfAt 3) 3) = true ∧ (selfAt 3).toNat + 3 ≤ 2 ^ 64 ∧ streamAt.isBound 24 = false) ∧
    (let eas := (List.range (1024 / 64)).map fun e => streamAt.rd 1 + sextW 64 (streamAt.el 2 64 e) * ofN 64
     allOk (fun xs _ => decide (streamAt.me.bufUsed + (xs.map fun y => y.2.length).sum ≤ 512)) (streamAt.resolveElems .store 64 eas) = true ∧
       (eas.all fun ea => decide (ea.toNat + 64 ≤ 2 ^ 64)) = true) ∧
    (wbit (selfAt 0x1FFFFC0) 63 = true ∧ streamAt.winCheck streamAt.ci true .store (selfAt 0x1000) 64 = none) ∧
    ((∀ i : Fin 64, (ending false 64).me.slots[i].coming = false) ∧ (ending false 64).ownWrites (ending false 64).ci (ending false 64).me.act = false ∧
      (ending false 64).me.compl ≠ 0 ∧ (ending false 64).me.out = [] ∧ (ending false 64).me.drain = [] ∧ (ending false 64).me.region = [] ∧
      (ending false 64).me.fences = []) ∧
    (∃ l, (ending false (selfAt 64)).addPlace 0 (ending false (selfAt 64)).me.compl.toNat = .ok l ∧ true = true) := by
  refine ⟨by decide +kernel, by decide +kernel, by decide, by decide +kernel, ?_⟩
  have h : oks (fun _ _ => true) ((ending false (selfAt 64)).addPlace 0 (ending false (selfAt 64)).me.compl.toNat, State.reset) = true := by decide +kernel
  obtain ⟨x, u, h1, _⟩ := of_oks _ _ h
  exact ⟨x, (Prod.mk.inj h1).1, rfl⟩

/-- Barrier 0 of the core, over its eight strands, with strand 0's lead. -/
def barred (lead : Nat) : State :=
  let s := withRegs [(1, selfAt 0), (3, 0)]
  { s with bars := s.bars.set (s.barKey .core s.ci 0) ⟨true, 0xFF, 0, 0, 0, lead :: List.replicate 7 0, List.replicate 8 0⟩ }

/-- A strand that has loaded a barrier descriptor from offset 0: for all eight strands, or of a word 0 that releases an id. -/
def barAt (w0 : Word) : State := withGot (withRegs [(1, selfAt 0)]) (selfAt 0) [w0, 64, 0, 0]

theorem witness_BarrierInstructions :
    (∀ lead ∈ [0, 2, 3], (barred lead).memberOf .core ((barred lead).bars.get ((barred lead).barKey .core (barred lead).ci (wfld ((barred lead).rd 3) 0 4)) Barrier.init) = some 0) ∧
    (State.reset.memberOf .core (State.reset.bars.get (State.reset.barKey .core State.reset.ci (wfld (State.reset.rd 3) 0 4)) Barrier.init) = none) ∧
    (∀ w0 ∈ [(0xFF : Word), 0], ((barAt w0).rd 1).toNat % 256 = 0 ∧ (barAt w0).loaded ((barAt w0).rd 1) 4 [w0, 64, 0, 0] ∧ (barAt w0).unwatched [] ∧
      (barAt w0).barBad .core Barrier.init [w0, 64, 0, 0] = (w0 == 0)) ∧
    (((barred 0).bars.get ((barred 0).barKey .core 0 0) Barrier.init).busy = false ∧ ((barred 3).bars.get ((barred 3).barKey .core 0 0) Barrier.init).busy = true) ∧
    (barred 2).unwatched [] ∧ (barred 3).unwatched [] := by
  refine ⟨by decide, by decide, ?_, by decide, rfl, rfl⟩
  intro w0 h
  simp only [List.mem_cons, List.not_mem_nil, or_false] at h
  rcases h with rfl | rfl
  · exact ⟨by decide, ⟨_, rfl, by decide⟩, rfl, by decide⟩
  · exact ⟨by decide, ⟨_, rfl, by decide⟩, rfl, by decide⟩

/-- The same in supervisor mode. -/
def superState (s : State) : State := s.modMe fun t => { t with status := ⟨.ready, t.status.trapped, t.status.pmode, true⟩ }

theorem witness_ControlRegisters : (superState State.reset).user = false ∧ (∃ x, ctlInfo 0x011 = some x) ∧ ctlInfo 0x3FF = none ∧
    (∃ x, ctlInfo 0x020 = some x ∧ x.ro = true) ∧ ctlForbids 0x001 6 = true ∧ ctlForbids 0x001 5 = false ∧ ctlForbids 0x000 7 = false ∧
    ctlForbids 0x041 0 = false ∧ State.reset.homeQuiet 0 = true ∧
    (State.reset.modHome (.core 0) fun h => { h with arrivals := [⟨1, 1, 0, 0, 0, [0], .read, false, false, 0, false, false, true, .strand, 0⟩] }).homeQuiet 0 = false ∧
    6 ≤ ((withRegs [(1, 6)]).rd 1).toNat ∧ (withRegs [(1, 5)]).rd 1 = ofN 5 ∧ State.reset.ports < 2 ^ 32 ∧ State.reset.recording 0 = false :=
  ⟨by decide, ⟨_, rfl⟩, by decide, ⟨_, rfl, by decide⟩, by decide, by decide, by decide, by decide, by decide, by decide, by decide, by decide, by decide, by decide⟩

theorem witness_PackageOperations : (superState State.reset).user = false ∧ rankEntryOk 0x40000000 = true ∧ (0xFFFFFD : Nat) < 0xFFFFFE ∧
    rankChange 0 0x40000000 = true ∧ rankEntryOk 0xC0000000 = false ∧ rankChange 0 0x80000000 = false := by decide

/-- What EngineCommandsQueue asks of a command: its descriptor has been loaded from offset 0, breaks no rule, and its checks pass. -/
def Queues (s : State) (ws : List Word) (major op eng : Nat) (ctr : Word) (bad : List Word → Bool) (checks : (State → Out) → Out) : Prop :=
  ∃ p q u, (s.rd 1).toNat % 512 = 0 ∧ s.loaded (s.rd 1) 8 ws ∧ s.me.gate = false ∧ bad ws = false ∧ wfld (tlWord major op ws) 1 5 = 0 ∧
    wbit (tlWord major op ws) 0 = false ∧ Pass checks p ∧ Pass (p.namedCounter (tlAddr (tlWord major op ws)) (.atomic false)) q ∧
    Pass (q.namedCounter ctr (.atomic false)) u ∧ u.me.gate = false ∧ u.unwatched [] ∧ u.committed.released .die ∧ (u.eng u.ci eng).queue.length < 16

/-- A strand that has loaded a descriptor from offset 0, with s1 at it and s2 at a counter. -/
def descAt (ws : List Word) : State := withGot twoRegs (selfAt 0) ws

/-- One row of 64 bits, from offset 0x800 to offset 0x1000. -/
def copyWords (dst : Word) : List Word := [selfAt 0x800, dst, 0x0001000000000040, 0, 0, 0, 0, 0]

/-- A table of one row of one f32 element, with n32 indices. -/
def tableWords : List Word := [selfAt 0x2000, 1, ofN (26 * 2 ^ 24 + 32), selfAt 0x3000, 0, 1, 0, 0]

/-- Two members of ranks 0 and 1, one f32 element each. -/
def collWords (w2 : Word) : List Word := [selfAt 0x800, selfAt 0x1000, w2, ofN (2 ^ 24 + 2 ^ 34), 0, 0, 0, 0]

theorem witness_EngineCommandsQueue_copy : ∀ i : Fin 4, let ws := copyWords (selfAt 0x1000)
    Queues (descAt ws) ws 0x34 i.val (copyCtx ws) ((descAt ws).rd 2) (copyBad i.val) ((descAt ws).copyChecks i.val ws) := by
  intro i
  match i with
  | 0 => exact ⟨_, _, _, by decide, ⟨_, rfl, by decide⟩, rfl, by decide, by decide, by decide, fun _ => rfl, fun _ => rfl, fun _ => rfl, rfl, rfl, rfl, by decide⟩
  | 1 => exact ⟨_, _, _, by decide, ⟨_, rfl, by decide⟩, rfl, by decide, by decide, by decide, fun _ => rfl, fun _ => rfl, fun _ => rfl, rfl, rfl, rfl, by decide⟩
  | 2 => exact ⟨_, _, _, by decide, ⟨_, rfl, by decide⟩, rfl, by decide, by decide, by decide, fun _ => rfl, fun _ => rfl, fun _ => rfl, rfl, rfl, rfl, by decide⟩
  | 3 => exact ⟨_, _, _, by decide, ⟨_, rfl, by decide⟩, rfl, by decide, by decide, by decide, fun _ => rfl, fun _ => rfl, fun _ => rfl, rfl, rfl, rfl, by decide⟩

theorem witness_EngineCommandsQueue_wsLoad : let ws := copyWords 0xC000000000000000
    Queues (descAt ws) ws 0x34 4 (copyCtx ws) ((descAt ws).rd 2) (copyBad 4) ((descAt ws).copyChecks 4 ws) :=
  ⟨_, _, _, by decide, ⟨_, rfl, by decide⟩, rfl, by decide, by decide, by decide, fun _ => rfl, fun _ => rfl, fun _ => rfl, rfl, rfl, rfl, by decide⟩

theorem witness_EngineCommandsQueue_sifter :
    (let s := descAt tableWords
     Queues s tableWords 0x35 0 4 (s.rd 2) tabBad fun k => s.checkRanges .load k (tabRanges tableWords)) ∧
    (let ws : List Word := [selfAt 0x800, selfAt 0x1000, 64, 1, 0, 0, 0, 0]
     let s := descAt ws
     let last := wordAt ws 1 + ofN (wfld (wordAt ws 3) 0 13 - 1) * wordAt ws 2
     let row := (s.rowSizes ws).1
     let list := (s.rowSizes ws).2
     Queues s ws 0x35 1 4 (s.rd 2) (siftBad false) (fun k => s.checkRanges .load (fun t => t.checkRanges .store (fun t => t.noHost (gathRuns ws row) k)
       [(wordAt ws 1, row), (last, row)]) [(wordAt ws 0, list)]) ∧
     Queues s ws 0x35 2 4 (s.rd 2) (siftBad true) (fun k => s.checkRanges .load (fun t => t.checkRanges .store (fun t => t.noHost [t.scatRun ws] k)
       [s.scatRun ws]) [(wordAt ws 0, list), (wordAt ws 1, row), (last, row)])) :=
  ⟨⟨_, _, _, by decide, ⟨_, rfl, by decide⟩, rfl, by decide, by decide, by decide, fun _ => rfl, fun _ => rfl, fun _ => rfl, rfl, rfl, rfl, by decide⟩,
   ⟨_, _, _, by decide, ⟨_, rfl, by decide⟩, rfl, by decide, by decide, by decide, fun _ => rfl, fun _ => rfl, fun _ => rfl, rfl, rfl, rfl, by decide⟩,
   ⟨_, _, _, by decide, ⟨_, rfl, by decide⟩, rfl, by decide, by decide, by decide, fun _ => rfl, fun _ => rfl, fun _ => rfl, rfl, rfl, rfl, by decide⟩⟩

theorem witness_EngineCommandsQueue_router :
    (let ws : List Word := [0x1000000, 0x8000000, 0, 0, 0, 0, 0, 0]
     let s := descAt ws
     Queues s ws 0x36 0 5 (s.rd 2) kbindBad fun k => if wordAt ws 2 = 0 then k s else s.checkRanges .store k [(wordAt ws 2, 256)]) ∧
    (let ws : List Word := [selfAt 0x800, 256, selfAt 0x9000, 0, 0, 0, 0, 0]
     let s := descAt ws
     Queues s ws 0x36 1 5 0 ksendBad fun k => s.checkRanges .load (fun t => t.namedCounter (wordAt ws 2) (.atomic false) fun t =>
       t.namedCounter (wordAt ws 3) (.atomic false) k) [(wordAt ws 0, 128 * ksendPairs ws)]) ∧
    (let ws : List Word := [selfAt 0x800, 0, 0, 0, 0, 0, 0, 0]
     let s := descAt ws
     Queues s ws 0x36 2 5 (s.rd 2) kdrainBad fun k => s.checkRanges .store (fun t => t.noHost [(wordAt ws 0, s.drainBits s.ci)] k) [(wordAt ws 0, 128)]) ∧
    ∀ w1 ∈ [0, selfAt 0x4000], let ws : List Word := [0x0000000100000001, w1, 0, 1, 0, 0, 0, 0]
     let s := descAt ws
     wbit (wordAt ws 0) 37 = false ∧ Queues s ws 0x36 3 5 (s.rd 2) topkBad fun k => if wordAt ws 1 = 0 then k s else
       s.namedCounter (wordAt ws 1) (.atomic false) fun t => t.checkRanges (.atomic false) k [(wordAt ws 1, 64 * topkTokens ws)] := by
  refine ⟨⟨_, _, _, by decide, ⟨_, rfl, by decide⟩, rfl, by decide, by decide, by decide, fun _ => rfl, fun _ => rfl, fun _ => rfl, rfl, rfl, rfl, by decide⟩, ⟨_, _, _, by decide, ⟨_, rfl, by decide⟩, rfl, by decide, by decide, by decide, fun _ => rfl, fun _ => rfl, fun _ => rfl, rfl, rfl, rfl, by decide⟩, ⟨_, _, _, by decide, ⟨_, rfl, by decide⟩, rfl, by decide, by decide, by decide, fun _ => rfl, fun _ => rfl, fun _ => rfl, rfl, rfl, rfl, by decide⟩, ?_⟩
  intro w1 h
  simp only [List.mem_cons, List.not_mem_nil, or_false] at h
  rcases h with rfl | rfl
  · exact ⟨by decide, ⟨_, _, _, by decide, ⟨_, rfl, by decide⟩, rfl, by decide, by decide, by decide, fun _ => rfl, fun _ => rfl, fun _ => rfl, rfl, rfl, rfl, by decide⟩⟩
  · exact ⟨by decide, ⟨_, _, _, by decide, ⟨_, rfl, by decide⟩, rfl, by decide, by decide, by decide, fun _ => rfl, fun _ => rfl, fun _ => rfl, rfl, rfl, rfl, by decide⟩⟩

/-- A mailbox configuration with a mask of dead experts. -/
def maskWords : List Word := [0x0000002100000001, selfAt 0x4000, selfAt 0x800, 1, 0, 0, 0, 0]

theorem witness_EngineCommandsQueue_topkMask : wbit (wordAt maskWords 0) 37 = true ∧ topkBad maskWords = false ∧ wfld (wordAt maskWords 4) 1 5 = 0 ∧
    wbit (wordAt maskWords 4) 0 = false ∧ (descAt maskWords).user = true ∧ (descAt maskWords).loaded ((descAt maskWords).rd 1) 8 maskWords ∧
    (descAt maskWords).me.gate = false ∧
    let s := (descAt maskWords).modMe fun t => { t with status := ⟨.ready, false, false, true⟩ }
    s.user = false ∧ Queues s maskWords 0x36 3 5 (s.rd 2) topkBad fun k => s.checkRanges .load (fun t => if wordAt maskWords 1 = 0 then k t else
      t.namedCounter (wordAt maskWords 1) (.atomic false) fun t => t.checkRanges (.atomic false) k [(wordAt maskWords 1, 64 * topkTokens maskWords)])
        [(wordAt maskWords 2, topkExperts maskWords)] :=
  ⟨by decide, by decide, by decide, by decide, by decide, ⟨_, rfl, by decide⟩, rfl, by decide,
   ⟨_, _, _, by decide, ⟨_, rfl, by decide⟩, rfl, by decide, by decide, by decide, fun _ => rfl, fun _ => rfl, fun _ => rfl, rfl, rfl, rfl, by decide⟩⟩

theorem witness_EngineCommandsQueue_fabric :
    (let ws := collWords 1
     Queues (descAt ws) ws 0x37 0 collCtx ((descAt ws).rd 2) (collBad 0) ((descAt ws).collChecks 0 ws)) ∧
    (let ws := collWords 0x100000000001
     Queues (descAt ws) ws 0x37 1 collCtx ((descAt ws).rd 2) (collBad 1) ((descAt ws).collChecks 1 ws)) ∧
    let ws : List Word := [selfAt 0x800, 0x1000, 0, ofN (64 * 2 ^ 24), 0, 0, 0, 0]
    Queues (descAt ws) ws 0x37 2 collCtx ((descAt ws).rd 2) tokBad fun k => (descAt ws).checkRanges .load k [(wordAt ws 0, wfld (wordAt ws 3) 24 16)] :=
  ⟨⟨_, _, _, by decide, ⟨_, rfl, by decide⟩, rfl, by decide, by decide, by decide, fun _ => rfl, fun _ => rfl, fun _ => rfl, rfl, rfl, rfl, by decide⟩,
   ⟨_, _, _, by decide, ⟨_, rfl, by decide⟩, rfl, by decide, by decide, by decide, fun _ => rfl, fun _ => rfl, fun _ => rfl, rfl, rfl, rfl, by decide⟩,
   ⟨_, _, _, by decide, ⟨_, rfl, by decide⟩, rfl, by decide, by decide, by decide, fun _ => rfl, fun _ => rfl, fun _ => rfl, rfl, rfl, rfl, by decide⟩⟩

/-- Operand slots 0 and 1 of the quad claimed. -/
def claimed (s : State) : State := (s.modSlot 0 0 fun y => { y with st := 1 }).modSlot 0 1 fun y => { y with st := 1 }

/-- An OPLOAD of one f16 element into slot 0, and an accumulator command of one f32 cell of tile 0. -/
def loadWords : List Word := [selfAt 0x800, 0, ofN (2 ^ 21 + 2 ^ 14 + 3 * 2 ^ 6), 0, 0, 0, 0, 0]
def moveWords : List Word := [selfAt 0x800, 0, ofN (2 ^ 16 + 2 ^ 8), 0, 0, 0, 0, 0]
def scaleWords : List Word := [ofN (2 ^ 24 + 2 ^ 16 + 1), selfAt 0x800, selfAt 0x900, 0, 0, 0, 0, 0]

theorem witness_MatrixCommandsQueue :
    (State.reset.unwatched [] ∧ State.reset.committed.released .die ∧ State.reset.myCore.mq.length < 16) ∧
    (∀ n < 64, wbit ((claimed (withRegs [(1, 3)])).rd 1) n = true → ((claimed (withRegs [(1, 3)])).slot (quadOf 0) n).st ≠ 0) ∧
    ((∀ m < 63, wbit ((withRegs [(1, 0x8000000000000000)]).rd 1) m = false) ∧ wbit ((withRegs [(1, 0x8000000000000000)]).rd 1) 63 = true ∧
      (State.reset.slot (quadOf 0) 63).st = 0) ∧
    (∃ u, 0 < wfld ((withRegs [(1, 0x80FF)]).rd 1) 8 8 ∧ wfld ((withRegs [(1, 0x0100)]).rd 1) 0 8 + wfld ((withRegs [(1, 0x0100)]).rd 1) 8 8 ≤ tileCount ∧
      Pass (twoRegs.namedCounter (twoRegs.rd 2) (.atomic false)) u) := by
  refine ⟨⟨rfl, rfl, by decide⟩, by decide +kernel, ⟨by decide +kernel, by decide, by decide⟩, ⟨_, by decide, by decide, fun _ => rfl⟩⟩

theorem witness_MatrixCommandsQueue_load : ∃ p u, let s := claimed (descAt loadWords)
    let x := s.mkCmd 0x30 2 0 loadWords (s.rd 1) (s.rd 2)
    let runs := endRuns x.loadRuns ++ x.zeroRun
    (s.rd 1).toNat % 512 = 0 ∧ s.loaded (s.rd 1) 8 loadWords ∧ s.me.gate = false ∧ s.myCore.mq.length < 16 ∧ loadBad loadWords = false ∧
      (s.slot (quadOf s.ci) x.loadSlot).st ≠ 0 ∧
      Pass (fun k => s.checkRanges .load (fun t => t.ownPkg k ((runs.map fun r => [r.1, r.1 + ofN (r.2 - 1)]).flatten)) runs) p ∧
      Pass (p.namedCounter (s.rd 2) (.atomic false)) u ∧ u.me.gate = false ∧ u.unwatched [] ∧ u.committed.released .die ∧ u.myCore.mq.length < 16 :=
  ⟨_, _, by decide, ⟨_, rfl, by decide⟩, rfl, by decide, by decide, by decide, fun _ => rfl, fun _ => rfl, rfl, rfl, rfl, by decide⟩

theorem witness_MatrixCommandsQueue_move : ∃ p u, let s := descAt moveWords
    let runs := fun op => endRuns (s.mkCmd 0x32 op 0 moveWords (s.rd 1) (s.rd 2)).accRuns
    (s.rd 1).toNat % 512 = 0 ∧ s.loaded (s.rd 1) 8 moveWords ∧ s.me.gate = false ∧ accBad moveWords = false ∧ Pass (fun k => s.checkRanges .store k (runs 2)) p ∧
      Pass (fun k => s.checkRanges .load k (runs 3)) p ∧ Pass (p.namedCounter (s.rd 2) (.atomic false)) u ∧ u.me.gate = false ∧ u.unwatched [] ∧
      u.committed.released .die ∧ u.myCore.mq.length < 16 :=
  ⟨_, _, by decide, ⟨_, rfl, by decide⟩, rfl, by decide, fun _ => rfl, fun _ => rfl, fun _ => rfl, rfl, rfl, rfl, by decide⟩

theorem witness_MatrixCommandsQueue_scale : ∃ p u, let s := descAt scaleWords
    (s.rd 1).toNat % 512 = 0 ∧ s.loaded (s.rd 1) 8 scaleWords ∧ s.me.gate = false ∧ scaleBad scaleWords = false ∧
      Pass (fun k => s.checkRanges .load k (scaleRuns scaleWords)) p ∧ Pass (p.namedCounter (s.rd 2) (.atomic false)) u ∧ u.me.gate = false ∧
      u.unwatched [] ∧ u.committed.released .die ∧ u.myCore.mq.length < 16 :=
  ⟨_, _, by decide, ⟨_, rfl, by decide⟩, rfl, by decide, fun _ => rfl, fun _ => rfl, rfl, rfl, rfl, by decide⟩

/-- An f16 task of 1 by 2 by 1 on slots 0 and 1; a lead half with its partner in quad 1; a walker of slots 0 and 1 over one tile. -/
def taskWords : List Word := [ofN (2 ^ 52 + 2 ^ 48 + 2 ^ 16), ofN (2 ^ 48 + 2 ^ 33 + 2 ^ 16), 0, 0, 0, 0, 0, 0]
def halfWords : List Word := [ofN (2 ^ 52 + 2 ^ 48 + 2 ^ 16 + 17), ofN (2 ^ 48 + 2 ^ 33 + 2 ^ 16), 0, 0, 0, 1, 0, 0]
def groupWords : List Word := [selfAt 0x400, 0, 0, 3, ofN (2 ^ 32 + 2 ^ 8), 0, 0, 0]

theorem witness_TileQueueInstructions_task : ∀ ws ∈ [taskWords, halfWords], ∃ p u, let s := claimed (descAt ws)
    let q := quadOf s.ci
    let tk : Task := ⟨ws, s.rd 1, s.ci, s.user, 0, u.myCore.srseed, (u.quad q).stamp⟩
    (s.rd 1).toNat % 512 = 0 ∧ s.loaded (s.rd 1) 8 ws ∧ s.me.gate = false ∧ (∀ n ∈ tk.slots, (s.slot q n).st ≠ 0 ∧ (u.slot q n).pin < 255) ∧
      Pass (s.namedCounter (wordAt ws 2) .load) p ∧ Pass (p.namedCounter (wordAt ws 4) (.atomic false)) u ∧ u.me.gate = false ∧ u.unwatched [] ∧
      u.committed.released .die ∧ ((u.quad q).queue (recQueue ws)).length < 64 := by
  intro ws h
  simp only [List.mem_cons, List.not_mem_nil, or_false] at h
  rcases h with rfl | rfl
  · exact ⟨_, _, by decide, ⟨_, rfl, by decide⟩, rfl, by decide, fun _ => rfl, fun _ => rfl, rfl, rfl, rfl, by decide⟩
  · exact ⟨_, _, by decide, ⟨_, rfl, by decide⟩, rfl, by decide, fun _ => rfl, fun _ => rfl, rfl, rfl, rfl, by decide⟩

theorem witness_TileQueueInstructions_rules : taskBad false taskWords = false ∧ pairBad 0 halfWords = false ∧ grpBad groupWords = false ∧
    ((State.reset.quad 0).queue 0).length < 64 ∧
    ((State.reset.modTq 0 0 fun _ => List.replicate 64 (.task ⟨[], 0, 0, true, 0, 0, 0⟩)).quad 0 |>.queue 0).length ≥ 64 := by decide

theorem witness_TileQueueInstructions_group : ∃ p u, let s := claimed (descAt groupWords)
    let q := quadOf s.ci
    let w : Walker := ⟨groupWords, s.rd 1, s.ci, s.user, u.fpEnv u.ci, s.me.act, (u.quad q).stamp, [], [], 0⟩
    (s.rd 1).toNat % 512 = 0 ∧ s.loaded (s.rd 1) 8 groupWords ∧ s.me.gate = false ∧ (∀ n ∈ w.pool, (s.slot q n).st ≠ 0 ∧ (s.slot q n).pin = 0) ∧
      Pass (s.namedCounter (wordAt groupWords 1) .load) p ∧ Pass (p.namedCounter (wordAt groupWords 2) (.atomic false)) u ∧ u.me.gate = false ∧
      u.unwatched [] ∧ u.committed.released .die ∧ ((u.quad q).queue (wfld (wordAt groupWords 4) 16 2)).length < 64 :=
  ⟨_, _, by decide, ⟨_, rfl, by decide⟩, rfl, by decide, fun _ => rfl, fun _ => rfl, rfl, rfl, rfl, by decide⟩

/-- A strand that holds a capsule of zeros but for its itinerary, of LEN n at position p. -/
def holding (n p : Nat) : State := withMe fun t => { t with capsule := some ⟨0, [0, ofN (p * 2 ^ 38 + n * 2 ^ 33)] ++ List.replicate 22 0⟩ }

theorem witness_CapsuleInstructions : State.reset.me.capsule = none ∧
    (∃ h, (holding 16 3).me.capsule = some h ∧ h.words.length = 24 ∧ capLen h.words = 16 ∧ capPos h.words = 3 ∧ capTbits h.words = (holding 16 3).landedTbits (holding 16 3).ci h) ∧
    (∃ h, (holding 15 3).me.capsule = some h ∧ h.words.length = 24 ∧ capLen h.words < 16 ∧ capPos h.words < 4 ∧ 4 < capLen h.words ∧ ¬(capPos h.words < 3)) ∧
    (withRegs [(1, 0x17)]).rd 1 = ofN (16 + 7) ∧ (withRegs [(1, 0xF)]).rd 1 = ofN (8 + 7) ∧ (holding 16 3).unwatched [] ∧ (holding 16 3).committed.released .die ∧
    (holding 16 3).me.gate = false :=
  ⟨by decide, ⟨_, rfl, by decide, by decide, by decide, by decide⟩, ⟨_, rfl, by decide, by decide, by decide, by decide, by decide⟩, by decide, by decide, rfl, rfl, rfl⟩

theorem of_isNone {α β : Type} (p : α × Option β) (h : p.2.isNone = true) : p = (p.1, none) := by
  obtain ⟨a, b⟩ := p
  cases b with
  | none => rfl
  | some _ => cases h

/-- A strand that holds a capsule whose landed image has a tile of 64 bits, with s1 at offset 0x200. -/
def tiled : State :=
  let s := (withRegs [(1, selfAt 0x200)]).modMe fun t => { t with capsule := some ⟨0, List.replicate 24 0⟩ }
  { s with mem := s.mem.writeGran (localAddr 0 (blockOff 0 + 128)) 64 }

/-- The strand about to write that tile. -/
def tileWriter : State := (tiled.committed.modMe fun t => { t with gate := true, wsGate := [] })

theorem witness_CapsuleInstructions_tile : ∃ h ls g, tiled.me.capsule = some h ∧ h.words.length = 24 ∧ tiled.landedTbits tiled.ci h = 64 ∧ tiled.rd 1 ≠ 0 ∧
    (tiled.rd 1).toNat % 64 = 0 ∧ tiled.me.gate = false ∧ tiled.resolve tiled.ci tiled.user .store (tiled.rd 1) (tiled.landedTbits tiled.ci h) = (.ok ls, tiled) ∧
    tiled.unwatched [] ∧ tiled.committed.released .die ∧ (tiled.io tiled.ownKey).phase = 0 ∧
    State.engPutAll { tileWriter with unit := tiled.ownKey } tileWriter.ci tileWriter.user false isWs
      [⟨tiled.rd 1, tiled.landedTbits tiled.ci h, joinWords (tileWriter.landedTile tileWriter.ci h) % 2 ^ tiled.landedTbits tiled.ci h⟩] = (g, none) :=
  ⟨_, _, _, rfl, rfl, by decide +kernel, by decide, by decide, rfl, rfl, rfl, rfl, by decide, of_isNone _ (by decide +kernel)⟩

/-- The strand after its tile write is performed; and one that has loaded its new tile of no bits. -/
def tileDone : State := ({ tiled with ios := [] }.modMe fun t => { t with gate := true }).modIo tiled.ownKey fun z => { z with phase := 1 }

theorem witness_CapsuleInstructions_done : tileDone.rd 1 ≠ 0 ∧ tileDone.me.gate = true ∧ tileDone.released .die ∧ (tileDone.io tileDone.ownKey).phase = 1 ∧
    (tileDone.io tileDone.ownKey).puts = [] ∧ (tileDone.io tileDone.ownKey).bad = none ∧
    ((tileDone.modMe fun t => { t with got := [((tileDone.rd 1).toNat, 0, some 0)] }).me.gotten (tileDone.rd 1).toNat (capTbits (List.replicate 24 0)) = some (some 0)) := by
  refine ⟨by decide, rfl, rfl, by decide, by decide, by decide, by decide +kernel⟩

/-- A creation descriptor with one stop and a tile of 64 bits, and its class. -/
def newWords : List Word := [selfAt 0x800, selfAt 0xA00, ofN (1 + 64 * 2 ^ 5), 0, 0, 0, 0, 0]
def classWords : List Word := [0x10, ofN (64 + 2 ^ 16), 0, 0]

/-- A strand that has loaded both, the itinerary and the tile. -/
def creating : State := withGot (withGot (withGot (withGot (withRegs [(1, selfAt 0), (2, selfAt 0x200)]) (selfAt 0) newWords) (selfAt 0x200) classWords)
  (selfAt 0xA00) [0]) (selfAt 0x800) [5]

theorem witness_CapsuleInstructions_new :
    (creating.rd 1).toNat % 512 = 0 ∧ (creating.rd 2).toNat % 256 = 0 ∧ creating.loaded (creating.rd 1) 8 newWords ∧ creating.loaded (creating.rd 2) 4 classWords ∧
      capnewBad newWords classWords = false ∧ (wordAt newWords 1).toNat % 64 = 0 ∧ creating.loaded (wordAt newWords 1) (wfld (wordAt newWords 2) 0 5) [0] ∧
      creating.me.gotten (wordAt newWords 0).toNat (wfld (wordAt newWords 2) 5 16) = some (some 5) ∧ creating.unwatched [] ∧ creating.me.gate = false ∧
      creating.committed.released .pkg ∧ capnewBad (List.replicate 8 0) classWords = true :=
  ⟨by decide, by decide, ⟨_, rfl, by decide⟩, ⟨_, rfl, by decide⟩, by decide, by decide, ⟨_, rfl, by decide⟩, by decide +kernel, rfl, rfl, rfl, by decide⟩

/-- The walker's descriptor with its ready counter at offset 0x3000. -/
def appendWords : List Word := [selfAt 0x400, selfAt 0x3000, 0, 3, ofN (2 ^ 32 + 2 ^ 8), 0, 0, 0]

/-- A strand that has loaded it, and a record of zeros. -/
def appending : State := withGot (descAt appendWords) (selfAt 0x200) (List.replicate 8 0)

/-- The strand about to write its copy. -/
def appendWriter : State := appending.committed.modMe fun t => { t with gate := true, wsGate := [] }

theorem witness_TileQueueInstructions_append : ∃ ls u g,
    (appending.rd 1).toNat % 512 = 0 ∧ (appending.rd 2).toNat % 512 = 0 ∧ appending.loaded (appending.rd 1) 8 appendWords ∧ grpBad appendWords = false ∧
      appending.loaded (appending.rd 2) 8 (List.replicate 8 0) ∧ appending.me.gate = false ∧
      appending.resolve appending.ci appending.user .store (wordAt appendWords 0 + 512 * appending.rd 3) 512 = (.ok ls, appending) ∧
      Pass (fun k => appending.counterAddr State.stopAt (wordAt appendWords 1) (.atomic false) fun _ t => k t) u ∧ u.me.gate = false ∧ u.unwatched [] ∧
      u.committed.released .die ∧ (u.io u.ownKey).phase = 0 ∧
      State.engPutAll { appendWriter with unit := appending.ownKey } appendWriter.ci appendWriter.user false isWs
        [⟨wordAt appendWords 0 + 512 * appending.rd 3, 64, (wordAt (List.replicate 8 0) 0).toNat⟩] = (g, none) :=
  ⟨_, _, _, by decide, by decide, ⟨_, rfl, by decide⟩, by decide, ⟨_, rfl, by decide⟩, rfl, rfl, fun _ => rfl, rfl, rfl, rfl, by decide, of_isNone _ (by decide +kernel)⟩

/-- The strand after its copy is performed, or its add too. -/
def appended (n : Nat) : State := (appending.modMe fun t => { t with gate := true }).modIo appending.ownKey fun z => { z with phase := n }

theorem witness_TileQueueInstructions_appended : (∀ n ∈ [1, 7, 8, 9], (appended n).me.gate = true ∧ (appended n).released .die ∧
      ((appended n).io (appended n).ownKey).puts = [] ∧ ((appended n).io (appended n).ownKey).bad = none ∧
      ((appended n).io (appended n).ownKey).phase = n ∧ ((appended n).io (appended n).ownKey).posted = [] ∧ (appended n).me.entries < 32) ∧
    (∀ n ∈ [1, 7], ∃ g, State.engPutAll { appended n with unit := (appended n).ownKey } (appended n).ci (appended n).user false isWs
      [⟨wordAt appendWords 0 + 512 * appending.rd 3 + ofN (64 * n), 64, 0⟩] = (g, none)) ∧
    ∃ l, (appended 8).addPlace (appended 8).ci (wordAt appendWords 1).toNat = .ok l := by
  refine ⟨?_, ?_, ?_⟩
  · intro n h
    simp only [List.mem_cons, List.not_mem_nil, or_false] at h
    rcases h with rfl | rfl | rfl | rfl <;> exact ⟨rfl, rfl, by decide, by decide, by decide, by decide, by decide⟩
  · intro n h
    simp only [List.mem_cons, List.not_mem_nil, or_false] at h
    rcases h with rfl | rfl <;> exact ⟨_, of_isNone _ (by decide +kernel)⟩
  · have h : oks (fun _ _ => true) ((appended 8).addPlace (appended 8).ci (wordAt appendWords 1).toNat, State.reset) = true := by decide +kernel
    obtain ⟨x, u, h1, _⟩ := of_oks _ _ h
    exact ⟨x, (Prod.mk.inj h1).1⟩

/-- Core 0's home holds one request to a granule of its memory, and PERFORM is to take it. -/
def atHome (r : Req) : State :=
  { State.reset.modHome (.core 0) fun h => { h with arrivals := [r] } with pick := { Pick.init with home := .core 0 } }

/-- No bank is busy at reset. -/
theorem atHome_idle (r x : Req) (c : Nat) : (atHome r).bankIsBusy c x = false :=
  List.any_eq_false.mpr fun _ _ => of_decide_eq_false rfl

/-- A request of core 0 for a granule. -/
def reqFor (g : Nat) (op : ReqOp) : Req := ⟨1, 1, 0, 0, g, [g], op, false, false, 0, false, false, true, .strand, 0⟩

theorem witness_HomeResults : ∀ op : ReqOp, ∀ g ∈ [localAddr 0 64, hbmAddr 0 0], let s := atHome (reqFor g op)
    s.Inv ∧ s.pick.home = .core 0 ∧ s.onlyAt (.core 0) (reqFor g op) ∧ s.unlogged ∧ (∀ b, HomeId.core 0 ≠ .bridge b) ∧ g % 64 = 0 ∧
      (reqFor g op).owner = .strand ∧ (reqFor g op).ret = true := by
  intro op g hg
  simp only [List.mem_cons, List.not_mem_nil, or_false] at hg
  rcases hg with rfl | rfl
  · exact ⟨rfl, rfl, ⟨rfl, rfl, ⟨rfl, rfl, fun g h => by rw [List.mem_singleton.mp h]; rfl⟩, rfl, fun _ h => HomeId.noConfusion h, fun _ _ => atHome_idle _ _ _⟩, fun _ => rfl,
      fun _ h => HomeId.noConfusion h, rfl, rfl, rfl⟩
  · exact ⟨rfl, rfl, ⟨rfl, rfl, ⟨rfl, rfl, fun g h => by rw [List.mem_singleton.mp h]; rfl⟩, rfl, fun _ h => HomeId.noConfusion h, fun _ _ => atHome_idle _ _ _⟩, fun _ => rfl,
      fun _ h => HomeId.noConfusion h, rfl, rfl, rfl⟩

/-- A counter of 4 on which a waiter and an armed message stand. -/
def watchedHome : State :=
  let s := (atHome (reqFor (localAddr 0 64) (.cadd 1))).modHome (.core 0) fun h =>
    { h with watch := [⟨localAddr 0 64, 5, .waiter 0 1 2 0⟩, ⟨localAddr 0 64, 5, .arm 7 0 0 false Msg.init⟩] }
  { s with mem := s.mem.writeGran (localAddr 0 64) 4 }

theorem witness_HomeResults_watch : watchedHome.Inv ∧ watchedHome.onlyAt (.core 0) (reqFor (localAddr 0 64) (.cadd 1)) ∧
    watchedHome.mem.readGran (localAddr 0 64) = some 4 ∧ (5 : Word).toNat ≤ min ((4 : Word).toNat + (1 : Word).toNat) (2 ^ 64 - 1) ∧
    (4 : Word).toNat < (5 : Word).toNat ∧ (atHome (reqFor (localAddr 0 64) (.wait 5))).watchFull (.core 0) = false :=
  ⟨(by decide +kernel : watchedHome.mem.wf = true),
   ⟨rfl, rfl, ⟨rfl, by decide, fun g h => by rw [List.mem_singleton.mp h]; decide⟩, rfl, fun _ h => HomeId.noConfusion h, fun c h => by cases h; rfl⟩,
   by decide, by decide, by decide, by decide +kernel⟩

theorem witness_HomeResults_values : (atHome (reqFor (hbmAddr 0 0) .read)).mem.readGran (hbmAddr 0 0) = none ∧
    (atHome (reqFor (localAddr 0 64) .read)).mem.readGran (localAddr 0 64) = some 0 ∧ 32 + 32 ≤ 64 ∧ (0 : Word).toNat ≤ 0 ∧ 0 < (1 : Word).toNat := by decide

/-- The fabric carries one packet. -/
def carrying (s : State) (dst : HomeId) (ordered : Bool) (b : Body) : State := { s with flight := [⟨0, dst, ordered, false, 0, 0, none, false, false, false, none, b⟩] }

theorem witness_OrderingSteps_deliver : let s := carrying State.reset (.core 0) true (.req (reqFor (localAddr 0 64) .read))
    ∃ p r, s.flight[s.pick.a]? = some p ∧ p.body = .req r ∧ s.mayMove s.pick.a p = true ∧ (∀ c, s.homeCore p.dst = some c → s.switchedOut c p.ctx = false) ∧
      (s.home p.dst).arrivals.length < arrivalCap p.dst :=
  ⟨_, _, rfl, rfl, rfl, fun c h => by cases h; rfl, by decide⟩

theorem witness_OrderingSteps_drain : let s := { storing.modMe (fun t => { t with act := 1 }) with pick := { Pick.init with b := 1 } }
    ∃ e, s.strandOfAct s.pick.a s.pick.b = some 0 ∧ (s.strand 0).drain[s.pick.c]? = some e ∧ (s.strand 0).mayDrain s.pkg s.pick.c = true ∧
      s.halted (dieOf s.pick.a) = false ∧ e.page = none :=
  ⟨_, by decide, rfl, by decide, by decide, rfl⟩

/-- A strand waits for the answer to one access, which the fabric carries. -/
def answered (d : Dest) : State :=
  carrying (running.modMe fun t => { t with out := [{ mkAccess 0 [{ mkPart (localAddr 0 64) .read false (0, 0) with sent := true }] [[⟨0, 61, 3⟩]] d with seq := 7 }] })
    (.core 0) false (.resp 1 7 0 ⟨5, false, 0, .full, false⟩)

theorem witness_OrderingSteps_answer : ∀ d ∈ [Dest.sreg 5 3 true, .amo 5 61 3], let s := answered d
    ∃ p y z, s.flight[s.pick.a]? = some p ∧ s.passes p = true ∧ p.dst = .core (s.gcore 0) ∧ s.switching (dieOf 0) = false ∧ p.body = .resp 1 7 0 ⟨5, false, 0, .full, false⟩ ∧ s.unlogged ∧
      s.strandOfAct 0 1 = some 0 ∧ (∀ x ∈ (s.strand 0).out, x.parts.all (·.sent) = true) ∧ (s.strand 0).out.find? (fun x => x.seq == 7) = some y ∧
      y.written = false ∧ y.parts = [z] ∧ z.bad = false ∧ y.dest = d ∧ y.elems = [[⟨0, 61, 3⟩]] := by
  intro d h
  simp only [List.mem_cons, List.not_mem_nil, or_false] at h
  rcases h with rfl | rfl
  · refine ⟨_, _, _, rfl, rfl, by decide, by decide, rfl, fun _ => rfl, rfl, ?_, rfl, rfl, rfl, rfl, rfl, rfl⟩
    intro x hx
    rw [List.mem_singleton.mp hx]; rfl
  · refine ⟨_, _, _, rfl, rfl, by decide, by decide, rfl, fun _ => rfl, rfl, ?_, rfl, rfl, rfl, rfl, rfl, rfl⟩
    intro x hx
    rw [List.mem_singleton.mp hx]; rfl

/-- The last of the two parts of a strand's load is answered: eight bits, the low four from the top of one granule and the others from the next. -/
def lastAnswered (d : Dest) : State :=
  carrying (running.modMe fun t => { t with
    slots := t.slots.set 5 { Slot.init with state := .pending, addr := 0, width := .w8 }
    out := [{ mkAccess 60 [{ mkPart (localAddr 0 0) .read false (0, 0) with sent := true, done := true, valued := true, value := ofN (5 * 2 ^ 60) },
      { mkPart (localAddr 0 64) .read false (0, 0) with sent := true }] [[⟨0, 60, 4⟩, ⟨1, 0, 4⟩]] d with seq := 7 }] })
    (.core 0) false (.resp 1 7 1 ⟨3, false, 0, .full, false⟩)

theorem witness_OrderingSteps_parts : ∀ d ∈ [Dest.vreg 5 8, .slot 5 false], let s := lastAnswered d
    ∃ p y z, s.flight[s.pick.a]? = some p ∧ s.passes p = true ∧ p.dst = .core (s.gcore 0) ∧ s.switching (dieOf 0) = false ∧
      p.body = .resp 1 7 1 ⟨3, false, 0, .full, false⟩ ∧ s.strandOfAct 0 1 = some 0 ∧ (∀ x ∈ (s.strand 0).out, x.parts.all (·.sent) = true) ∧
      (s.strand 0).out.find? (fun x => x.seq == 7) = some y ∧ y.written = false ∧ y.parts[1]? = some z ∧ y.parts.all (fun q => !q.bad) = true ∧
      ((y.parts.headD z).valued = true ∧ y.parts.length = 2) ∧ y.dest = d ∧ (s.strand 0).slotWaits 5 false = true ∧ (s.strand 0).slots[(5 : Tag).val].drop = false ∧
      (∀ j < 8, pieceBit y.elems.flatten j = some (if j < 4 then (0, 60 + j) else (1, j - 4))) ∧ pieceBit y.elems.flatten 8 = none := by
  intro d h
  simp only [List.mem_cons, List.not_mem_nil, or_false] at h
  rcases h with rfl | rfl
  · refine ⟨_, _, _, rfl, rfl, by decide, by decide, rfl, rfl, ?_, rfl, rfl, rfl, by decide, by decide, rfl, by decide, by decide, by decide, by decide⟩
    intro x hx
    rw [List.mem_singleton.mp hx]; rfl
  · refine ⟨_, _, _, rfl, rfl, by decide, by decide, rfl, rfl, ?_, rfl, rfl, rfl, by decide, by decide, rfl, by decide, by decide, by decide, by decide⟩
    intro x hx
    rw [List.mem_singleton.mp hx]; rfl

theorem witness_OrderingSteps_homes :
    (let s := State.reset.modDie 0 fun k => { k with posted := [⟨hostAddr 0, [hostAddr 0], 1, 1, [reqFor (hostAddr 0) .read]⟩] }
     ∃ p, (s.die 0).posted[s.pick.b]? = some p ∧ (∀ x ∈ (s.die 0).posted.take s.pick.b, x.meets p.cover = false) ∧ s.locked p.cover = false ∧ p.gran % 64 = 0 ∧
       ∀ r ∈ p.waiters, r.owner = .strand ∧ ∀ x ∈ listDel (s.die 0).posted s.pick.b, r ∉ x.waiters) ∧
    (let s := State.reset.modHome (.core 0) fun h => { h with replay := [(reqFor (localAddr 0 64) .read, 0)] }
     ∃ r, (s.home (.core (s.gcore 0))).replay[s.pick.b]? = some (r, 0) ∧ 0 ≤ s.clock ∧ s.homeIdle (.core 0) = false ∧ s.bankIsBusy 0 r = false ∧
       s.clearOf (.core 0) r ∧ s.unlogged ∧ r.owner = .strand ∧
       r.op = .read ∧ s.mem.readGran r.gran = some 0 ∧ (s.modCore 0 fun k => { k with bankBusy := k.bankBusy.set (bankOf 0 1) 1 }).bankIsBusy 0 r = true) ∧
    (let s := State.reset.modHome (.core 0) fun h => { h with rewrite := true }
     (s.home (.core (s.gcore 0))).rewrite = true) ∧
    (let s := { carrying State.reset (.core 0) false (.req (reqFor (localAddr 0 64) .read)) with clock := 64 }
     ∃ p, s.flight[s.pick.a]? = some p ∧ p.ordered = false ∧ p.escape = false ∧ p.since + (s.core (routerOf p.src)).escwait.toNat ≤ s.clock) :=
  ⟨⟨_, rfl, fun x h => absurd h (List.not_mem_nil), by decide, by decide, fun r h => by rw [List.mem_singleton.mp h]; exact ⟨rfl, fun x hx => absurd hx (List.not_mem_nil)⟩⟩,
   ⟨_, rfl, by decide, by decide, by decide, ⟨rfl, by decide, fun g h => by rw [List.mem_singleton.mp h]; decide⟩, fun _ => rfl, rfl, rfl, by decide, by decide⟩, rfl,
   _, rfl, rfl, rfl, by decide⟩

/-- Line 0 of core 0's memory. -/
def aLine : Nat := lineOf (localAddr 0 0)

/-- A machine whose event names quad 0 and that line. -/
def lineAt (s : State) : State := { s with pick := { Pick.init with b := aLine } }

theorem witness_AgentSteps_leases :
    (let s := lineAt (State.reset.modHome (.quadUnit 0) fun h => { h with arrivals := [reqFor (localAddr 0 64) (.cadd 1)] })
     let own := s.lineHome s.pick.a s.pick.b
     (∃ r ∈ (s.home (.quadUnit (s.pkg * 512 + s.pick.a))).arrivals, r.onLine s.pick.b = true) ∧ s.lessee s.pick.b = none ∧ s.lineAway s.pick.a s.pick.b = false ∧
       (∀ r ∈ (s.home own).arrivals, r.onLine s.pick.b = false) ∧ (∀ r ∈ (s.home own).replay, r.1.onLine s.pick.b = false) ∧
       (∀ x ∈ (s.home own).holds, ∀ g ∈ x.block, lineOf g ≠ s.pick.b) ∧ (∀ w ∈ (s.home own).watch, lineOf w.gran ≠ s.pick.b) ∧
       (s.quad s.pick.a).leases.length < 16) ∧
    (let s := lineAt { (State.reset.modQuad 0 fun q => { q with leases := [⟨aLine, 0⟩] }).modHome (.core 0) fun h =>
        { h with arrivals := [reqFor (localAddr 0 64) .read] } with clock := 2048 }
     (∀ r ∈ (s.home (.quadUnit (s.pkg * 512 + s.pick.a))).arrivals, lineOf r.gran ≠ s.pick.b) ∧
       (∃ r ∈ (s.home (s.lineHome s.pick.a s.pick.b)).arrivals, r.onLine s.pick.b = true) ∧ s.lessee s.pick.b = some s.pick.a ∧
       ∃ l, (s.quad s.pick.a).leases.find? (fun l => l.line == s.pick.b) = some l ∧ l.last + 2048 ≤ s.clock) := by
  refine ⟨⟨⟨_, List.mem_cons_self, by decide⟩, by decide, by decide, by decide, by decide, by decide, by decide, by decide⟩, by decide,
    ⟨_, List.mem_cons_self, by decide⟩, by decide, _, rfl, by decide⟩

/-- The instruction of activation 1 waits for the walk of page 0, which is not mapped. -/
def fetching : State := (withMe fun t => { t with act := 1 }).modQuad 0 fun q => { q with walks := [⟨0, 0, .strand 1 true, none⟩] }

/-- A page table that maps page 0 for loads to HBM at 64 KiB, and a tagged load of activation 1 that waits for its walk. -/
def walking : State :=
  let s := (withMe fun t => { t with
    act := 1
    out := [{ mkAccess 0 [] [] (.slot 5 false) with seq := 3, walk := true }]
    slots := t.slots.set 5 { Slot.init with state := .pending, addr := 0, width := .w32 } }).modQuad 0 fun q => { q with walks := [⟨0, 0, .tagged 1 3 5 false true, none⟩] }
  let m := (s.mem.writeGran (hbmAddr 0 0) (ofN (2 ^ 63 + 1))).writeGran (hbmAddr 0 2048) (ofN (2 ^ 63 + 2 ^ 61 + 2 ^ 60 + 2 ^ 54 + 2 ^ 52))
  { s.modCtxRegs 0 fun r => { r with ptroot := ofN (2 ^ 63) } with mem := m }

/-- The machine once the walker has let go of that walk. -/
def walkEnding : State := walking.modQuad walking.pick.a fun x => { x with walks := listDel x.walks walking.pick.b }

/-- Whether a walk ends at a leaf and the tagged load's granules are then known. -/
def walkResolves (r : WalkEnd × State) (p : Tagged × State → Bool) : Bool :=
  match r.1 with | .leaf _ _ _ => p (r.2.tagResolve 0 true 0 32) | .page => false | .prot => false | .memerr => false

theorem of_walkResolves (r : WalkEnd × State) (h : walkResolves r (fun p => match p.1 with | .ready _ => true | _ => false) = true) :
    ∃ level pte at_ x ls u, r = (.leaf level pte at_, x) ∧ x.tagResolve 0 true 0 32 = (.ready ls, u) := by
  obtain ⟨e, x⟩ := r
  cases e with
  | leaf level pte at_ =>
    simp only [walkResolves] at h
    rcases hy : x.tagResolve 0 true 0 32 with ⟨y, u⟩
    rw [hy] at h
    cases y with
    | ready ls => exact ⟨level, pte, at_, x, ls, u, rfl, hy⟩
    | fault _ _ => cases h
    | miss _ => cases h
  | page => cases h
  | prot => cases h
  | memerr => cases h

theorem witness_AgentSteps_walk :
    (∃ w x u, (fetching.quad fetching.pick.a).walks[fetching.pick.b]? = some w ∧ (fetching.quad fetching.pick.a).onWalker fetching.pick.b = true ∧ w.fault = none ∧
      w.who = .strand 1 true ∧ State.endWalk (fetching.modQuad fetching.pick.a fun x => { x with walks := listDel x.walks fetching.pick.b }) w.core true w.va = (x, u)) ∧
    ∃ w a level pte at_ x ls u, (walking.quad walking.pick.a).walks[walking.pick.b]? = some w ∧ (walking.quad walking.pick.a).onWalker walking.pick.b = true ∧
      w.fault = none ∧ w.who = .tagged 1 3 5 false true ∧ walking.switching (dieOf w.core) = false ∧ walking.strandOfAct w.core 1 = some 0 ∧
      (walking.strand 0).out.find? (fun x => x.seq == 3) = some a ∧ (walking.strand 0).slotWaits 5 false = true ∧
      walkEnding.endWalk w.core false w.va = (.leaf level pte at_, x) ∧
      x.tagResolve w.core true (walking.strand 0).slots[(5 : Tag).val].addr (walking.strand 0).slots[(5 : Tag).val].loadBits = (.ready ls, u) := by
  refine ⟨⟨_, _, _, rfl, by decide, rfl, rfl, rfl⟩, ?_⟩
  obtain ⟨level, pte, at_, x, ls, u, h1, h2⟩ := of_walkResolves (walkEnding.endWalk 0 false 0) (by decide +kernel)
  exact ⟨_, _, level, pte, at_, x, ls, u, rfl, by decide, rfl, rfl, by decide, by decide, rfl, by decide, h1, h2⟩

/-- An operation over the package that strand 0's activation waits for. -/
def pendingOp (op : PackageOp) : State := { running with pendings := [⟨op, 0, 1⟩] }

theorem witness_AgentSteps_package : ∀ op ∈ [PackageOp.tlbinvAll, .harvest 0, .rankmap 7 true], ∃ p, (pendingOp op).pendings[(pendingOp op).pick.a]? = some p ∧
    (pendingOp op).strandOfAct p.core p.act = some 0 ∧ p.op = op := by
  intro op h
  simp only [List.mem_cons, List.not_mem_nil, or_false] at h
  rcases h with rfl | rfl | rfl <;> exact ⟨_, rfl, by decide, rfl⟩

theorem witness_AgentSteps_faults : PackageOp.tlbinvAll.isInv = true ∧ 1024 ≤ (List.replicate 1024 (0 : Word)).length ∧
    (let s := State.reset.modQuad 0 fun q => { q with faults := [⟨0, 0, [(0, 1)], true⟩] }
     ∃ f, (s.quad 0).faults[s.pick.b]? = some f ∧ f.again = true ∧ walkRoot s.mem s.pkg (s.ctxRegsOf (dieOfQuad 0) f.ctx).ptroot (f.page * 2 ^ 19) = .page) ∧
    (let s := ((State.reset.modCtxRegs 0 fun r => { r with ptroot := BitVec.allOnes 64 }).modQuad 0 fun q => { q with faults := [⟨0, 0, [(0, 1)], true⟩] }).modCore 0
        fun k => { k with images := [{ Strand.init with act := 1 }] }
     ∃ f, (s.quad 0).faults[s.pick.b]? = some f ∧ f.again = true ∧ f.conts = [(0, 1)] ∧ s.strandOfAct 0 1 = none ∧
       ((s.core 0).images.any fun t => t.act == 1) = true ∧ (∀ sid pg kind addr, (s.strand sid).block ≠ some (.faultTable pg kind addr)) ∧
       walkRoot s.mem s.pkg (s.ctxRegsOf (dieOfQuad 0) f.ctx).ptroot (f.page * 2 ^ 19) ≠ .page) :=
  ⟨rfl, by decide +kernel, ⟨_, rfl, rfl, by decide⟩, _, rfl, rfl, rfl, by decide, by decide, (fun _ _ _ _ h => nomatch h), by decide⟩

/-- An SFU request of activation 1 whose result is due. -/
def sfuDue : State := ((slotIs .pending .sfu).modMe fun t => { t with act := 1 }).modQuad 0 fun q => { q with sfu := [⟨0, 0, 1, 63, false, 0, 0, ⟨0, false, 0, 0⟩, 0⟩] }

theorem witness_WaitsEnd :
    (sfuDue.Inv ∧ ∃ r, (sfuDue.quad sfuDue.pick.a).sfu[sfuDue.pick.b]? = some r ∧ r.ready ≤ sfuDue.clock ∧ sfuDue.unlogged ∧ sfuDue.switchedOut r.core r.ctx = false ∧ sfuDue.strandOfAct r.core r.act = some 0 ∧
      (sfuDue.strand 0).slotWaits r.tag r.gen = true ∧ (sfuDue.strand 0).slots[r.tag.val].drop = false) ∧
    (let s := withMe fun t => { t with block := some (.yield 0) }
     s.pick.a = 0 ∧ (s.strand 0).block = some (.yield 0) ∧ 0 ≤ s.clock) ∧
    (let s := withMe fun t => { t with
        block := some (.cwait 2 (some 0) false)
        out := [{ mkAccess 0 [{ mkPart (localAddr 0 64) (.wait 5) false (0, 0) with done := true }] [] (.wait 4 5) with seq := 2 }] }
     ∃ a p, s.pick.a = 0 ∧ (s.strand 0).block = some (.cwait 2 (some 0) false) ∧ 0 ≤ s.clock ∧ (s.strand 0).out.find? (fun x => x.seq == 2) = some a ∧
       a.parts = [p] ∧ p.done = true) ∧
    (let key := State.reset.barKey .core 0 0
     let s := { (withMe fun t => { t with block := some (.barArr key) }) with
        bars := KMap.set [] key ⟨true, 1, 64, 0, 0, [1], [1]⟩, pick := { Pick.init with a := key } }
     let b := s.bars.get key Barrier.init
     s.membersRun key = true ∧ b.configured = true ∧ (∀ n ∈ b.arrived, 0 < n) ∧ barScope key ≠ .pod ∧ barMembers (barScope key) (barNodeOf key) b.word0 = [0] ∧
       localAddr (s.gcore (memberCore (barScope key) 0)) (phaseOff (barScope key) b.pcoff 0) % 64 = 0 ∧
       s.mem.readGran (localAddr (s.gcore (memberCore (barScope key) 0)) (phaseOff (barScope key) b.pcoff 0)) = some 0) :=
  ⟨⟨rfl, _, rfl, by decide, fun _ => rfl, by decide, by decide, by decide, by decide⟩, ⟨rfl, rfl, by decide⟩, ⟨_, _, rfl, rfl, by decide, rfl, rfl, rfl⟩,
   by decide, by decide, by decide, by decide, by decide, by decide, by decide⟩

/-- A message of kind 2 for core 0. -/
def aMsg : Msg := { Msg.init with w0 := 0x1000, w1 := ofN (2 ^ 57), w2 := 5 }

/-- Core 0 has one message and nothing else to do. -/
def mailed : State := State.reset.modCore 0 fun k => { k with inbox := [⟨aMsg, 0⟩] }

theorem witness_ActivationSteps_dispatch : ∃ sid, mailed.pick.a = 0 ∧ mailed.unlogged ∧ (mailed.core 0).park = false ∧ mailed.dieRuns (dieOf 0) = true ∧
    (mailed.core 0).inbox = [⟨aMsg, 0⟩] ∧ (mailed.core 0).deque = [] ∧ (mailed.core 0).resume = [] ∧ mailed.resumeHeld 0 = none ∧ mailed.recvFor 0 aMsg.w0 = none ∧
    mailed.freeStrandOf 0 = some sid ∧ mailed.nanMatches 0 aMsg = true :=
  ⟨0, rfl, unlogged_modCore State.reset 0 _ (fun _ => rfl) (fun _ => rfl), rfl, by decide, rfl, rfl, rfl, by decide, by decide, by decide, by decide⟩

theorem witness_ActivationSteps_arrival :
    (let s := carrying State.reset (.core 0) true (.message aMsg)
     ∃ p, s.flight[s.pick.a]? = some p ∧ p.body = .message aMsg ∧ p.dst = .core (s.gcore 0) ∧ p.rank = none ∧ s.mayMove s.pick.a p = true ∧
       s.switchedOut 0 p.ctx = false ∧ (s.core 0).ringTakes aMsg = true) ∧
    (let s := State.reset.modCore 0 fun k => { k with spill := [.message ⟨aMsg, 9⟩] }
     s.pick.a = 0 ∧ (s.core 0).rankHeld = [] ∧ (s.core 0).spill = .message ⟨aMsg, 9⟩ :: [] ∧ ((s.core 0).inbox.filter fun y => y.msg.prio == aMsg.prio).length < 256) :=
  ⟨⟨_, rfl, rfl, rfl, rfl, by decide, by decide, by decide⟩, rfl, rfl, rfl, by decide⟩

theorem witness_ActivationSteps_notices : ∀ clear : Bool, let s := carrying State.reset (.bridge 0) true (.inherit 64 3 clear)
    ∃ p, s.flight[s.pick.a]? = some p ∧ p.body = .inherit 64 3 clear ∧ p.dst = .bridge (s.gdie 0) ∧ s.mayMove s.pick.a p = true ∧
      (∀ x ∈ s.flight.take s.pick.a, x.isNotice p.dst 64 = false) ∧ (∀ e ∈ (s.die 0).inherit, e.1 ≠ 64) ∧ (s.die 0).inherit.length < 256 := by
  intro clear
  cases clear <;> exact ⟨_, rfl, rfl, rfl, by decide, by decide, by decide, by decide⟩

/-- Core 0 has one record in its deque. -/
def stocked : State := State.reset.modCore 0 fun k => { k with deque := [⟨aMsg, 0⟩] }

theorem stocked_unlogged : stocked.unlogged := unlogged_modCore State.reset 0 _ (fun _ => rfl) (fun _ => rfl)

theorem witness_ActivationSteps_steal :
    (∃ dir row col more, State.reset.pick.a = 0 ∧ State.reset.mayStealNow 0 = true ∧ (State.reset.core 0).steal.viaQuad = false ∧
      State.reset.stealDirs 0 = (dir, row, col) :: more) ∧
    (let s := carrying stocked (.core 0) true (.stealReq 1 false)
     ∃ p, s.flight[s.pick.a]? = some p ∧ p.body = .stealReq 1 false ∧ p.dst = .core (s.gcore 0) ∧ p.rank = none ∧ s.mayMove s.pick.a p = true ∧
       s.switchedOut 0 p.ctx = false ∧ s.pick.flag = false ∧ (s.core 0).park = false ∧ s.dieRuns (dieOf 0) = true ∧ s.unlogged ∧ (s.core 0).asks = []) ∧
    ((stocked.modCore 0 fun k => { k with park := true }).core 0).park = true ∧
    (let s := State.reset.modCore 0 fun k => { k with steal := { k.steal with backoff := some 0 } }
     s.pick.a = 0 ∧ (s.core 0).steal.backoff = some 0 ∧ 0 ≤ s.clock) :=
  ⟨⟨_, _, _, _, rfl, by decide, rfl, rfl⟩, ⟨_, rfl, rfl, rfl, rfl, by decide, by decide, rfl, rfl, by decide, stocked_unlogged, rfl⟩, rfl, rfl, rfl, by decide⟩

/-- A launch ring of core 0's memory: HEAD 0, TAIL 1, its one record of one message at offset 0x1000. -/
def ringWords : List Word := [0, 1, selfAt 0x1000, ofN (16 * 64 + 1)]

/-- Ring 0 of die 0 stands at offset 0. -/
def launching : State :=
  let s := (withWords State.reset ringWords).modDie 0 fun k => { k with rings := k.rings.set (ringKey 0 0) ⟨selfAt 0, false, 1, 0⟩ }
  { s with mem := s.mem.writeGran (localAddr 0 (0x1000 + 64)) (ofN (2 ^ 57)) }

theorem of_some {α : Type} (p : α → Bool) (o : Option α) (h : (o.map p).getD false = true) : ∃ x, o = some x ∧ p x = true := by
  cases o with
  | none => cases h
  | some x => exact ⟨x, rfl, h⟩

theorem launching_chooses : ∃ r, launching.chooseRecord 0 = some r ∧ (launchBad r.ws == false && launchMode r.ws == 0 && launchCount r.ws == 1 &&
    wordAt r.ws 11 == 0 && (launching.switchedOut (launchCore r.ws 0) (launching.ctxOf 0) == false) &&
    ((launching.core (launchCore r.ws 0)).door == none) &&
    (launching.core (launchCore r.ws 0)).ringTakes (launchMsg r.ws 0) && (r.blk.locs.headD ⟨0, false, none⟩).phys % 64 == 0) = true :=
  of_some _ _ (by decide +kernel)

theorem witness_LaunchSteps_expansion : ∃ r, launching.Inv ∧ launching.pick.a = 0 ∧ launching.unlogged ∧ launching.dieRuns 0 = true ∧
    (∀ k ∈ launching.ringKeys 0, launching.offer 0 k ≠ .bad) ∧ (launching.die 0).expansion = none ∧ launching.chooseRecord 0 = some r ∧
    launchBad r.ws = false ∧ launchMode r.ws = 0 ∧ launchCount r.ws = 1 ∧ wordAt r.ws 11 = 0 ∧
    launching.switchedOut (launchCore r.ws 0) (launching.ctxOf 0) = false ∧ (launching.core (launchCore r.ws 0)).door = none ∧
    (launching.core (launchCore r.ws 0)).ringTakes (launchMsg r.ws 0) = true ∧ (r.blk.locs.headD ⟨0, false, none⟩).phys % 64 = 0 := by
  obtain ⟨r, h, g⟩ := launching_chooses
  simp only [Bool.and_eq_true, beq_iff_eq] at g
  obtain ⟨⟨⟨⟨⟨⟨⟨g1, g2⟩, g3⟩, g4⟩, g5⟩, g6⟩, g7⟩, g8⟩ := g
  exact ⟨r, (by decide +kernel : launching.mem.wf = true), rfl, fun _ => rfl, by decide +kernel, by decide +kernel, rfl, h, g1, g2, g3, g4, g5, g6, g7, g8⟩

/-- A tail notice of that ring is on its way. -/
def noticed : State := carrying launching (.bridge 0) true (.tail 0 (ringKey 0 0))

theorem noticed_reads : ∃ r, noticed.launchBlock 0 (noticed.launchRing 0 (ringKey 0 0)).block = some r ∧ true = true := of_some _ _ (by decide +kernel)

theorem witness_LaunchSteps_notice : ∃ p r, noticed.Inv ∧ noticed.flight[noticed.pick.a]? = some p ∧ p.body = .tail 0 (ringKey 0 0) ∧
    noticed.mayMove noticed.pick.a p = true ∧ ringKey 0 0 / 16 = noticed.ctxOf 0 ∧ (noticed.launchRing 0 (ringKey 0 0)).block ≠ 0 ∧
    (noticed.launchRing 0 (ringKey 0 0)).invalid = false ∧ noticed.launchBlock 0 (noticed.launchRing 0 (ringKey 0 0)).block = some r := by
  obtain ⟨r, h, _⟩ := noticed_reads
  exact ⟨_, r, (by decide +kernel : launching.mem.wf = true), rfl, rfl, by decide +kernel, by decide, by decide, by decide, h⟩

/-- A mapped page of host memory holds ring 0's block, and 1024 cycles have passed. -/
def hosted : State :=
  let s := (State.reset.modCtxRegs 0 fun r => { r with ptroot := ofN (2 ^ 63) }).modDie 0 fun k =>
    { k with rings := k.rings.set (ringKey 0 0) ⟨256, false, 0, 0⟩ }
  let m := (s.mem.writeGran (hbmAddr 0 0) (ofN (2 ^ 63 + 1))).writeGran (hbmAddr 0 2048) (ofN (2 ^ 63 + 2 ^ 61 + 2 ^ 60 + 2 ^ 54 + 2 ^ 52))
  { s with mem := (m.writeGran (hostAddr 384) 0x1000).writeGran (hostAddr 448) (ofN (16 * 64 + 1)), clock := 1024 }

theorem hosted_reads : ∃ r, hosted.launchBlock 0 (hosted.launchRing 0 (ringKey 0 0)).block = some r ∧ isHost r.tailGran = true :=
  of_some _ _ (by decide +kernel)

theorem witness_LaunchSteps_poll : ∃ r, let s := { hosted with pick := { Pick.init with b := ringKey 0 0 } }
    s.Inv ∧ s.pick.a = 0 ∧ (s.launchRing 0 s.pick.b).block ≠ 0 ∧ (s.launchRing 0 s.pick.b).invalid = false ∧ s.pick.b / 16 = s.ctxOf 0 ∧ (s.die 0).frozen = 0 ∧
      s.launchBlock 0 (s.launchRing 0 s.pick.b).block = some r ∧ isHost r.tailGran = true ∧ (s.launchRing 0 s.pick.b).polled + 1024 ≤ s.clock := by
  obtain ⟨r, h, g⟩ := hosted_reads
  exact ⟨r, (by decide +kernel : hosted.mem.wf = true), rfl, by decide, by decide, by decide, rfl, h, g, by decide⟩

/-- A task of those words, enqueued third. -/
def aTask (ws : List Word) : Task := ⟨ws, 0, 0, true, 0, 0, 3⟩

/-- Slots 0 and 1 of the quad are ready, and the task stands at the head of queue 0. -/
def issuable : State :=
  ((State.reset.modSlot 0 0 fun y => { y with st := 3, pin := 1 }).modSlot 0 1 fun y => { y with st := 3, pin := 1 }).modTq 0 0 fun _ => [.task (aTask taskWords)]

theorem witness_MatrixSteps_issue : issuable.dieRuns (dieOfQuad issuable.pick.a) = true ∧ issuable.unlogged ∧
    issuable.dropUnread issuable.pick.a = none ∧ (issuable.quad issuable.pick.a).arrays.findIdx? (·.isNone) = some 0 ∧ ([3, 2, 1, 0].filter fun i => issuable.headOpen issuable.pick.a i) = [0] ∧
    (issuable.quad issuable.pick.a).queue 0 = [.task (aTask taskWords)] ∧ recPair (aTask taskWords).rec_ = false :=
  ⟨by decide, fun _ => rfl, by decide, by decide, by decide, rfl, by decide⟩

/-- The task has run in array 0. -/
def completing : State := { State.reset.occupy 0 0 ⟨0, some (aTask taskWords), 0, 0, 73⟩ with clock := 73 }

/-- Both halves of a pair are full, in quads 0 and 1. -/
def paired : State :=
  (State.reset.modQuad 0 fun x => { x with halves := [⟨aTask halfWords, 0, true, [List.replicate 4096 1], 0⟩] }).modQuad 1 fun x =>
    { x with halves := [⟨aTask (listSet (listSet halfWords 5 0) 0 (ofN (2 ^ 52 + 2 ^ 48 + 2 ^ 16 + 1))), 0, true, [List.replicate 4096 2], 0⟩] }

theorem witness_MatrixSteps_complete :
    (∃ r t x, (completing.quad completing.pick.a).arrays.getD completing.pick.b none = some r ∧ r.task = some t ∧ r.start + r.len ≤ completing.clock ∧
      recPair t.rec_ = false ∧ t.tiles = [x] ∧ wordAt t.rec_ 4 = 0) ∧
    (∃ h o x y, let q := paired.pick.a
      let p := dieOfQuad q * 64 + recPartner h.task.rec_
      (paired.quad q).halves[paired.pick.b]? = some h ∧ paired.otherHalf q h.task.rec_ = some o ∧ recLead h.task.rec_ = true ∧ h.full = true ∧ o.full = true ∧
        p ≠ q ∧ h.task.tiles = [x] ∧ o.task.tiles = [y] ∧ h.cells = [List.replicate 4096 1] ∧ o.cells = [List.replicate 4096 2] ∧ paired.tileTasked q h.task.stamp x = false ∧ paired.tileTasked p o.task.stamp y = false ∧
        wordAt h.task.rec_ 4 = 0 ∧ wordAt o.task.rec_ 4 = 0) ∧
    (let s := { paired with clock := 0xF4240 }
     ∃ h, (s.quad s.pick.a).halves[s.pick.b]? = some h ∧ s.pick.flag = false ∧ recLead h.task.rec_ = true ∧ s.switching (dieOfQuad s.pick.a) = false ∧
       h.start + (s.quad s.pick.a).pairtmo.toNat ≤ s.clock) ∧
    (let s := { State.reset.modQuad 0 fun x => { x with halves := [⟨aTask halfWords, 0, false, [], 0⟩] } with pick := { Pick.init with flag := true } }
     ∃ h, (s.quad s.pick.a).halves[s.pick.b]? = some h ∧ s.pick.flag = true ∧ h.full = false) :=
  ⟨⟨_, _, _, rfl, rfl, by decide, by decide, rfl, by decide⟩,
   ⟨_, _, _, _, rfl, rfl, by decide, rfl, rfl, by decide, rfl, rfl, rfl, rfl, by decide, by decide, by decide, by decide⟩,
   ⟨_, rfl, rfl, by decide, by decide⟩, _, rfl, rfl, rfl⟩

/-- A unit has read granules, with their values. -/
def unitRead (s : State) (key : Nat) (gs : List (Nat × Word)) : State := s.modIo key fun x => { x with got := gs.map fun g => (g.1, some g.2) }

/-- A walker whose one group is ready: it has read the group's record at offset 0x400, and its ready counter is at offset 0x3000. -/
def aWalker : Walker := ⟨appendWords, 0, 0, true, ⟨0, false, 0, 0⟩, 0, 0, [], [], 0⟩
def groupRecord : List Word := [selfAt 0x800, selfAt 0x900, 0, ofN (2 ^ 42 + 2 ^ 21 + 1), 0, ofN (2 ^ 36 + 2 ^ 32), 0, 0]
def grouping : State :=
  let s := State.reset.modTq 0 0 fun _ => [.walker aWalker]
  unitRead s (s.walkerKey aWalker) ((localAddr 0 0x3000, 1) :: groupRecord.zipIdx.map fun x => (localAddr 0 (0x400 + 64 * x.2), x.1))

/-- The walker's step. -/
def groupingUnit : State := { grouping with unit := grouping.walkerKey aWalker }

/-- Whether a search finds a good group that writes no memory of its core. -/
def findsGood (w : Walker) (r : Except EngStop (Option (Nat × List Word × Bool)) × State) : Bool :=
  match r.1 with
  | .ok (some (_, ws, bad)) => !bad && r.2.walkerAt 0 0 == some w && (r.2.groupSpan w.core ws).isNone
  | _ => false

theorem of_findsGood (w : Walker) (r : Except EngStop (Option (Nat × List Word × Bool)) × State) (h : findsGood w r = true) :
    ∃ g ws u, r = (.ok (some (g, ws, false)), u) ∧ u.walkerAt 0 0 = some w ∧ u.groupSpan w.core ws = none := by
  obtain ⟨o, u⟩ := r
  match o, h with
  | .ok (some (g, ws, bad)), h =>
    simp only [findsGood, Bool.and_eq_true, Bool.not_eq_true', beq_iff_eq, Option.isNone_iff_eq_none] at h
    obtain ⟨⟨rfl, h2⟩, h3⟩ := h
    exact ⟨g, ws, u, rfl, h2, h3⟩
  | .ok none, h => exact absurd h (by simp [findsGood])
  | .error _, h => exact absurd h (by simp [findsGood])

theorem witness_MatrixSteps_group : ∃ w g r u, grouping.walkerAt grouping.pick.a grouping.pick.b = some w ∧ grouping.walkerBad w = none ∧
    grouping.dieRuns (dieOfQuad grouping.pick.a) = true ∧ w.runs[grouping.pick.c]? = none ∧ w.runs.length < w.lanes ∧ (∃ i < w.lanes, ∀ z ∈ w.runs, z.lane ≠ i) ∧
    State.nextGroup { grouping with unit := grouping.walkerKey w } w = (.ok (some (g, r, false)), u) ∧
    u.walkerAt grouping.pick.a grouping.pick.b = some w ∧ u.groupSpan w.core r = none := by
  obtain ⟨g, r, u, h1, h2, h3⟩ := of_findsGood aWalker (groupingUnit.nextGroup aWalker) (by decide +kernel)
  exact ⟨aWalker, g, r, u, rfl, by decide +kernel, by decide, rfl, by decide, ⟨0, by decide, by decide⟩, h1, h2, h3⟩

/-- The group has started, and the walker has read the granules of its chunk. -/
def startedGroup : GroupRun := ⟨0, groupRecord, 0, 0, 0, false, false, false⟩
def chunkWalker : Walker := { aWalker with begun := [0], runs := [startedGroup] }
def chunking : State :=
  let s := State.reset.modTq 0 0 fun _ => [.walker chunkWalker]
  unitRead s (s.runKey chunkWalker startedGroup) [(localAddr 0 0x800, 5), (localAddr 0 0x900, 7)]
def chunkingUnit : State := { chunking with unit := chunking.runKey chunkWalker startedGroup }

theorem witness_MatrixSteps_chunk : ∃ u, chunking.walkerAt chunking.pick.a chunking.pick.b = some chunkWalker ∧
    chunking.walkerBad chunkWalker = none ∧ chunking.dieRuns (dieOfQuad chunking.pick.a) = true ∧ chunkWalker.runs[chunking.pick.c]? = some startedGroup ∧
    startedGroup.loaded = false ∧ startedGroup.done = false ∧
    State.loadChunk { chunking with unit := chunking.runKey chunkWalker startedGroup } chunking.pick.a chunkWalker startedGroup = (.ok (), u) ∧
    u.walkerAt chunking.pick.a chunking.pick.b = some chunkWalker := by
  obtain ⟨x, u, h, g⟩ := of_oks (fun _ u => u.walkerAt 0 0 == some chunkWalker) (chunkingUnit.loadChunk 0 chunkWalker startedGroup) (by decide +kernel)
  exact ⟨u, rfl, by decide +kernel, by decide, rfl, rfl, rfl, h, beq_iff_eq.mp g⟩

/-- A walker whose group is done, with a limit of n groups; a write of its own was refused, or none was. -/
def finishWalker (n : Nat) : Walker :=
  { aWalker with desc := listSet appendWords 4 (ofN (n * 2 ^ 32)), runs := [⟨0, groupRecord, 0, 0, 0, false, false, true⟩] }
def finishing (n : Nat) (bad : Option (Nat × Nat)) : State :=
  let s := State.reset.modTq 0 0 fun _ => [.walker (finishWalker n)]
  s.modIo (s.walkerKey (finishWalker n)) fun x => { x with bad := bad }

theorem witness_MatrixSteps_finish : ∀ n ∈ [1, 2], ∀ bad ∈ [none, some (cPROT, 64)], ∃ g, let s := finishing n bad
    let w := finishWalker n
    s.walkerAt s.pick.a s.pick.b = some w ∧ w.runs[s.pick.c]? = some g ∧ g.busy = false ∧ (s.io (s.runKey w g)).puts = [] ∧ g.done = true ∧
      s.walkerBad w = bad ∧ (∀ z ∈ w.runs, z.busy = false) ∧ (∀ x ∈ s.walkerKeys w, (s.io x).puts = []) ∧ wordAt w.desc 2 = 0 ∧ (if n = 2 then w.fin + 1 < w.limit else w.limit ≤ w.fin + 1) ∧
      (s.quad s.pick.a).queue s.pick.b = [.walker w] := by
  intro n hn bad hb
  simp only [List.mem_cons, List.not_mem_nil, or_false] at hn hb
  rcases hn with rfl | rfl <;> rcases hb with rfl | rfl <;>
    exact ⟨_, rfl, rfl, rfl, by decide +kernel, rfl, by decide +kernel, by decide, by decide +kernel, by decide, by decide, rfl⟩

/-- An ACC.CLR of two tiles. -/
def clearing : Cmd := { State.reset.mkCmd 0x32 0 0 [] 0 0 with desc := [0x0200], n := 1 }

theorem witness_MatrixSteps_command :
    (let s := State.reset.modCore 0 fun k => { k with mq := [clearing] }
     (s.core s.pick.a).mq = clearing :: [] ∧ s.matReady (quadOf s.pick.a) clearing = true ∧ s.dieRuns (dieOf s.pick.a) = true ∧ s.drainSpan s.pick.a clearing = none) ∧
    (let s := State.reset.modCore 0 fun k => { k with mrun := [clearing] }
     (s.core s.pick.a).mrun[s.pick.b]? = some clearing ∧ clearing.bad = none ∧ clearing.sent = false ∧
       (s.io (s.unitKey s.pick.a 7 clearing.n)).puts = [] ∧ s.dieFinishes (dieOf s.pick.a) = true ∧ clearing.major = 0x32 ∧ clearing.op = 0 ∧ clearing.ctr = 0) :=
  ⟨⟨rfl, by decide, by decide, by decide⟩, rfl, rfl, rfl, rfl, by decide, rfl, rfl, rfl⟩

/-- A copy of one word from offset 0x800 to offset 0x900 of core 0's memory, in context 0. -/
def copyDesc : List Word := [selfAt 0x800, selfAt 0x900, ofN (2 ^ 48 + 64), 0, 0, 0, 0, 0]
def copying : Cmd := { State.reset.mkCmd 0x34 0 1 copyDesc 0 0 with bad := none }

/-- The same copy to a virtual address. -/
def copyingOut : Cmd := { copying with desc := listSet copyDesc 1 0x900 }

theorem witness_CopySteps_start : let s := State.reset.modEng 0 0 fun e => { e with queue := [copyingOut] }
    (s.eng s.pick.a s.pick.b).queue = copyingOut :: [] ∧ s.pick.b < 4 ∧ (s.eng s.pick.a s.pick.b).run.length < 4 ∧ s.dieRuns (dieOf s.pick.a) = true ∧
      s.ownSpans s.pick.a copyingOut.dstBits copyingOut.dstRows = none :=
  ⟨rfl, by decide, by decide, by decide, by decide +kernel⟩

/-- The copy runs, and has read the granule at offset 0x800. -/
def copyAt (x : Cmd) : State :=
  let s := State.reset.modEng 0 0 fun e => { e with run := [x] }
  unitRead s (s.unitKey 0 0 x.n) [(localAddr 0 0x800, 5)]

/-- The unit of the copy, its chunk, and what it reads and writes. -/
def copyUnit : State := { copyAt copying with unit := (copyAt copying).unitKey 0 0 copying.n }
def chunk0 : Chunk := copying.chunk false copying.pos
def chunkSrc0 : Word := copying.srcRow chunk0.row + ofN chunk0.lo
def chunkDst0 : Word := copying.dstRow chunk0.row + ofN chunk0.lo

/-- Whether a chunk's granules resolve, and it may send its writes there. -/
def copySends (ls : List Loc) (w : State) : Bool :=
  (w.eng 0 0).run == [copying] && ls.all (fun l => l.page.isNone && (w.io (w.unitKey 0 0 copying.n)).puts.all fun p => grainUnit p != l.phys) &&
    decide ((ls.map (·.phys)).Nodup) && w.unitKey 0 0 copying.n == (copyAt copying).unitKey 0 0 copying.n

/-- Whether a chunk is read, twice as its step reads it, and its destination resolves. -/
def copyReads (r : Except EngStop (List Nat) × State) : Bool :=
  oks (fun _ y => oks (fun _ u => oks copySends (u.engLocs 0 copying.user (copying.op == 4) chunkDst0 chunk0.n))
    (y.engRead 0 copying.user chunkSrc0 chunk0.n)) r

theorem copy_reads : copyReads (copyUnit.engRuns 0 copying.user (fun _ => false) [(chunkSrc0, chunk0.n)]) = true := by decide +kernel

theorem witness_CopySteps_chunk : ∃ x vs v y u w ls, let s := copyAt copying
    let run := (s.eng s.pick.a s.pick.b).run
    let key := s.unitKey s.pick.a s.pick.b x.n
    let h := x.chunk false x.pos
    let src := x.srcRow h.row + ofN h.lo
    let dst := x.dstRow h.row + ofN h.lo
    run[s.pick.c]? = some x ∧ s.pick.b < 4 ∧ x.bad = none ∧ x.sent = false ∧ s.dieRuns (dieOf s.pick.a) = true ∧ s.toPeer s.pick.a x = false ∧
      s.overlaps s.pick.a x = false ∧ x.op ≠ 2 ∧ s.chunkFree s.pick.a s.pick.b (run.take s.pick.c) x [(src, h.n)] [(dst, h.n)] = true ∧ dst.toNat + h.n ≤ 2 ^ 64 ∧
      State.engRuns { s with unit := key } s.pick.a x.user (fun _ => false) [(src, h.n)] = (.ok vs, y) ∧ y.engRead s.pick.a x.user src h.n = (.ok v, u) ∧
      u.engLocs s.pick.a x.user (x.op == 4) dst h.n = (.ok ls, w) ∧ (w.eng s.pick.a s.pick.b).run = run ∧
      (∀ l ∈ ls, l.page = none ∧ ∀ p ∈ (w.io key).puts, grainUnit p ≠ l.phys) ∧ (ls.map (·.phys)).Nodup := by
  obtain ⟨vs, y, h1, g1⟩ := of_oks _ _ copy_reads
  obtain ⟨v, u, h2, g2⟩ := of_oks _ _ g1
  obtain ⟨ls, w, h3, g3⟩ := of_oks _ _ g2
  simp only [copySends, Bool.and_eq_true, beq_iff_eq, List.all_eq_true, Option.isNone_iff_eq_none, bne_iff_ne, ne_eq, decide_eq_true_eq] at g3
  obtain ⟨⟨⟨g4, g5⟩, g6⟩, g7⟩ := g3
  refine ⟨copying, vs, v, y, u, w, ls, by decide +kernel, by decide, rfl, rfl, by decide, by decide +kernel, by decide +kernel, by decide, by decide +kernel,
    by decide +kernel, h1, h2, h3, g4, ?_, g6⟩
  intro l hl
  exact ⟨(g5 l hl).1, g7 ▸ (g5 l hl).2⟩

/-- The copy has sent its writes, or was stopped. -/
def sentCopy : Cmd := { copying with sent := true }
def stoppedCopy : Cmd := { copying with bad := some (cPROT, 0) }

theorem witness_CopySteps_ends :
    (let s := copyAt sentCopy
     (s.eng s.pick.a s.pick.b).run[s.pick.c]? = some sentCopy ∧ s.pick.b < 4 ∧ sentCopy.bad = none ∧ sentCopy.sent = true ∧ sentCopy.cells = 0 ∧
       (s.io (s.unitKey s.pick.a s.pick.b sentCopy.n)).puts = [] ∧ s.dieFinishes (dieOf s.pick.a) = true ∧ sentCopy.op ≠ 2 ∧ sentCopy.amt = 0) ∧
    (let s := State.reset.modEng 0 0 fun e => { e with run := [stoppedCopy] }
     s.pick.b < 7 ∧ (s.eng s.pick.a s.pick.b).run[s.pick.c]? = some stoppedCopy ∧ stoppedCopy.bad = some (cPROT, 0) ∧ stoppedCopy.cells = 0 ∧
       (s.io (s.unitKey s.pick.a s.pick.b stoppedCopy.n)).puts = []) ∧
    (let s := { State.reset.modCore 0 fun k => { k with mrun := [stoppedCopy] } with pick := { Pick.init with b := 7 } }
     s.pick.b = 7 ∧ (s.core s.pick.a).mrun[s.pick.c]? = some stoppedCopy ∧ stoppedCopy.bad = some (cPROT, 0) ∧ stoppedCopy.cells = 0 ∧
       (s.io (s.unitKey s.pick.a 7 stoppedCopy.n)).puts = []) ∧
    ∀ w ∈ [true, false], let s := State.reset.modDie 0 fun k => { k with wsWant := some w }
      (s.die s.pick.a).wsWant = some w ∧ s.wsLoading s.pick.a = false ∧ s.wsWriting s.pick.a = false ∧ s.wsReading s.pick.a = false :=
  ⟨by decide +kernel, by decide +kernel, by decide +kernel, by decide +kernel⟩

/-- Core 0's home holds a read of mailbox 0, whose configuration names it or is missing. -/
def mailRead (cfg : Option (List Word)) : State :=
  (atHome { reqFor (localAddr 0 0x1D40000) (.topkRd 0 64 true) with ord := true }).modCore 0 fun k => { k with topk := cfg }

theorem mailRead_at (cfg : Option (List Word)) : (mailRead cfg).onlyAt (.core 0) { reqFor (localAddr 0 0x1D40000) (.topkRd 0 64 true) with ord := true } :=
  ⟨rfl, rfl, ⟨rfl, rfl, fun g h => by rw [List.mem_singleton.mp h]; rfl⟩, rfl, fun _ h => HomeId.noConfusion h, fun c h => by cases h; rfl⟩

theorem mailRead_unlogged (cfg : Option (List Word)) : (mailRead cfg).unlogged := unlogged_modCore _ 0 _ (fun _ => rfl) (fun _ => rfl)

theorem witness_RouterSteps_issue : State.reset.me.gate = false ∧ State.reset.unwatched [] ∧ State.reset.committed.released .die ∧
    rankState (State.reset.rankEntry State.reset.ci 7) = 0 ∧
    (let s := { withRegs [(2, 7)] with ranks := [(State.reset.rankKey 0 7, 0x40000000)] }
     s.me.gate = false ∧ s.unwatched [] ∧ s.committed.released .die ∧ rankState (s.rankEntry s.ci (wfld (s.rd 2) 0 24)) ≠ 0 ∧
       ∀ c ctx, (s.core c).holdsFor ctx 7 = false) ∧
    ((State.reset.rd 1).toNat % 64 = 0 ∧ State.reset.offDevice (State.reset.rd 1) = false) ∧
    (let s := withRegs [(1, 0xC000000000000000)]
     (s.rd 1).toNat % 64 = 0 ∧ s.offDevice (s.rd 1) = true) ∧
    ((withRegs [(1, 1)]).rd 1).toNat % 64 ≠ 0 :=
  ⟨rfl, rfl, rfl, by decide, ⟨rfl, rfl, rfl, by decide, fun _ _ => rfl⟩, by decide +kernel, by decide +kernel, by decide⟩

theorem witness_RouterSteps_mail : ∀ cfg ∈ [none, some [ofN (2 ^ 32 + 1), 0, 0, 1]], (mailRead cfg).pick.home = .core 0 ∧ (mailRead cfg).pick.b = 0 ∧
    (mailRead cfg).unlogged ∧ ((mailRead cfg).core 0).topk = cfg ∧ ((mailRead cfg).core 0).mail.get 0 [] = [] ∧ topkTokens [ofN (2 ^ 32 + 1), 0, 0, 1] = 1 := by
  intro cfg h
  simp only [List.mem_cons, List.not_mem_nil, or_false] at h
  rcases h with rfl | rfl
  · exact ⟨rfl, rfl, mailRead_unlogged _, rfl, rfl, by decide⟩
  · exact ⟨rfl, rfl, mailRead_unlogged _, rfl, rfl, by decide⟩

/-- A command of those words heads an engine's queue. -/
def headCmd (op : Nat) (ws : List Word) : Cmd := { State.reset.mkCmd 0x36 op 1 ws 0 0 with start := 0 }
def heading (k : Nat) (x : Cmd) : State := State.reset.modEng 0 k fun e => { e with queue := [x] }

/-- The same command runs. -/
def withRun (k : Nat) (x : Cmd) : State := State.reset.modEng 0 k fun e => { e with run := [x] }

theorem witness_RouterSteps_runs : ∀ e ∈ [(4, headCmd 0 (List.replicate 8 0)), (5, headCmd 0 (List.replicate 8 0)), (5, headCmd 3 [1, 0, 0, 1, 0, 0, 0, 0])],
    (withRun e.1 e.2).pick.a = 0 ∧ ((withRun e.1 e.2).eng 0 e.1).run = [e.2] ∧ e.2.bad = none ∧ e.2.sent = false ∧
      ((withRun e.1 e.2).io ((withRun e.1 e.2).unitKey 0 e.1 e.2.n)).puts = [] ∧ (withRun e.1 e.2).dieRuns (dieOf 0) = true := by decide +kernel

theorem witness_RouterSteps_commands : ∀ e ∈ [(4, headCmd 0 (List.replicate 8 0)), (5, headCmd 0 (List.replicate 8 0)), (5, headCmd 3 [1, 0, 0, 1, 0, 0, 0, 0])],
    (heading e.1 e.2).pick.a = 0 ∧ ((heading e.1 e.2).eng 0 e.1).queue.head? = some e.2 ∧ ((heading e.1 e.2).eng 0 e.1).run = [] ∧
      (heading e.1 e.2).dieRuns (dieOf 0) = true ∧ wbit (wordAt (e.2.desc.take 3) 1) 33 = false ∧ wbit (wordAt e.2.desc 0) 37 = false := by decide +kernel

/-- An integer-sum binding of sixteen entries at offset 0 of core 0, whose unit has a batch of one pair, of key 5, and a key at the pair's place. -/
def bindWords : List Word := [ofN (2 ^ 24), ofN (2 ^ 32 + 4 * 2 ^ 25), 0]
def keyBatch : Batch := ⟨1, 1, 1, 0, 0, ⟨0, false, 0, 0⟩, true, [(5, 9)]⟩
def bound : State := State.reset.modCore 0 fun k => { k with binding := some bindWords, keyed := [⟨keyBatch, 0, 0, 0, false, false⟩] }
def keyGran : Nat := bound.entryGran 0 bindWords ((mix64 5).toNat % bindSize bindWords)

/-- The unit is to send the pair. -/
def keySending : State := { bound with pick := { Pick.init with flag := true } }

/-- The pair's request waits at its home, whose granule of the key holds a word. -/
def pairReq : Req := { reqFor keyGran (.keyed 5 9) with cover := [keyGran, keyGran + 64], owner := .post (.pair 0 0) }
def keyWaiting : State := (atHome pairReq).modCore 0 fun k => { k with binding := some bindWords, keyed := [⟨keyBatch, 0, 0, 0, true, false⟩] }
def keyed (there : Word) : State := { keyWaiting with mem := keyWaiting.mem.writeGran keyGran there }

theorem keyed_core (x : Word) (c : Nat) : ((keyed x).core c).bankBusy = [] ∧ ((keyed x).core c).det = 0 := by
  have e : (keyed x).core c = keyWaiting.core c := by simp only [keyed, State.core]
  rw [e]
  by_cases h : c = 0
  · rw [h]; exact ⟨rfl, rfl⟩
  · rw [keyWaiting, State.core_modCore_ne _ _ _ _ h]; exact ⟨rfl, rfl⟩

theorem keyed_idle (x : Word) (c g : Nat) : ¬(keyed x).granBusy c g = true := by
  simp [State.granBusy, (keyed_core x c).1]

theorem keyed_at (x : Word) : (keyed x).onlyAt (.core 0) pairReq :=
  ⟨rfl, rfl, ⟨rfl, rfl, fun g h => by
      rcases List.mem_cons.mp h with rfl | h
      · rfl
      · rw [List.mem_singleton.mp h]; rfl⟩, rfl, fun _ h => HomeId.noConfusion h,
    fun c _ => List.any_eq_false.mpr fun g _ => keyed_idle x c g⟩

theorem keyed_unlogged (x : Word) : (keyed x).unlogged :=
  fun c => (keyed_core x c).2

theorem witness_RouterSteps_send : keySending.pick.flag = true ∧ keySending.pick.a = 0 ∧ (keySending.core 0).keyed = [⟨keyBatch, 0, 0, 0, false, false⟩] ∧
    keyBatch.pairs = [(5, 9)] ∧ (keySending.core 0).binding = some bindWords ∧ keySending.tableTaken 0 = false := by decide +kernel

theorem witness_RouterSteps_keyed : ∀ x ∈ [BitVec.allOnes 64, (5 : Word)], let s := keyed x
    s.pick.home = .core (s.gcore 0) ∧ s.pick.b = 0 ∧ s.pick.flag = false ∧ pairReq.owner = .post (.pair 0 0) ∧ pairReq.op = .keyed 5 9 ∧ pairReq.core = 0 ∧
    (s.core 0).keyed = [⟨keyBatch, 0, 0, 0, true, false⟩] ∧ (s.core 0).binding = some bindWords ∧ (5 : Word) ≠ BitVec.allOnes 64 ∧
    wbit (wordAt bindWords 1) 32 = true ∧ wfld (wordAt bindWords 1) 30 2 = 0 ∧
    keyGran = s.entryGran 0 bindWords ((mix64 5).toNat % bindSize bindWords) ∧ keyGran % 64 = 0 ∧ s.watched 0 keyGran = false ∧
    s.watched 0 (keyGran + 64) = false ∧ s.mem.readGran (keyGran + 64) = some 0 ∧ s.mem.readGran keyGran = some x := by
  intro x h
  simp only [List.mem_cons, List.not_mem_nil, or_false] at h
  rcases h with rfl | rfl <;> and_intros <;> first | with_reducible rfl | decide +kernel | rfl

/-- Mailboxes of one expert and one token. -/
def mailWords : List Word := [ofN (2 ^ 32 + 1), 0, 0, 1]
def mailing : State := State.reset.modCore 0 fun k => { k with topk := some mailWords }
def scored (x : Score) : State := carrying mailing (.core 0) false (.score x)

theorem scored_unlogged (x : Score) : (scored x).unlogged := (unlogged_modCore State.reset 0 _ (fun _ => rfl) (fun _ => rfl) : mailing.unlogged)

/-- The packet that carries a score. -/
def scorePacket (x : Score) : Packet := ⟨0, .core 0, false, false, 0, 0, none, false, false, false, none, .score x⟩

theorem witness_RouterSteps_scores : (∀ x ∈ [(⟨0, 0, 0x3F800000⟩ : Score), ⟨0, 1, 0x3F800000⟩, ⟨0, 0, 0x7FC00000⟩],
      (scored x).flight[(scored x).pick.a]? = some (scorePacket x) ∧ (scorePacket x).body = .score x ∧ (scorePacket x).dst = .core ((scored x).gcore 0) ∧
      (scorePacket x).rank = none ∧ (scored x).mayMove (scored x).pick.a (scorePacket x) = true ∧ (scored x).switchedOut 0 (scorePacket x).ctx = false ∧
      ((scored x).core 0).topk = some mailWords ∧ x.token < topkTokens mailWords) ∧ (∀ x, (scored x).unlogged) ∧ wordAt mailWords 1 = 0 ∧
    (0 < topkExperts mailWords ∧ fdecode .f32 false 0x3F800000 ≠ .nan ∧ (scored ⟨0, 0, 0x3F800000⟩).isDead (dieOf 0) 0 = false) ∧
    topkExperts mailWords ≤ 1 ∧ fdecode .f32 false 0x7FC00000 = .nan :=
  ⟨by decide +kernel, scored_unlogged, by decide +kernel, by decide +kernel, by decide +kernel, by decide +kernel⟩

/-- A capsule of zeros and no tile. -/
def capZero : List Word := List.replicate 24 0

theorem witness_FabricSteps_capsules :
    (let s := carrying State.reset (.core 0) false (.capsule 0 capZero 0)
     ∃ p b, s.Inv ∧ s.flight[s.pick.a]? = some p ∧ p.body = .capsule 0 capZero 0 ∧ p.dst = .core (s.gcore 0) ∧ p.rank = none ∧ s.mayMove s.pick.a p = true ∧
       s.switchedOut 0 p.ctx = false ∧ (s.core 0).spill = [] ∧ (s.die (dieOf 0)).switch = none ∧
       freeRun (s.core 0).blocks (capBlocks (capTbits capZero)) = some b ∧ s.stopRefused 0 capZero = none ∧ (s.core 0).ringTakes (capNotice capZero b 0) = true) ∧
    (let s := State.reset.modCore 0 fun k => { k with spill := [.capsule capZero 0] }
     ∃ b, s.pick.a = 0 ∧ (s.core 0).spill = [.capsule capZero 0] ∧ (s.die (dieOf 0)).switch = none ∧
       freeRun (s.core 0).blocks (capBlocks (capTbits capZero)) = some b ∧ s.stopRefused 0 capZero = none ∧
       ((s.core 0).inbox.filter fun y => y.msg.prio == (capNotice capZero b 0).prio).length < 256) :=
  ⟨⟨_, 0, rfl, rfl, rfl, rfl, rfl, by decide, by decide, rfl, rfl, by decide +kernel, by decide +kernel, by decide +kernel⟩,
   0, rfl, rfl, rfl, by decide +kernel, by decide +kernel, by decide +kernel⟩

/-- A cell of one granule of a copy of core 0, which runs. -/
def aCell (sent : Bool) : Cell := ⟨[(localAddr 0 64, wholeMask, 5)], 0, 8, 0, 0, 1, 0, sent⟩
def celled (sent : Bool) : State := carrying (State.reset.modEng 0 0 fun e => { e with run := [copying] }) (.core 0) false (.cell (aCell sent))

theorem witness_FabricSteps_cells : ∀ sent, ∃ p y, let s := celled sent
    s.Inv ∧ s.pick.flag = false ∧ s.flight[s.pick.a]? = some p ∧ p.body = .cell (aCell sent) ∧ (aCell sent).eng < 7 ∧ (aCell sent).sent = sent ∧
      s.cellBefore s.pick.a (aCell sent) = false ∧ (s.io (s.cellKey (aCell sent))).puts = [] ∧ (s.io (s.cellKey (aCell sent))).bad = none ∧
      (s.eng (aCell sent).core (aCell sent).eng).run.find? (fun y => y.n == (aCell sent).n) = some y ∧ y.op ≠ 3 ∧ y.ctr = 0 := by
  intro sent
  cases sent
  · exact ⟨_, _, rfl, rfl, rfl, rfl, by decide, rfl, by decide, by decide +kernel, by decide +kernel, rfl, by decide, rfl⟩
  · exact ⟨_, _, rfl, rfl, rfl, rfl, by decide, rfl, by decide, by decide +kernel, by decide +kernel, rfl, by decide, rfl⟩

/-- A token row of one word on its way to core 0, or there with its writes sent. -/
def aRow (sent : Bool) : Row := ⟨0, 0x1000, 0x2000, [5], 0, 1, sent⟩
def rowed (sent : Bool) : State := carrying State.reset (.core 0) true (.tokenRow (aRow sent))

theorem witness_FabricSteps_rows : ∀ sent, ∃ p, let s := rowed sent
    s.pick.flag = false ∧ s.pick.v = 0 ∧ s.flight[s.pick.a]? = some p ∧ p.body = .tokenRow (aRow sent) ∧ p.dst = .core (s.gcore 0) ∧ (aRow sent).sent = sent ∧
      s.rowBefore s.pick.a p = false ∧ p.rank = none ∧ s.mayMove s.pick.a p = true ∧ s.switchedOut 0 p.ctx = false ∧
      (s.io (s.rowKey (aRow sent))).puts = [] ∧ (s.io (s.rowKey (aRow sent))).bad = none ∧ (aRow sent).dn ≠ 0 := by
  intro sent
  cases sent
  · exact ⟨_, rfl, rfl, rfl, rfl, rfl, rfl, by decide, rfl, by decide, by decide, by decide +kernel, by decide +kernel, by decide⟩
  · exact ⟨_, rfl, rfl, rfl, rfl, rfl, rfl, by decide, rfl, by decide, by decide, by decide +kernel, by decide +kernel, by decide⟩

/-- Where every listed core holds nothing for a rank, none does. -/
theorem holds_none (s : State) (h : (s.cores.all fun e => e.2.rankHeld.isEmpty && e.2.spill.isEmpty) = true) :
    ∀ k ctx rank, (s.core k).holdsFor ctx rank = false := by
  intro k ctx rank
  suffices hk : ∀ (m : KMap Core), (m.all fun e => e.2.rankHeld.isEmpty && e.2.spill.isEmpty) = true →
      ((m.get k Core.init).rankHeld.isEmpty && (m.get k Core.init).spill.isEmpty) = true by
    have := hk s.cores h
    simp only [Bool.and_eq_true, List.isEmpty_iff] at this
    simp only [Core.holdsFor, State.core, this.1, this.2, List.any_nil, Bool.or_self]
  intro m hm
  induction m with
  | nil => rfl
  | cons e m ih =>
    simp only [List.all_cons, Bool.and_eq_true] at hm
    simp only [KMap.get]
    split
    · simpa using hm.1
    · exact ih hm.2

/-- A TOK.SEND of one word from offset 0x800 to rank 0, core 1, which is queued, or runs and has read its row. -/
def tokWords : List Word := [selfAt 0x800, 0x1000, 0, ofN (64 * 2 ^ 24), 0, 0, 0, 0]
def tokCmd : Cmd := State.reset.mkCmd 0x37 2 1 tokWords 0 0
def tokening (runs : Bool) : State :=
  let s := State.reset.modEng 0 collCtx fun e => if runs then { e with run := [tokCmd] } else { e with queue := [tokCmd] }
  let s := unitRead s (s.unitKey 0 collCtx 1) [(localAddr 0 0x800, 5)]
  { s with ranks := KMap.set [] (State.reset.rankKey 0 0) 0x40000200, pick := { Pick.init with v := 1 } }

theorem witness_FabricSteps_tokens : (∀ runs, let s := tokening runs
      s.pick.flag = false ∧ s.pick.v ≠ 0 ∧ s.pick.a = 0 ∧ s.dieRuns (dieOf 0) = true ∧ tokCmd.n = s.pick.v.toNat ∧
        ((s.eng 0 collCtx).run ++ (s.eng 0 collCtx).queue).find? (fun y => y.op == 2 && !y.sent && y.bad.isNone) = some tokCmd) ∧
    tokCmd ∈ ((tokening false).eng 0 collCtx).queue ∧ (tokening false).tokSpan 0 tokCmd = none ∧ (∀ y ∈ ((tokening true).eng 0 collCtx).queue, y.n ≠ tokCmd.n) ∧
    ∃ v u, State.engRead { tokening true with unit := (tokening true).unitKey 0 collCtx tokCmd.n } 0 tokCmd.user (wordAt tokCmd.desc 0) tokCmd.rowBits = (.ok v, u) ∧
      u.rankEntry 0 (wfld (wordAt tokCmd.desc 3) 0 24) = (tokening true).rankEntry 0 (wfld (wordAt tokCmd.desc 3) 0 24) ∧
        rankState ((tokening true).rankEntry 0 (wfld (wordAt tokCmd.desc 3) 0 24)) ≠ 0 ∧ ∀ k ctx rank, (u.core k).holdsFor ctx rank = false := by
  refine ⟨?_, by decide, by decide, by decide, ?_⟩
  · intro runs
    cases runs <;> decide +kernel
  · obtain ⟨v, u, h1, h2⟩ := of_oks (fun _ u => u.rankEntry 0 (wfld (wordAt tokCmd.desc 3) 0 24) == (tokening true).rankEntry 0 (wfld (wordAt tokCmd.desc 3) 0 24) &&
        u.cores.all fun e => e.2.rankHeld.isEmpty && e.2.spill.isEmpty) (State.engRead { tokening true with unit := (tokening true).unitKey 0 collCtx tokCmd.n } 0
          tokCmd.user (wordAt tokCmd.desc 0) tokCmd.rowBits) (by decide +kernel)
    simp only [Bool.and_eq_true, beq_iff_eq] at h2
    exact ⟨v, u, h1, h2.1, by decide, holds_none u h2.2⟩

/-- A cell of 64 bits for offset 64 of core 0 has come in by port 0, of transfer 3. -/
def inCell (sent : Bool) : InCell := ⟨0, 3, 0, [(localAddr 0 64, wholeMask, 5)], sent⟩
def cellIn (v : Word) (cells : List InCell) : State :=
  { State.reset with reasm := cells, pick := { Pick.init with flag := true, v := v, w := ofN (64 * 2 ^ 32), b := localAddr 0 64, c := 3, bytes := List.replicate 8 5 } }

theorem witness_FabricSteps_incoming :
    (let s := cellIn 0 []
     s.mem.wf = true ∧ s.pick.flag = true ∧ s.pick.v = 0 ∧ wfld s.pick.w 32 32 ≠ 0 ∧
       (∀ g ∈ gransOf s.pick.b (wfld s.pick.w 32 32), isPeer s.pkg g = false ∧ spaceOf g ≤ 1) ∧ (s.reasm.filter fun y => y.port == s.pick.a).length < 4096 ∧
       s.landed.get s.pick.c [] = []) ∧
    ∀ sent, let s := cellIn 1 [inCell sent]
      s.pick.v = 1 ∧ s.reasm[s.pick.a]? = some (inCell sent) ∧ (∀ y ∈ s.reasm, y.xfer = 3 → ¬y.seq < 0) ∧ (s.io (s.inKey (inCell sent))).puts = [] := by
  refine ⟨by decide +kernel, ?_⟩
  intro sent
  cases sent <;> decide +kernel

theorem witness_FabricSteps_links : (crc8 1 ≠ wfld 1 0 8 ∧ crc8 0 = wfld 0 0 8) ∧
    (let s := { State.reset with pick := { Pick.init with flag := true } }
     s.pick.flag = true ∧ s.pick.a = 0 ∧ s.pick.bytes = [] ∧ s.flight.length ≤ s.pick.a) ∧ State.reset.ports < 2 ^ 32 :=
  ⟨by decide +kernel, by decide, by decide⟩

/-- A collective of ranks 0 and 1: bit 0 of its marks says that a member was unmapped as it was issued, bit 1 that its match agrees. -/
def member (op marks : Nat) (w2 : Word) : Cmd := { State.reset.mkCmd 0x37 op 1 (collWords w2) 0 0 with pos := marks }

/-- Ranks 0 and 1 are cores 0 and 1. -/
def ranked (s : State) : State := { s with ranks := (KMap.set (KMap.set [] (State.reset.rankKey 0 0) 0x40000000) (State.reset.rankKey 0 1) 0x40000200) }

/-- Both have queued it; for core 1 a member was unmapped, or none. -/
def joined (lost : Nat) : State :=
  ranked ((State.reset.modEng 0 collCtx fun e => { e with queue := [member 0 0 1] }).modEng 1 collCtx fun e => { e with queue := [member 0 lost 1] })

theorem witness_FabricSteps_matches : ∀ lost ∈ [0, 1], let s := joined lost
    s.mem.wf = true ∧ s.pick.flag = false ∧ s.pick.a = 0 ∧ s.collCmd 0 s.pick.b = some (member 0 0 1) ∧ s.dieRuns (dieOf 0) = true ∧ (member 0 0 1).agreed = false ∧
      s.members 0 (member 0 0 1) = some [(0, member 0 0 1), (1, member 0 lost 1)] ∧ s.farJoined 0 (member 0 0 1) = true ∧
      collAgree (member 0 0 1) (member 0 lost 1) = true ∧ (member 0 lost 1).unmapped = (lost == 1) := by decide +kernel

/-- Core 0's member has started and has read its input, before core 1 has issued its command. -/
def giving : State :=
  let s := State.reset.modEng 0 collCtx fun e => { e with run := [member 0 0 1] }
  ranked (unitRead s (s.unitKey 0 collCtx 1) [(localAddr 0 0x800, 5)])

theorem witness_FabricSteps_give : let s := giving
    let x := member 0 0 1
    (s.pick.flag = false ∧ s.pick.a = 0 ∧ s.collCmd 0 s.pick.b = some x ∧ s.dieRuns (dieOf 0) = true ∧ (∃ z ∈ (s.eng 0 collCtx).run, z.n = x.n) ∧ x.agreed = false ∧
      s.members 0 x = none ∧ x.op = 0 ∧ x.gave < x.cellCount ∧ s.rootFar 0 x = false ∧ s.redCell? (s.ctxOf (dieOf 0)) x x.gave = none ∧
      s.redRoom (s.ctxOf (dieOf 0)) x x.gave = true ∧ 0 ∈ s.places 0 0 x) ∧
    ∃ v u, State.engRead { s with unit := s.unitKey 0 collCtx x.n } 0 x.user (wordAt x.desc 0 + ofN (x.gave * x.perCell * x.ity.bits)) (x.giveBits x.gave) = (.ok v, u) ∧
      true = true :=
  ⟨by decide +kernel, of_oks (fun _ _ => true) _ (by decide +kernel)⟩

/-- The match agrees, and its unit has both contributions to the cell; the member has then written the result. -/
def taking (x : Cmd) : State :=
  ranked { State.reset.modEng 0 collCtx fun e => { e with run := [x] } with
    redCells := [⟨0, collGid x.desc, x.groupPlace, x.matchWords, 0, some x.fp, [(0, 5), (1, 6)]⟩] }

theorem witness_FabricSteps_take : ∀ e ∈ [((0 : Nat), (1 : Word)), (1, 0x100000000001)], let x := member e.1 2 e.2
    let s := taking x
    s.mem.wf = true ∧ s.pick.flag = false ∧ s.pick.a = 0 ∧ s.collCmd 0 s.pick.b = some x ∧ s.dieRuns (dieOf 0) = true ∧ (∃ z ∈ (s.eng 0 collCtx).run, z.n = x.n) ∧
      x.agreed = true ∧ x.sent = false ∧ s.receives 0 0 x = true ∧ x.took < x.cellCount ∧
      (∃ y, s.redCell? (s.ctxOf (dieOf 0)) x x.took = some y ∧ y.full x = true) ∧
      (State.engPutAll { s with unit := s.unitKey 0 collCtx x.n } 0 x.user false notDevice
        [⟨wordAt x.desc 1 + ofN (x.took * x.perCell * x.oty.bits), x.takeBits x.took, if e.1 = 0 then x.collCell x.fp 0 [5, 6] else 6⟩]).2 = none := by
  intro e h
  simp only [List.mem_cons, List.not_mem_nil, or_false] at h
  rcases h with rfl | rfl <;>
    exact ⟨rfl, rfl, rfl, by decide +kernel, by decide, by decide, by decide, rfl, by decide +kernel, by decide, ⟨_, rfl, by decide +kernel⟩, by decide +kernel⟩

theorem witness_FabricSteps_over : let x := { member 0 2 1 with sent := true, gave := 1, took := 1 }
    let s := taking x
    s.collCmd 0 s.pick.b = some x ∧ x.agreed = true ∧ x.sent = true ∧ x.cellCount ≤ x.gave ∧ x.cells = 0 ∧ (s.io (s.unitKey 0 collCtx x.n)).puts = [] ∧
      s.dieFinishes (dieOf 0) = true := by decide +kernel

/-- A die whose switch to context 1 is in a phase. -/
def switching (phase : Nat) : State := State.reset.modDie 0 fun k => { k with switch := some ⟨1, false, phase, 0⟩ }

/-- Context 1 is saved, with one strand. -/
def savedOne : Saved := { Saved.init with strands := [(3, Strand.init)] }
def restoring : State := { switching 2 with saved := [(savedKey 1 0, savedOne)] }

/-- A switch to context 1 has been asked for while another ran. -/
def askedSwitch : State := { State.reset.modDie 0 fun k => { k with asked := [(0x500, 1)] } with pick := { Pick.init with flag := true } }

theorem witness_ContextSwitchSteps :
    (State.reset.pick.a = 0 ∧ State.reset.pick.flag = false ∧ (State.reset.die 0).asked = [] ∧ wbit State.reset.pick.w 4 = false ∧ State.reset.servesRequest 0 = true ∧
      ((switching 1).die 0).asked = [] ∧ (switching 1).pick.flag = false ∧ (switching 1).servesRequest 0 = false) ∧
    (let s := { State.reset with pick := { Pick.init with w := 0x11 } }
     s.pick.a = 0 ∧ s.pick.flag = false ∧ (s.die 0).asked = [] ∧ wbit s.pick.w 4 = true ∧ ∀ k < 8, s.servesRequest k = true) ∧
    (askedSwitch.pick.flag = true ∧ (askedSwitch.die 0).asked = (0x500, 1) :: [] ∧ wbit (1 : Word) 4 = false ∧ askedSwitch.servesRequest 0 = true) ∧
    (∀ phase < 3, ((switching phase).die 0).switch = some ⟨1, false, phase, 0⟩ ∧ (switching phase).pick.a = 0) ∧ (switching 1).settled 0 = true ∧
    (((switching 2).saved.find? fun e => e.1 == savedKey 1 0) = none ∧ (switching 2).imageReady 0 1 = true) ∧
    ((restoring.saved.find? fun e => e.1 == savedKey 1 0) = some (savedKey 1 0, savedOne) ∧ restoring.imageReady 0 1 = true ∧
      (savedOne.strands.map (·.1)).Nodup) :=
  ⟨by decide, by decide, by decide, by decide, by decide +kernel, by decide, rfl, by decide, by decide⟩

/-- A die frozen or cut, with CADDR. -/
def frozenAt (n : Nat) (a : Word) : State := State.reset.modDie 0 fun k => { k with frozen := n, caddr := a }

/-- A cut die whose strand 0 is stopped. -/
def stoppedCut : State := (frozenAt 2 (ofN (11 * 2 ^ 56))).modMe fun t => { t with status := ⟨.stopped, false, false, false⟩ }

/-- Every die is in a phase of its freeze, for a checkpoint or a restore; an image stands in the tier. -/
def checkpointing (phase : Nat) (flag : Bool) (w3 : Word) : State :=
  let s := [0, 1, 2, 3, 4, 5, 6, 7].foldl (fun (s : State) d => s.modDie d fun k => { k with frozen := phase }) State.reset
  { s with ckpt := some ⟨[0, 0, 0, w3]⟩, tier := [(0, State.reset.snapshot)], pick := { Pick.init with flag := flag } }

theorem witness_CensusSteps :
    (State.reset.pick.flag = false ∧ (State.reset.die 0).asked = [] ∧ (State.reset.die 0).frozen = 0 ∧ State.reset.servesRequest 0 = true) ∧
    (let s := { frozenAt 1 0 with pick := { Pick.init with flag := true } }
     s.pick.flag = true ∧ (s.die 0).frozen = 1 ∧ s.ckpt = none ∧ s.drained 0 = true) ∧
    (let s := checkpointing 1 true 0
     s.pick.flag = true ∧ (s.die 0).frozen = 1 ∧ s.ckpt.isSome = true ∧ ∀ k < 8, s.drained k = true) ∧
    (∀ n ∈ [1, 2], ((frozenAt n 0).die 0).asked = [] ∧ ((frozenAt n 0).die 0).frozen = n ∧ (frozenAt n 0).ckpt = none) ∧
    (let a : Word := ofN (3 * 2 ^ 56 + 3 * 2 ^ 44)
     ((frozenAt 2 a).die 0).frozen = 2 ∧ wfld a 56 8 = 3 ∧ wfld a 44 8 = 3 ∧ wfld a 52 4 = (frozenAt 2 a).ctxOf 0 ∧ wfld a 20 24 < 256 ∧ wfld a 0 20 = 0) ∧
    (let a : Word := ofN (4 * 2 ^ 56 + 10 * 2 ^ 44)
     ((frozenAt 2 a).die 0).frozen = 2 ∧ wfld a 56 8 = 4 ∧ wfld a 44 8 = 10 ∧ wfld a 52 4 = (frozenAt 2 a).ctxOf 0 ∧ wfld a 20 24 < 256 ∧ wfld a 0 20 = 0 ∧
       (frozenAt 2 a).pick.w.toNat ≤ 1) ∧
    (let a := (stoppedCut.die 0).caddr
     (stoppedCut.die 0).frozen = 2 ∧ wfld a 56 8 = 11 ∧ wfld a 44 8 = 0 ∧ wfld a 52 4 = stoppedCut.ctxOf 0 ∧ wfld a 20 24 < 2048 ∧ wfld a 0 20 = 0 ∧
       stoppedCut.pick.w = 0 ∧ (stoppedCut.strand (wfld a 20 24)).status.state = .stopped ∧ (stoppedCut.strand (wfld a 20 24)).capsule = none) ∧
    (State.reset.pick.a = 0 ∧ (State.reset.die 0).asked = [] ∧ State.reset.pick.w.toNat % 512 = 0 ∧ ∀ k < 8, State.reset.servesRequest k = true) ∧
    (∀ flag, (checkpointing 2 flag 0).ckpt = some ⟨[0, 0, 0, 0]⟩ ∧ (checkpointing 2 flag 0).pick.flag = flag ∧ (∀ e < 8, ((checkpointing 2 flag 0).die e).frozen = 2)) ∧
    (checkpointing 2 false 1).ckpt = some ⟨[0, 0, 0, 1]⟩ ∧ (∀ e < 8, ((checkpointing 2 false 1).die e).frozen = 2) ∧
    ((checkpointing 2 false 1).tier.find? fun e => e.1 == (wordAt [0, 0, 0, 1] 0).toNat) = some ((wordAt [0, 0, 0, 1] 0).toNat, State.reset.snapshot) := by
  refine ⟨by decide, by decide +kernel, by decide +kernel, by decide, by decide +kernel, by decide +kernel, by decide +kernel, by decide, ?_, rfl, by decide +kernel,
    by decide +kernel⟩
  intro flag
  cases flag <;> decide +kernel

/-- The host has asked for an access to a granule of core 0's memory, or of a weight store in read phase. -/
def hosting (x : HostAcc) : State := State.reset.modDie 0 fun k => { k with hostq := [x], wsPhase := true }

/-- The same, performed. -/
def hostDone (x : HostAcc) (z : Io → Io) : State := (hosting { x with sent := true }).modIo (bridgeKey 0) z

theorem witness_HostSteps_memory :
    (let s := { State.reset with pick := { Pick.init with b := localAddr 0 64, bytes := List.replicate 8 7 } }
     s.pick.flag = false ∧ s.pick.b % 64 = 0 ∧ s.hostDie s.pick.b = some 0 ∧ s.pick.bytes ≠ [] ∧ s.hostDie (s.pick.b + 8 * s.pick.bytes.length - 1) = some 0 ∧
       s.hostDie (s.pick.b + 63) = some 0) ∧
    (let x : HostAcc := ⟨true, localAddr 0 64, List.replicate 8 7, false⟩
     let s := hosting x
     s.pick.flag = false ∧ s.pick.bytes = [] ∧ (s.die 0).hostq = x :: [] ∧ (s.die 0).frozen = 0 ∧ (s.die 0).switch = none ∧ 8 * x.bytes.length ≠ 0 ∧
       x.at_ + 8 * x.bytes.length ≤ 2 ^ 64 ∧ ∀ g ∈ gransOf x.at_ (8 * x.bytes.length), isWs g = false) ∧
    (let x : HostAcc := ⟨true, 2 * 2 ^ 60, List.replicate 8 7, false⟩
     let s := hosting x
     (s.die 0).hostq = x :: [] ∧ x.at_ + 8 * x.bytes.length ≤ 2 ^ 64 ∧
       ∃ g ∈ gransOf x.at_ (8 * x.bytes.length), isWs g = true ∧ s.wsClosed (g % 2 ^ 60 / 2 ^ 35) = true) ∧
    (∀ e ∈ [none, some (cCTRSTORE, localAddr 0 64)], let s := hostDone ⟨true, localAddr 0 64, List.replicate 8 7, false⟩ fun z => { z with bad := e }
     (s.die 0).hostq = [⟨true, localAddr 0 64, List.replicate 8 7, true⟩] ∧ (s.io (bridgeKey 0)).puts = [] ∧ (s.io (bridgeKey 0)).bad = e) ∧
    (let s := hosting ⟨false, localAddr 0 64, [], false⟩
     (s.die 0).hostq = [⟨false, localAddr 0 64, [], false⟩] ∧ (s.die 0).frozen = 0 ∧ (s.die 0).switch = none) ∧
    let s := hostDone ⟨false, localAddr 0 64, [], false⟩ fun z => { z with got := [(localAddr 0 64, some 5)] }
    (s.die 0).hostq = [⟨false, localAddr 0 64, [], true⟩] ∧ (s.io (bridgeKey 0)).got.find? (fun y => y.1 == localAddr 0 64) = some (localAddr 0 64, some 5) := by
  refine ⟨by decide +kernel, by decide +kernel, by decide +kernel, by decide +kernel, by decide +kernel, by decide +kernel⟩

theorem witness_HostSteps_own : let s := { State.reset with pick := { Pick.init with flag := true, b := hostAddr 8, bytes := [7] } }
    s.Inv ∧ s.pick.flag = true ∧ isHost s.pick.b = true ∧ s.pick.b % 8 = 0 ∧ s.pick.bytes = [7] := ⟨rfl, rfl, by decide, by decide, rfl⟩

theorem witness_HostSteps_config : (∀ b ∈ [0x600, 0x680], let s := { State.reset with pick := { Pick.init with flag := true, b := b } }
      s.pick.flag = true ∧ s.pick.b = b) ∧ State.reset.ctxsel 0 = State.reset.ctxOf 0 ∧ (wbit State.reset.pick.w 1 = true → wbit State.reset.pick.w 0 = true) ∧
    State.reset.pick.images = [] ∧ (let s := { State.reset with pick := { Pick.init with images := [⟨[], []⟩] } }; s.pick.images = [⟨[], []⟩]) := by decide

/-- A replay ring at offset 0 of core 0, whose one record is a dispatch choice of core 0, and a core that replays. -/
def replaying : State :=
  let s := (withWords State.reset [0, 1, selfAt 0x1000, ofN (4 * 64 + 1)]).modDie 0 fun k => { k with replayRing := k.replayRing.set 0 (selfAt 0) }
  { s.modCore 0 fun k => { k with det := 3 } with mem := s.mem.writeGran (localAddr 0 0x1000) (ofN (3 * 2 ^ 56)) }

/-- Whether the ring is read and its next record names a source that exists and whose choices are forced. -/
def readsRecord (s : State) : Bool :=
  match s.ringRead (dieCore 0) false .load (s.replayBlock 0).toNat with
  | .error _ => false
  | .ok r =>
    match s.devGrans (dieCore 0) false .load (gransUp (r.entry r.head.toNat) 4) with
    | .error _ => false
    | .ok ls =>
      match ls.mapM (fun l => s.mem.readGran l.phys) with
      | none => false
      | some ws => s.sourceExists 0 (crumbIdOf ws) && (crumbIdOf ws).kind != 10 && s.forcing (s.sourceCore 0 (crumbIdOf ws)) (crumbIdOf ws).kind &&
          (r.locs.headD ⟨0, false, none⟩).phys % 64 == 0

theorem of_readsRecord (s : State) (h : readsRecord s = true) : ∃ r ls ws, s.ringRead (dieCore 0) false .load (s.replayBlock 0).toNat = .ok r ∧
    s.devGrans (dieCore 0) false .load (gransUp (r.entry r.head.toNat) 4) = .ok ls ∧ ls.mapM (fun l => s.mem.readGran l.phys) = some ws ∧
    s.sourceExists 0 (crumbIdOf ws) = true ∧ (crumbIdOf ws).kind ≠ 10 ∧ s.forcing (s.sourceCore 0 (crumbIdOf ws)) (crumbIdOf ws).kind = true ∧
    (r.locs.headD ⟨0, false, none⟩).phys % 64 = 0 := by
  simp only [readsRecord] at h
  split at h
  · cases h
  · rename_i r hr
    split at h
    · cases h
    · rename_i ls hl
      split at h
      · cases h
      · rename_i ws hw
        simp only [Bool.and_eq_true, bne_iff_ne, beq_iff_eq] at h
        exact ⟨r, ls, ws, hr, hl, hw, h.1.1.1, h.1.1.2, h.1.2, h.2⟩

theorem replaying_reads : readsRecord replaying = true := by decide +kernel

theorem witness_HostSteps_replay : ∃ r ls ws, replaying.pick.a = 0 ∧ (coresOfDie 0).any replaying.readsLog = true ∧ replaying.replayEmpty 0 = false ∧
    replaying.crumbFull 0 = false ∧
    replaying.ringRead (dieCore 0) false .load (replaying.replayBlock 0).toNat = .ok r ∧
    replaying.devGrans (dieCore 0) false .load (gransUp (r.entry r.head.toNat) 4) = .ok ls ∧ ls.mapM (fun l => replaying.mem.readGran l.phys) = some ws ∧
    replaying.sourceExists 0 (crumbIdOf ws) = true ∧ (crumbIdOf ws).kind ≠ 10 ∧ replaying.forcing (replaying.sourceCore 0 (crumbIdOf ws)) (crumbIdOf ws).kind = true ∧
    (r.locs.headD ⟨0, false, none⟩).phys % 64 = 0 := by
  obtain ⟨r, ls, ws, h⟩ := of_readsRecord _ replaying_reads
  exact ⟨r, ls, ws, rfl, by decide +kernel, by decide +kernel, by decide +kernel, h⟩

/-- Core 0 replays, and its dispatch stream has a record that has been waited for. -/
def departing : State :=
  let s := (State.reset.modDie 0 fun k => { k with replay := [(3, [(0, 0)])], waitFrom := [(3, 0)] }).modCore 0 fun k => { k with det := 3 }
  { s with clock := 2 ^ 24, pick := { Pick.init with b := 3 } }

theorem witness_HostSteps_departure : departing.pick.a = 0 ∧ departing.pick.b = crumbKey 0 0 0 3 ∧
    departing.forcing (departing.sourceCore 0 ⟨0, 0, 0, 3⟩) 3 = true ∧ (departing.nextCrumb 0 departing.pick.b).isSome = true ∧
    departing.crumbFull 0 = false ∧
    ∃ e, (departing.die 0).waitFrom.find? (fun e => e.1 == departing.pick.b) = some e ∧ e.2 + 2 ^ 24 ≤ departing.clock :=
  ⟨rfl, by decide, by decide +kernel, by decide, by decide +kernel, _, rfl, by decide⟩

theorem witness_BranchResults : State.reset.rd 1 = State.reset.rd 2 ∧ ¬ State.reset.rd 1 ≠ State.reset.rd 2 ∧
    (State.reset.rd 1).toInt ≤ (State.reset.rd 2).toInt ∧ (State.reset.rd 1).getLsbD ((State.reset.rd 2).toNat % 64) = false := by decide

/-! ## One step each, with results from the spec's examples -/

/-- Whether an instruction answers a next state with a property. -/
def gives (i : Instr) (s : State) (p : State → Bool) : Bool := match exec i s with | .next t => p t | .fault _ => false | .refused _ => false

/-- R128: −7 / 2 is −3, and the remainder −1. -/
theorem test_div : gives (.div 6 1 2) (withRegs [(1, -7), (2, 2)]) (fun t => t.rd 6 == -3 && t.me.pc == 32) = true := by decide
theorem test_rem : gives (.rem 6 1 2) (withRegs [(1, -7), (2, 2)]) (fun t => t.rd 6 == -1) = true := by decide

/-- R132: the first of the two instructions that build the self-window base, and the last. -/
theorem test_limm : gives (.limm 9 0xE) State.reset (fun t => t.rd 9 == 0xE) = true := by decide
theorem test_limmh : gives (.limmh 9 0) (withRegs [(9, 0xE0000000000)]) (fun t => t.rd 9 == 0xE000000000000000) = true := by decide

/-- R133: element 21 of an array of 3-bit elements is 63 bits on. -/
theorem test_bpadd : gives (.bpadd .w3 4 2 3) (withRegs [(2, 0x100), (3, 21)]) (fun t => t.rd 4 == 0x100 + 63) = true := by decide

/-- R32, R134, R136: the striped address of the spec's example, its offset and its core. -/
theorem test_bstripe : gives (.bstripe 6 4 5) (withRegs [(4, 0x85), (5, 0x2A10)]) (fun t => t.rd 6 == 0xA0010A0000002A10) = true := by decide
theorem test_bwin : gives (.bwin 1 6 4) (withRegs [(4, 0xA0010A0000002A10)]) (fun t => t.rd 6 == 0xA10) &&
    gives (.bwin 2 6 4) (withRegs [(4, 0xA0010A0000002A10)]) (fun t => t.rd 6 == 0x10D0000000) = true := by decide

/-- R73, R76: 1.15625 narrowed to E4M3, to nearest and up. -/
theorem test_fcvt_nearest : gives (.fcvt .e4m3 .f32 5 4) (withRegs [(4, 0x3F940000)]) (fun t => t.rd 5 == 0x39) = true := by decide +kernel
theorem test_fcvt_up : gives (.fcvt .e4m3 .f32 5 4) ((withRegs [(4, 0x3F940000)]).modCore 0 fun k => { k with rm := 2 }) (fun t => t.rd 5 == 0x3A) = true := by
  decide +kernel

/-- R66: 1.0 in FP32 is 1.0 in FP40; 1 + 1 is 2. -/
theorem test_fcvt_wide : gives (.fcvt .f40 .f32 5 4) (withRegs [(4, 0x3F800000)]) (fun t => t.rd 5 == 0x3F80000000) = true := by decide +kernel
theorem test_fadd : gives (.fadd .f32 3 1 2) (withRegs [(1, 0x3F800000), (2, 0x3F800000)]) (fun t => t.rd 3 == 0x40000000 && t.myCore.fflags == 0) = true := by
  decide +kernel

/-- R144: a body that runs once more, and one that is over. -/
theorem test_loop_again : gives (.loop 21 (-4)) (withRegs [(21, 2)]) (fun t => t.rd 21 == 1 && t.me.pc == 0 - 64) = true := by decide
theorem test_loop_over : gives (.loop 21 (-4)) (withRegs [(21, 1)]) (fun t => t.rd 21 == 0 && t.me.pc == 32) = true := by decide

/-- R110, R153: TRAP enters the trap handler with its code. -/
theorem test_trap : gives (.trap 0x123) State.reset (fun t => t.me.cause == 0x1F && t.me.tval == 0x123 && t.me.epc == 0 && t.me.status.trapped) = true := by decide

/-- R189: a granule with a two-bit error, and the same once it is written whole. -/
theorem test_spoil : ∀ g ∈ [localAddr 0 64, hbmAddr 0 64], let m := (Mem.writeGran [] g 5).spoil g
    m.readGran g = none ∧ m.storeGran g 1 1 = none ∧ (m.writeGran g 7).readGran g = some 7 := by decide +kernel

/-- R97, R255: a packed narrow store goes to the region buffer alone (R15). -/
theorem test_store : gives (.st .w3 5 3 3) (withRegs [(3, selfAt 0), (5, 7)]) (fun t => t.me.region.map (·.mask) == [0xE00] && t.mem == []) = true := by decide +kernel

/-- R260: a lane add wraps in its element. -/
theorem test_vadd : gives (.vadd .i32 .none 5 6 7) (withMe fun t => { t with regs := (t.regs.wrV 6 (BitVec.ofNat 1024 7)).wrV 7 (BitVec.ofNat 1024 (2 ^ 32 - 1)) }) (fun t => t.rdV 5 == BitVec.ofNat 1024 6) =
    true := by decide +kernel

/-- A step runs the instruction at pc. -/
theorem test_step : (match step addNext with | .next t => t.me.pc == 32 && t.clock == 1 | .fault _ => false | .refused _ => false) = true := by decide +kernel

end Sys2Proof.Tests
end

section
/-! PROOFS. Fences and FENCE.I (R54, R198, R199). -/

namespace Sys2Proof.Ordering

open Sys2Proof Sys2Proof.Machine

section
variable (s : State) (k : FenceKind) (sc : Scope)

/-- What an update of the running strand leaves depends on what it does to that strand alone. -/
theorem modMe_congr {f g : Strand → Strand} (h : f s.me = g s.me) : s.modMe f = s.modMe g := by
  simp only [State.modMe, State.modStrand, show f (s.strand s.cur) = g (s.strand s.cur) from h]

/-- The fences of the running strand that still hold something back, as a new fence takes its place (R54). -/
def fencesLeft : List Fence := s.me.fences.filter fun f => !f.over s.pkg s.me

/-- A fence is dropped only once the accesses it orders are performed. -/
theorem mem_fencesLeft_or_over (f : Fence) (hf : f ∈ s.me.fences) : f ∈ fencesLeft s ∨ f.over s.pkg s.me = true := by
  by_cases h : f.over s.pkg s.me = true
  · exact .inr h
  · exact .inl (List.mem_filter.mpr ⟨hf, by simpa using h⟩)

/-- A fence that retires has taken its place in program order, and the pc has moved past it. -/
theorem retire_putFence : (s.putFence k sc).retire 32 = s.modMe fun t =>
    { t.clearInstr with fences := fencesLeft s ++ [⟨k, sc, t.seq⟩], pc := t.pc + 32, instret := t.instret + 1 } := by
  rw [State.putFence, State.retire_eq, State.modMe_modMe]
  exact modMe_congr s rfl

/-- LL and LS do not commit (R198). -/
theorem exec_fence_loads (hk : k = .ll ∨ k = .ls) : exec (.fence k sc) s = .next ((s.putFence k sc).retire 32) := by
  rcases hk with rfl | rfl <;> rfl

/-- SL, SS and ALL are commit points (R198). -/
theorem exec_fence_commits (h1 : k ≠ .ll) (h2 : k ≠ .ls) :
    exec (.fence k sc) s = s.atCommit [] fun s => (s.putFence k sc).retire 32 := by
  cases k with
  | ll => exact absurd rfl h1
  | ls => exact absurd rfl h2
  | sl => rfl
  | ss => rfl
  | all => rfl

/-- FENCE.I commits, and then waits or discards the fetched halfwords (R199). -/
theorem exec_fenceI (hu : s.unwatched []) : exec .fenceI s =
    if s.committed.me.storesDone s.pkg then .next ((s.committed.modMe fun t => { t with fetched := [], block := none }).retire 32).checkpoint
    else .next (s.committed.modMe fun t => { t with block := some .fence }) := by
  show execFenceI s = _
  rw [execFenceI, s.commit_ok [] hu]
  rfl

end

/-- Settles O34: each kind of fence is its equation of `exec`; the fences kept are those not yet over. -/
theorem fenceResults : Obligations.FenceResults := by
  unfold Obligations.FenceResults
  intro s k sc
  refine ⟨fun hk => ⟨fencesLeft s, ?_, mem_fencesLeft_or_over s⟩, fun h1 h2 hu => ⟨fencesLeft s.committed, ?_, ?_⟩, fun hu hd => ?_, fun hu hd => ?_⟩
  · rw [exec_fence_loads s k sc hk, retire_putFence]
  · rw [exec_fence_commits s k sc h1 h2, s.atCommit_ok [] _ hu, retire_putFence]
  · intro f hf
    have hc : f ∈ s.committed.me.fences := by rw [State.committed, State.me_modMe]; exact hf
    exact mem_fencesLeft_or_over s.committed f hc
  · rw [exec_fenceI s hu, if_pos hd, State.retire_eq, State.modMe_modMe]
    rfl
  · rw [exec_fenceI s hu, if_neg (by simp [hd])]

end Sys2Proof.Ordering
end

section
/-! PROOFS. What an answer to a request of the device's own can do to memory (R61, R117, R355), and the refutation of O49. -/

namespace Sys2Proof.Ordering

open Sys2Proof Sys2Proof.Machine

/-! ## The dirty log (R117) -/

section
variable (s : State) (c : Nat)

/-- One step of the merge of a core's dirty log: the leaf that maps a logged page gets its D bit. -/
def mergeStep (s : State) (w : Word) : State := s.setDirty (s.ctxRegsOf (dieOf c) (wfld w 56 4)).ptroot (wfld w 0 38)

theorem mergeLog_eq : s.mergeLog c = (s.core c).dirtyLog.foldl (mergeStep c) (s.modCore c fun k => { k with dirtyLog := [] }) := rfl

/-- A logged page whose leaf is clean: the leaf is written with its D bit. -/
theorem setDirty_clean (root pte : Word) (page level at_ : Nat) (h : walkRoot s.mem s.pkg root (page * 2 ^ 19) = .leaf level pte at_)
    (hd : wbit pte 55 = false) : s.setDirty root page = { s with mem := s.mem.writeGran at_ (pte ||| (1 <<< 55)) } := by
  simp only [State.setDirty, h, hd, Bool.false_eq_true, if_false]

/-- A logged page whose leaf has its D bit changes nothing. -/
theorem setDirty_dirty (root pte : Word) (page level at_ : Nat) (h : walkRoot s.mem s.pkg root (page * 2 ^ 19) = .leaf level pte at_)
    (hd : wbit pte 55 = true) : s.setDirty root page = s := by
  simp only [State.setDirty, h, hd, if_true]

/-- A step that changes nothing changes nothing however often it is taken. -/
theorem foldl_replicate_fixed {α β : Type} (f : α → β → α) (x : α) (w : β) (h : f x w = x) (n : Nat) : (List.replicate n w).foldl f x = x := by
  induction n with
  | zero => rfl
  | succ n ih => rw [List.replicate_succ, List.foldl_cons, h, ih]

/-- A log that holds one page many times is merged in one step. -/
theorem mergeLog_replicate (n : Nat) (w : Word) (u : State) (hlog : (s.core c).dirtyLog = List.replicate (n + 1) w)
    (h1 : mergeStep c (s.modCore c fun k => { k with dirtyLog := [] }) w = u) (h2 : mergeStep c u w = u) : s.mergeLog c = u := by
  rw [mergeLog_eq, hlog, List.replicate_succ, List.foldl_cons, h1, foldl_replicate_fixed _ u w h2]

/-- The entry of a page in a core's dirty log. -/
def logWord (key : Nat) : Word := ofN (2 ^ 63 + key / 2 ^ 38 * 2 ^ 56 + key % 2 ^ 38)

/-- A page that the data TLB does not hold and a full log does not either keeps its store back. -/
theorem logDirty_full (key : Nat) (ht : (s.core c).dtlb = []) (hl : logWord key ∉ (s.core c).dirtyLog) (hf : dirtyCap ≤ (s.core c).dirtyLog.length) :
    s.logDirty c (some key) = none := by
  have hl' : (s.core c).dirtyLog.contains (logWord key) = false := by simpa using hl
  rw [logWord] at hl'
  simp only [State.logDirty, ht, List.find?_nil, hl', Bool.false_eq_true, if_false, ge_iff_le, hf, if_true]

/-- Logging a page writes no memory: it touches its core alone. -/
theorem logDirty_mem (page : Option Nat) (t : State) (h : s.logDirty c page = some t) : t.mem = s.mem := by
  unfold State.logDirty at h
  split at h
  · cases h; rfl
  · dsimp only at h
    split at h <;> split at h
    · cases h; rfl
    · split at h
      · cases h
      · cases h; rfl
    · cases h; rfl
    · split at h
      · cases h
      · cases h; rfl

/-- Where the log is full, a unit's write merges it first. -/
theorem logNow_full_mem (page : Option Nat) (h : s.logDirty c page = none) (ho : ((s.mergeLog c).logDirty c page).isSome = true) :
    (s.logNow c page).mem = (s.mergeLog c).mem := by
  obtain ⟨t, ht⟩ := Option.isSome_iff_exists.mp ho
  rw [State.logNow, h, ht]
  exact logDirty_mem _ c page t ht

/-! ## Adds of the device, and the end of a dead letter (R355, R396) -/

/-- Sending a request writes no memory. -/
theorem route_mem (r : Req) : (s.route r).mem = s.mem := by
  simp only [State.route, apply_ite State.mem, State.modHome_mem, State.post_mem, ite_self]

/-- An add of the device that nobody waits for writes memory only where its page is logged. -/
theorem sendAdd_mem (l : Loc) (op : ReqOp) (addr : Word) (origin : Nat) : (s.sendAdd c 0 l op addr origin).mem = (s.logNow c l.page).mem :=
  route_mem _ _

/-- The answer to the enqueue of a dead letter, where it says OK and the letter's context runs: DONE gets its add. -/
theorem reply_letter (h : HomeId) (r : Req) (x : Resp) (block : Word) (user : Bool) (size : Nat) (ws : List Word)
    (ho : r.owner = .post (.dead c (s.ctxOf (dieOf c)))) (ha : s.away (dieOf c) = false) (hop : r.op = .put block user size ws)
    (hx : wfld x.value 0 8 = 0) : s.reply h r x = s.capDone c ws := by
  simp only [State.reply, ho, State.postOver, hop, State.asContext, ha, and_self, if_true, State.letterOver, hx, BEq.rfl]

/-- DONE of a capsule names a usable counter: the add to it is sent. -/
theorem capDone_sends (ws : List Word) (l : Loc) (h0 : wordAt ws 3 ≠ 0) (hp : s.addPlace c (wordAt ws 3).toNat = .ok l) :
    s.capDone c ws = s.sendAdd c 0 l (.cadd (ofN 1)) (wordAt ws 3) 5 := by
  simp only [State.capDone, h0, if_false, State.deviceAdd, State.deviceOp, hp]

end

/-! ## A posted write whose waiter is a dead letter -/

/-- The root of a page table in HBM, its one entry, and a clean writable leaf that maps the first 2^33 bits. -/
def rootTable : Word := 0x8000000000000000
def rootEntry : Word := 0x8000000000000001
def leafEntry : Word := 0x9040000000000000

/-- The memory that holds the table, and the same with the leaf's D bit set. -/
def tableMem : Mem := (Mem.writeGran [] (hbmAddr 0 0) rootEntry).writeGran (hbmAddr 0 2048) leafEntry
def dirtyMem : Mem := tableMem.writeGran (hbmAddr 0 2048) (leafEntry ||| (1 <<< 55))

/-- The words of a dead letter whose DONE is the counter at virtual bit address 64, and its enqueue, as a request that waits for a posted write. -/
def letterWords : List Word := [0, 0, 0, 64]
def letterReq : Req := ⟨0, 0, 0, 0, hostAddr 0, [hostAddr 0], .put 0 false 4 letterWords, false, false, 0, false, false, true, .post (.dead 0 0), 0⟩

/-- A posted write of no bits, for which the letter waits. -/
def owedEntry : Posted := ⟨hostAddr 0, [hostAddr 0], 0, 0, [letterReq]⟩

/-- A machine with that table and memory, whose core 0 has a dirty log and whose die 0 has posted writes. -/
def paged (m : Mem) (log : List Word) (ps : List Posted) : State :=
  { State.reset with
    mem := m
    ctxs := [(16, { CtxRegs.init with ptroot := rootTable })]
    cores := [(0, { Core.init with dirtyLog := log })]
    dies := [(0, { Die.init with posted := ps })] }

/-- The entry of page 1, which the leaf maps, and a log full of it. -/
def loggedPage : Word := logWord 1
def fullLog : List Word := List.replicate dirtyCap loggedPage

theorem tableMem_wf : tableMem.wf = true := by decide +kernel

/-- The posted write itself leaves memory as it is. -/
theorem tableMem_written : tableMem.writeGran (hostAddr 0) (mergeBits ((tableMem.readGran (hostAddr 0)).getD 0) 0 0) = tableMem := by decide +kernel

theorem walk_tableMem (va : Nat) (h : va ∈ [64, 2 ^ 19]) : walkRoot tableMem 0 rootTable va = .leaf 2 leafEntry (hbmAddr 0 2048) := by
  revert va; decide +kernel

theorem walk_dirtyMem : walkRoot dirtyMem 0 rootTable (2 ^ 19) = .leaf 2 (leafEntry ||| (1 <<< 55)) (hbmAddr 0 2048) := by decide +kernel

/-- The flush writes the entry and answers the letter. -/
theorem flush_answers_letter (m : Mem) (log : List Word) : exec .postedWriteFlush (paged m log [owedEntry]) =
    .next ((paged (m.writeGran (hostAddr 0) (mergeBits ((m.readGran (hostAddr 0)).getD 0) 0 0)) log []).reply (.bridge 0) letterReq
      ⟨0, false, 0, .sysNow, false⟩) := rfl

section
variable (m : Mem) (log : List Word) (ps : List Posted)

theorem paged_ctx : ((paged m log ps).die 0).ctx = 0 := rfl

theorem paged_ctxOf : (paged m log ps).ctxOf 0 = 0 := by
  rw [State.ctxOf, paged_ctx]; rfl

theorem paged_ctxKey : (paged m log ps).ctxKey 0 = 16 := by
  rw [State.ctxKey, State.ctxWide, paged_ctxOf, paged_ctx]; rfl

theorem paged_ptroot : ((paged m log ps).ctxRegs 0).ptroot = rootTable := by
  rw [State.ctxRegs, paged_ctxKey]; rfl

theorem walk_paged (va : Nat) : (paged m log ps).walk 0 va = walkRoot m 0 rootTable va := by
  rw [State.walk, paged_ptroot]; rfl

/-- A page of the running context is logged, or merged, under the machine's root. -/
theorem mergeStep_paged (key : Nat) (w : Word) (hc : wfld w 56 4 = 0) (hk : wfld w 0 38 = key) :
    mergeStep 0 (paged m log ps) w = (paged m log ps).setDirty rootTable key := by
  have hr : ((paged m log ps).ctxRegsOf (dieOf 0) 0).ptroot = rootTable := by
    rw [State.ctxRegsOf, show dieOf 0 = 0 from rfl, paged_ctxOf, if_pos rfl, paged_ptroot]
  rw [mergeStep, hc, hk, hr]

end

/-- The counter's virtual place resolves to a granule in HBM, on page 0. -/
theorem addPlace_paged (log : List Word) : (paged tableMem log []).addPlace 0 64 = .ok ⟨hbmAddr 0 64, false, some 0⟩ := by
  have hw : (paged tableMem log []).walk 0 64 = .leaf 2 leafEntry (hbmAddr 0 2048) :=
    (walk_paged _ _ _ _).trans (walk_tableMem 64 (by decide))
  have hl : leafDenies .store leafEntry = none := by decide
  have hd : (paged tableMem log []).devGran 0 false .store 64 = .ok ⟨hbmAddr 0 64, false, some 0⟩ := by
    simp only [State.devGran, show dieOf 0 = 0 from rfl, hw, hl, paged_ctxOf]
    rfl
  simp only [State.addPlace, hd]
  rfl

/-- A full log merged: its one page's leaf is dirty. -/
theorem mergeLog_paged : (paged tableMem fullLog []).mergeLog 0 = paged dirtyMem [] [] := by
  refine mergeLog_replicate _ 0 2047 loggedPage _ rfl ?_ ?_
  · show mergeStep 0 (paged tableMem [] []) loggedPage = _
    rw [mergeStep_paged _ _ _ 1 loggedPage (by decide) (by decide)]
    exact setDirty_clean _ _ leafEntry 1 2 (hbmAddr 0 2048) (walk_tableMem _ (by decide)) (by decide)
  · rw [mergeStep_paged _ _ _ 1 loggedPage (by decide) (by decide)]
    exact setDirty_dirty _ _ (leafEntry ||| (1 <<< 55)) 1 2 (hbmAddr 0 2048) walk_dirtyMem (by decide)

/-- A page that is not logged finds the full log, and is logged once that is merged. -/
theorem logNow_paged : ((paged tableMem fullLog []).logNow 0 (some 0)).mem = dirtyMem := by
  have hfull : (paged tableMem fullLog []).logDirty 0 (some 0) = none := by
    refine logDirty_full _ 0 0 rfl ?_ ?_
    · exact fun h => absurd (List.eq_of_mem_replicate h) (by decide)
    · exact Nat.le_of_eq List.length_replicate.symm
  have hthen : (((paged tableMem fullLog []).mergeLog 0).logDirty 0 (some 0)).isSome = true := by
    rw [mergeLog_paged]; rfl
  rw [logNow_full_mem _ 0 (some 0) hfull hthen, mergeLog_paged]
  rfl

/-- The letter's end sends the add to DONE, whose page the full log has to be merged for. -/
theorem letter_writes_leaf : ((paged tableMem fullLog []).reply (.bridge 0) letterReq ⟨0, false, 0, .sysNow, false⟩).mem = dirtyMem := by
  rw [reply_letter _ 0 _ letterReq _ 0 false 4 letterWords ?_ rfl rfl (by decide),
    capDone_sends _ 0 letterWords _ (by decide) (addPlace_paged fullLog), sendAdd_mem, logNow_paged]
  rw [show dieOf 0 = 0 from rfl, paged_ctxOf]; rfl

/-- Refutes O49: its clause on POSTED_WRITE_FLUSH says that memory changes in the entry's granule alone, whoever waits for the entry. In the state
`paged tableMem fullLog [owedEntry]` the waiter is the enqueue of a dead letter. Its end makes an add to DONE, the page of that counter is logged, and as
the dirty log of core 0 is full it is merged first, which sets the D bit of a page-table leaf in HBM. `State.postPut` sends no such request to a
bridge, but the statement speaks of every state whose memory is canonical, and asks for a strand's waiters only where it says that they are
answered. -/
theorem not_orderingSteps : ¬ Obligations.OrderingSteps := by
  unfold Obligations.OrderingSteps
  intro h
  obtain ⟨-, -, -, hflush, -⟩ := h (paged tableMem fullLog [owedEntry]) tableMem_wf
  obtain ⟨t, ht, ⟨-, hframe⟩, -⟩ := hflush owedEntry rfl (fun x hx => absurd hx (List.not_mem_nil)) rfl (by decide)
  have e : t.mem = dirtyMem := by
    rw [flush_answers_letter, tableMem_written] at ht
    rw [← Host.Outcome.next.inj ht]
    exact letter_writes_leaf
  have hbyte : t.mem.readByte (hbmAddr 0 2048 / 8 + 6) = tableMem.readByte (hbmAddr 0 2048 / 8 + 6) := hframe _ (by decide) (by decide)
  rw [e] at hbyte
  exact absurd hbyte (by decide +kernel)

end Sys2Proof.Ordering
end

section
/-! PROOFS. Scalar floating point: what the operations answer to values of each kind, and the results of the instructions (R76, R77, R79, R138 to
R141). -/

namespace Sys2Proof.NumberFormats

open Sys2Proof Sys2Proof.Machine

/-! ## Exact sums and products of special values -/

section
variable (rm : Nat) (v : FVal) (x y : Bool) (e : Int)

@[simp] theorem fnegV_nan : fnegV .nan = .nan := rfl
@[simp] theorem fnegV_inf : fnegV (.inf x) = .inf !x := rfl

@[simp] theorem fprod_nan_left : fprod .nan v = some .nan := rfl
@[simp] theorem fprod_nan_right : fprod v .nan = some .nan := by cases v <;> rfl
@[simp] theorem fprod_inf_zero : fprod (.inf x) (.fin y 0 e) = none := rfl

@[simp] theorem fsum2_nan_left : fsum2 rm .nan v = some .nan := rfl
@[simp] theorem fsum2_nan_right : fsum2 rm v .nan = some .nan := by cases v <;> rfl
@[simp] theorem fsum2_inf_same : fsum2 rm (.inf x) (.inf x) = some (.inf x) := if_pos rfl
@[simp] theorem fsum2_inf_opposite : fsum2 rm (.inf x) (.inf !x) = none := if_neg (by cases x <;> decide)

end

section
variable (t u : Ty) (fp : FpEnv) (l : Nat)

/-! ## Rounding of special values -/

@[simp] theorem roundOpt_nan : roundOpt t fp l (some .nan) = (canonNan t fp.nanm, 0) := rfl
@[simp] theorem roundOpt_inf (x : Bool) : roundOpt t fp l (some (.inf x)) = (mkInf t fp.nanm x, 0) := rfl
@[simp] theorem roundOpt_none : roundOpt t fp l none = (canonNan t fp.nanm, flagNV) := rfl

variable {a b : Nat} {x y : Bool} {m : Nat} {e n : Int}

/-! ## A NaN operand (R138, R139) -/

section
variable (h : fdecode t fp.nanm a = .nan ∨ fdecode t fp.nanm b = .nan)
include h

theorem fadd_nan : fadd t fp l a b = (canonNan t fp.nanm, 0) := by
  rcases h with h | h <;> simp [fadd, h]

theorem fsub_nan : fsub t fp l a b = (canonNan t fp.nanm, 0) := by
  rcases h with h | h <;> simp [fsub, h]

theorem fmul_nan : fmul t fp l a b = (canonNan t fp.nanm, 0) := by
  rcases h with h | h <;> simp [fmul, h]

theorem fdiv_nan : fdiv t fp l a b = (canonNan t fp.nanm, 0) := by
  rcases h with h | h
  · simp only [fdiv, h]
  · rw [fdiv, h]; cases fdecode t fp.nanm a <;> rfl

/-- Of the compares with a NaN, those that order set NV (R139). -/
theorem fcompare_nan (lt eq : Bool) : fcompare t fp.nanm lt eq a b = (false, if lt then flagNV else 0) := if_pos h

end

theorem fminmax_nan_nan (isMax : Bool) (ha : fdecode t fp.nanm a = .nan) (hb : fdecode t fp.nanm b = .nan) :
    fminmax t fp.nanm isMax a b = canonNan t fp.nanm := by
  simp only [fminmax, ha, hb, if_true]

theorem fminmax_nan_left (isMax : Bool) (ha : fdecode t fp.nanm a = .nan) (hb : fdecode t fp.nanm b ≠ .nan) :
    fminmax t fp.nanm isMax a b = b % 2 ^ t.bits := by
  simp only [fminmax, ha, if_true, if_neg hb]

theorem fsqrt_nan (h : fdecode t fp.nanm a = .nan) : fsqrt t fp l a = (canonNan t fp.nanm, 0) := by
  simp only [fsqrt, h]

theorem fclass_nan (h : fdecode t fp.nanm a = .nan) : fclass t fp.nanm a = 256 := by
  simp only [fclass, h] <;> rfl

/-! ## Infinities (R79, R138, R141) -/

section
variable (ha : fdecode t fp.nanm a = .inf x)
include ha

theorem fadd_inf_same (hb : fdecode t fp.nanm b = .inf x) : fadd t fp l a b = (mkInf t fp.nanm x, 0) := by
  simp [fadd, ha, hb]

theorem fsub_inf_same (hb : fdecode t fp.nanm b = .inf x) : fsub t fp l a b = (canonNan t fp.nanm, flagNV) := by
  simp [fsub, ha, hb]

theorem fdiv_inf_inf (hb : fdecode t fp.nanm b = .inf y) : fdiv t fp l a b = (canonNan t fp.nanm, flagNV) := by
  simp only [fdiv, ha, hb]

theorem fmul_inf_zero (hb : fdecode t fp.nanm b = .fin y 0 e) : fmul t fp l a b = (canonNan t fp.nanm, flagNV) := by
  simp [fmul, ha, hb]

/-- Infinity times zero is invalid whatever the addend is, a NaN too (R141). -/
theorem ffma_inf_zero (hb : fdecode t fp.nanm b = .fin y 0 e) (negP negX : Bool) (c : Nat) :
    ffma t fp l negP negX a b c = (canonNan t fp.nanm, flagNV) := by
  simp only [ffma, ha, hb, fprod_inf_zero]

theorem fdiv_inf_fin (hb : fdecode t fp.nanm b = .fin y m e) : fdiv t fp l a b = (mkInf t fp.nanm (x != y), 0) := by
  simp only [fdiv, ha, hb]

end

theorem fsqrt_neg_inf (h : fdecode t fp.nanm a = .inf true) : fsqrt t fp l a = (canonNan t fp.nanm, flagNV) := by
  simp only [fsqrt, h, if_true]

/-! ## Zero divisors and negative radicands (R79, R138) -/

theorem fdiv_zero_zero (ha : fdecode t fp.nanm a = .fin x 0 n) (hb : fdecode t fp.nanm b = .fin y 0 e) :
    fdiv t fp l a b = (canonNan t fp.nanm, flagNV) := by
  simp only [fdiv, ha, hb, if_true]

theorem fdiv_by_zero (ha : fdecode t fp.nanm a = .fin x m n) (hm : m ≠ 0) (hb : fdecode t fp.nanm b = .fin y 0 e) :
    fdiv t fp l a b = (mkInf t fp.nanm (x != y), flagDZ) := by
  simp only [fdiv, ha, hb, if_true, if_neg hm]

theorem fsqrt_negative (h : fdecode t fp.nanm a = .fin true m e) (hm : m ≠ 0) : fsqrt t fp l a = (canonNan t fp.nanm, flagNV) := by
  simp only [fsqrt, h, if_neg hm, if_true]

/-! ## Conversions to integers (R77) -/

/-- The code of an unsigned type's largest value is that value. -/
theorem ofSigned_max (w : Nat) : ofSigned w (((2 ^ w : Nat) : Int) - 1) = 2 ^ w - 1 := by
  have hpos : 0 < 2 ^ w := Nat.two_pow_pos w
  rw [ofSigned, Int.emod_eq_of_lt (by omega) (by omega)]
  omega

section
variable (ht : t.isFp = true) (hu : u.isFp = false)
include ht hu

theorem fconvert_fp_int : fconvert u t fp l a = cvtFI u t fp l a := by
  simp only [fconvert, ht, hu]

theorem fconvert_nan_int (h : fdecode t fp.nanm a = .nan) : fconvert u t fp l a = (0, flagNV) := by
  rw [fconvert_fp_int t u fp l ht hu]
  simp only [cvtFI, h]

theorem fconvert_inf_unsigned (hs : u.isSigned = false) (h : fdecode t fp.nanm a = .inf false) :
    fconvert u t fp l a = (2 ^ u.bits - 1, flagNV) := by
  rw [fconvert_fp_int t u fp l ht hu]
  simp only [cvtFI, h, intRange, hs, Bool.false_eq_true, if_false, ofSigned_max]

end

end

/-- Settles O22: each clause is what one operation answers to operands of one kind. -/
theorem floatSpecialValues : Obligations.FloatSpecialValues := by
  unfold Obligations.FloatSpecialValues
  intro t u fp l a b c x y m e n
  refine ⟨fun h => ⟨fadd_nan t fp l h, fsub_nan t fp l h, fmul_nan t fp l h, fdiv_nan t fp l h, fcompare_nan t fp h false true,
      fcompare_nan t fp h true false, fcompare_nan t fp h true true⟩,
    fun ha hb => ⟨fminmax_nan_nan t fp false ha hb, fminmax_nan_nan t fp true ha hb⟩,
    fun ha hb => ⟨fminmax_nan_left t fp false ha hb, fminmax_nan_left t fp true ha hb⟩,
    fun ha hb => ⟨fadd_inf_same t fp l ha hb, fsub_inf_same t fp l ha hb, fdiv_inf_inf t fp l ha hb⟩,
    fun ha hb => ⟨fmul_inf_zero t fp l ha hb, ffma_inf_zero t fp l ha hb false false c, fdiv_inf_fin t fp l ha hb⟩,
    fdiv_zero_zero t fp l, fdiv_by_zero t fp l, fsqrt_negative t fp l, fsqrt_neg_inf t fp l,
    fun h => ⟨fsqrt_nan t fp l h, fclass_nan t fp h⟩,
    fun h ht hu => fconvert_nan_int t u fp l ht hu h,
    fun h ht hu hs => fconvert_inf_unsigned t u fp l ht hu hs h⟩

/-! ## Selection and comparison of numbers (R139) -/

section
variable {t : Ty} {nanm : Bool} {a b : Nat} (ha : fdecode t nanm a ≠ .nan) (hb : fdecode t nanm b ≠ .nan)
include ha hb

theorem fmin_number : fminmax t nanm false a b =
    if ftotalLt (fdecode t nanm b) (fdecode t nanm a) then b % 2 ^ t.bits else a % 2 ^ t.bits := by
  simp only [fminmax, if_neg ha, if_neg hb, Bool.false_eq_true, if_false]

theorem fmax_number : fminmax t nanm true a b =
    if ftotalLt (fdecode t nanm a) (fdecode t nanm b) then b % 2 ^ t.bits else a % 2 ^ t.bits := by
  simp only [fminmax, if_neg ha, if_neg hb, if_true]

/-- Numbers are equal where neither is below the other. -/
theorem feqV_number : feqV (fdecode t nanm a) (fdecode t nanm b) =
    (!fltV (fdecode t nanm a) (fdecode t nanm b) && !fltV (fdecode t nanm b) (fdecode t nanm a)) := by
  simp only [feqV, bne_iff_ne.mpr ha, bne_iff_ne.mpr hb, Bool.true_and]

theorem fcompare_number (lt eq : Bool) : fcompare t nanm lt eq a b =
    ((lt && fltV (fdecode t nanm a) (fdecode t nanm b)) || (eq && feqV (fdecode t nanm a) (fdecode t nanm b)), 0) :=
  if_neg (not_or.mpr ⟨ha, hb⟩)

end

/-! ## What the scalar FP instructions write (R127, R137) -/

section
variable (s : State) (t : Ty) (d a b : Reg)

theorem setReg_eq (v : Word) : s.setReg d v = .next (s.wrote d v) := by
  rw [State.setReg, State.wr_eq, State.retire_eq, State.modMe_modMe]
  rfl

theorem setFp_eq (r : Nat × Nat) : s.setFp d r = .next ((s.addFlags r.2).wrote d (ofN r.1)) := setReg_eq _ d _

theorem setCmp_eq (r : Bool × Nat) : s.setCmp d r = .next ((s.addFlags r.2).wrote d (boolWord r.1)) := setReg_eq _ d _

/-- The value an operand of an FP type has (R65, R66, R137). -/
def operand (r : Reg) : FVal := fdecode t s.myFp.nanm (s.rdFp t r)

theorem rdFp_mod (r : Reg) : s.rdFp t r % 2 ^ t.bits = s.rdFp t r := Nat.mod_mod _ _

variable (ha : operand s t a ≠ .nan) (hb : operand s t b ≠ .nan)
include ha hb

theorem exec_fmin : exec (.fmin t d a b) s =
    .next (s.wrote d (ofN (if ftotalLt (operand s t b) (operand s t a) then s.rdFp t b else s.rdFp t a))) := by
  show s.setReg d (ofN (fminmax t s.myFp.nanm false (s.rdFp t a) (s.rdFp t b))) = _
  rw [setReg_eq, fmin_number ha hb, rdFp_mod, rdFp_mod]
  rfl

theorem exec_fmax : exec (.fmax t d a b) s =
    .next (s.wrote d (ofN (if ftotalLt (operand s t a) (operand s t b) then s.rdFp t b else s.rdFp t a))) := by
  show s.setReg d (ofN (fminmax t s.myFp.nanm true (s.rdFp t a) (s.rdFp t b))) = _
  rw [setReg_eq, fmax_number ha hb, rdFp_mod, rdFp_mod]
  rfl

/-- A compare of numbers writes its truth and raises no flag. -/
theorem setCmp_number (lt eq : Bool) : s.setCmp d (fcompare t s.myFp.nanm lt eq (s.rdFp t a) (s.rdFp t b)) =
    .next ((s.addFlags 0).wrote d (boolWord ((lt && fltV (operand s t a) (operand s t b)) ||
      (eq && (!fltV (operand s t a) (operand s t b) && !fltV (operand s t b) (operand s t a)))))) := by
  rw [setCmp_eq, fcompare_number ha hb, feqV_number ha hb]
  rfl

theorem exec_fcmpeq : exec (.fcmpeq t d a b) s =
    .next ((s.addFlags 0).wrote d (if fltV (operand s t a) (operand s t b) ∨ fltV (operand s t b) (operand s t a) then 0 else 1)) := by
  refine (setCmp_number s t d a b ha hb false true).trans ?_
  cases fltV (operand s t a) (operand s t b) <;> cases fltV (operand s t b) (operand s t a) <;> rfl

theorem exec_fcmplt : exec (.fcmplt t d a b) s =
    .next ((s.addFlags 0).wrote d (if fltV (operand s t a) (operand s t b) then 1 else 0)) := by
  refine (setCmp_number s t d a b ha hb true false).trans ?_
  cases fltV (operand s t a) (operand s t b) <;> rfl

theorem exec_fcmple : exec (.fcmple t d a b) s =
    .next ((s.addFlags 0).wrote d (if fltV (operand s t a) (operand s t b) ∨ ¬fltV (operand s t b) (operand s t a) then 1 else 0)) := by
  refine (setCmp_number s t d a b ha hb true true).trans ?_
  cases fltV (operand s t a) (operand s t b) <;> cases fltV (operand s t b) (operand s t a) <;> rfl

end

/-- Settles O21: the arithmetic instructions write what the operation of the same name answers, and add its flags; of the selecting and comparing
ones the operands that are numbers leave one branch. -/
theorem scalarFloatResults : Obligations.ScalarFloatResults := by
  unfold Obligations.ScalarFloatResults
  intro s t u f d a b c
  refine ⟨setFp_eq s d _, setFp_eq s d _, setFp_eq s d _, setFp_eq s d _, setFp_eq s d _,
    (setFp_eq s d _).trans rfl, fun ha hb => ?_, setReg_eq s d _, setReg_eq _ d _⟩
  exact ⟨exec_fmin s t d a b ha hb, exec_fmax s t d a b ha hb, exec_fcmpeq s t d a b ha hb, exec_fcmplt s t d a b ha hb,
    exec_fcmple s t d a b ha hb⟩

end Sys2Proof.NumberFormats
end

section
/-! PROOFS. Memory at reset, privileged instructions and the checks of control registers (R106, R107, R154 to R158, R232), with what posting a
fault record leaves of the strands (R118, R119). -/

namespace Sys2Proof.StrandEngine

open Sys2Proof Sys2Proof.Machine

/-- Settles O4: no byte is listed at reset. -/
theorem resetIsCanonical : Obligations.ResetIsCanonical := by
  unfold Obligations.ResetIsCanonical State.Inv
  exact Mem.wf_nil

/-! ## What posting a fault record leaves of the strands (R118, R119, R396) -/

/-- t has the strands of s, and the same one runs. -/
structure KeepsStrands (s t : State) : Prop where
  strands : t.strands = s.strands
  cur : t.cur = s.cur

namespace KeepsStrands

variable {s t u : State}

theorem refl (s : State) : KeepsStrands s s := ⟨rfl, rfl⟩

theorem trans (h : KeepsStrands s t) (k : KeepsStrands t u) : KeepsStrands s u :=
  ⟨k.strands.trans h.strands, k.cur.trans h.cur⟩

theorem strand (h : KeepsStrands s t) (k : Nat) : t.strand k = s.strand k := by rw [State.strand, h.strands]; rfl

theorem me (h : KeepsStrands s t) : t.me = s.me := by rw [State.me, h.strand, h.cur]; rfl

/-- Steps that each keep the strands keep them together. -/
theorem foldl {α : Type} (f : State → α → State) (hf : ∀ s x, KeepsStrands s (f s x)) (xs : List α) (s : State) :
    KeepsStrands s (xs.foldl f s) := by
  induction xs generalizing s with
  | nil => exact refl s
  | cons x xs ih => exact (hf s x).trans (ih (f s x))

end KeepsStrands

section
variable (s : State)

theorem route_keepsStrands (r : Req) : KeepsStrands s (s.route r) := by
  constructor
  · simp only [State.route, apply_ite State.strands, State.modHome_strands, State.post_strands, ite_self]
  · simp only [State.route, apply_ite State.cur, State.modHome_cur, State.post_cur, ite_self]

theorem setDirty_keepsStrands (root : Word) (page : Nat) : KeepsStrands s (s.setDirty root page) := by
  simp only [State.setDirty]
  split
  · split <;> exact ⟨rfl, rfl⟩
  · exact .refl s

theorem mergeLog_keepsStrands (c : Nat) : KeepsStrands s (s.mergeLog c) := by
  rw [Ordering.mergeLog_eq]
  exact KeepsStrands.trans (t := s.modCore c fun k => { k with dirtyLog := [] }) ⟨rfl, rfl⟩
    (.foldl _ (fun s _ => setDirty_keepsStrands s _ _) _ _)

theorem logDirty_keepsStrands (c : Nat) (page : Option Nat) (t : State) (h : s.logDirty c page = some t) : KeepsStrands s t := by
  unfold State.logDirty at h
  split at h
  · cases h; exact .refl s
  · dsimp only at h
    split at h
    · split at h
      · cases h; exact .refl s
      · split at h
        · cases h
        · cases h; exact ⟨rfl, rfl⟩
    · split at h
      · cases h; exact .refl s
      · split at h
        · cases h
        · cases h; exact ⟨rfl, rfl⟩

theorem logNow_keepsStrands (c : Nat) (page : Option Nat) : KeepsStrands s (s.logNow c page) := by
  unfold State.logNow
  split
  · next t h => exact logDirty_keepsStrands s c page t h
  · cases h : (s.mergeLog c).logDirty c page with
    | none => exact .refl s
    | some t => exact (mergeLog_keepsStrands s c).trans (logDirty_keepsStrands _ c page t h)

/-- An add of the device that nobody waits for. -/
theorem sendAdd_keepsStrands (c : Nat) (l : Loc) (op : ReqOp) (addr : Word) (origin : Nat) : KeepsStrands s (s.sendAdd c 0 l op addr origin) :=
  (logNow_keepsStrands s c l.page).trans (route_keepsStrands _ _)

theorem fqAdvance_keepsStrands (q ctx : Nat) : KeepsStrands s (s.fqAdvance q ctx) := by
  simp only [State.fqAdvance]
  split
  · exact .refl s
  · split
    · exact sendAdd_keepsStrands s _ _ _ _ _
    · exact ⟨rfl, rfl⟩

theorem fqHold_keepsStrands (q ctx : Nat) (r : FaultRec) : KeepsStrands s (s.fqHold q ctx r) := by
  unfold State.fqHold
  split
  · exact ⟨rfl, rfl⟩
  · exact fqAdvance_keepsStrands s q ctx

theorem fqHoldAll_keepsStrands (q ctx : Nat) : KeepsStrands s (s.fqHoldAll q ctx) :=
  KeepsStrands.trans (t := s.modQuad q fun k => { k with posting := k.posting.filter fun h => h.1 != ctx }) ⟨rfl, rfl⟩
    (.foldl _ (fun s r => fqHold_keepsStrands s q ctx r) _ _)

theorem postPut_keepsStrands (c : Nat) (user : Bool) (block : Word) (size : Nat) (words : List Word) (p : Post) (t : State)
    (h : s.postPut c user block size words p = .ok t) : KeepsStrands s t := by
  unfold State.postPut at h
  split at h
  · cases h
  · split at h
    · cases h
    · split at h
      · cases h
      · cases h; exact route_keepsStrands s _

theorem fqSend_keepsStrands (q ctx : Nat) : KeepsStrands s (s.fqSend q ctx) := by
  unfold State.fqSend
  split
  · exact .refl s
  · dsimp only
    split
    · exact fqHoldAll_keepsStrands s q ctx
    · split
      · next t h => exact postPut_keepsStrands s _ _ _ _ _ _ t h
      · exact fqHoldAll_keepsStrands s q ctx

theorem fqTake_keepsStrands (q ctx : Nat) (r : FaultRec) : KeepsStrands s (s.fqTake q ctx r) := by
  have h : KeepsStrands s (s.modQuad q fun k => { k with posting := k.posting ++ [(ctx, r)] }) := ⟨rfl, rfl⟩
  simp only [State.fqTake]
  split
  · exact h
  · exact h.trans (fqSend_keepsStrands _ q ctx)

theorem postRec_keepsStrands (q : Nat) (r : FaultRec) : KeepsStrands s (s.postRec q r) := by
  have h : ∀ key n, KeepsStrands s (s.lifeAdd key n) := fun _ _ => ⟨rfl, rfl⟩
  simp only [State.postRec]
  split
  · exact (h _ _).trans (fqHold_keepsStrands _ q _ r)
  · exact (h _ _).trans (fqTake_keepsStrands _ q _ r)

theorem postFault_keepsStrands (c src code : Nat) (w1 : Word) (strand w3 w4 : Nat) (more : List Word) :
    KeepsStrands s (s.postFault c src code w1 strand w3 w4 more) := postRec_keepsStrands s _ _

/-! ## Privilege (R107, R155) -/

section
variable {s} (k : State → Out)

theorem privileged_user (h : s.user = true) : s.privileged k = .next (s.trap cPROT 0) := if_pos h

theorem privileged_supervisor (h : s.user = false) : s.privileged k = k s := if_neg (by simp [h])

theorem user_of_mode (h : s.me.status.mode = true) : s.user = false := by rw [State.user, h]; rfl

end

/-! ### The instructions of R154 and R156 to R158 -/

theorem exec_eret : exec .eret s = s.privileged fun s => .next s.eret := rfl

/-- The running strand, stopped. -/
def stopMe : State := s.modMe fun t => { t with status := { t.status with state := .stopped } }

theorem exec_halt : exec .halt s =
    s.privileged fun s => .next ((stopMe s).postFault s.ci 3 0 s.me.pc (s.cur % 8) 0 0 []) := rfl

theorem exec_harvest : exec .harvest s = s.privileged fun s => .next (s.startPackage (.harvest (s.ctxOf (dieOf s.ci)))) := rfl

theorem exec_tlbinvPage (a b : Reg) : exec (.tlbinvPage a b) s = s.tlbinv (.tlbinvPage (s.rd a) (wfld (s.rd b) 0 4)) := rfl

theorem exec_tlbinvCtx (b : Reg) : exec (.tlbinvCtx b) s = s.tlbinv (.tlbinvCtx (wfld (s.rd b) 0 4)) := rfl

theorem exec_tlbinvAll : exec .tlbinvAll s = s.tlbinv .tlbinvAll := rfl

theorem tlbinv_user (op : PackageOp) (h : s.user = true) : s.tlbinv op = .next (s.trap cPROT 0) := privileged_user _ h

theorem exec_rankmap_user (sc : Scope) (d a b : Reg) (h : s.user = true) : exec (.rankmap sc d a b) s = .next (s.trap cPROT 0) := by
  show execRankmap sc d a b s = _
  exact privileged_user _ h

/-- The record of a HALT leaves the strand as it stopped. -/
theorem exec_halt_me (h : s.user = false) : ∃ t, exec .halt s = .next t ∧ t.me = { s.me with status := { s.me.status with state := .stopped } } :=
  ⟨_, (exec_halt s).trans (privileged_supervisor _ h), (postFault_keepsStrands _ _ _ _ _ _ _ _ _).me.trans (s.me_modMe _)⟩

/-! ## Control registers (R106, R155) -/

section
variable {s} {n : BitVec 12} {x : CtlInfo} (hx : ctlInfo n.toNat = some x) (d a : Reg)
include hx

theorem exec_ctlrd_user (hu : s.user = true) (hr : x.userR = false) : exec (.ctlrd d n) s = .next (s.trap cPROT 0) := by
  show execCtlrd d n s = _
  simp only [execCtlrd, hx, hu, hr, Bool.not_false, Bool.and_self, if_true]

theorem exec_ctlwr_user (hu : s.user = true) (hw : x.userW = false) : exec (.ctlwr a n) s = .next (s.trap cPROT 0) := by
  show execCtlwr a n s = _
  simp only [execCtlwr, hx, hu, hw, Bool.not_false, Bool.and_self, if_true]

theorem exec_ctlrd (hu : s.user = false) : exec (.ctlrd d n) s = .next (s.wrote d (s.ctlRead n.toNat)) := by
  show execCtlrd d n s = _
  simp only [execCtlrd, hx, hu, Bool.false_and, Bool.false_eq_true, if_false, NumberFormats.setReg_eq]

/-- A read-only register and a forbidden value raise ILL. -/
theorem exec_ctlwr_ill (hu : s.user = false) (h : x.ro = true ∨ ctlForbids n.toNat (s.rd a) = true) :
    exec (.ctlwr a n) s = .next (s.trap cILL (illWord (.ctlwr a n))) := by
  show execCtlwr a n s = _
  simp only [execCtlwr, hx, hu, Bool.false_and, Bool.false_eq_true, if_false]
  by_cases hr : x.ro = true
  · rw [if_pos hr]; rfl
  · rw [if_neg hr, if_pos (h.resolve_left hr)]; rfl

/-- A write that the register's rules allow; of ctl.bankhash once the home unit's queues are empty (R185). -/
theorem exec_ctlwr (hu : s.user = false) (hr : x.ro = false) (hf : ctlForbids n.toNat (s.rd a) = false)
    (hq : n.toNat = 0x041 → s.homeQuiet s.ci = true) : exec (.ctlwr a n) s = .next ((s.ctlWrite n.toNat (s.rd a)).retire 32) := by
  have hq' : ¬(n.toNat = 0x041 ∧ s.homeQuiet s.ci = false) := fun h => by simp [hq h.1] at h
  show execCtlwr a n s = _
  simp only [execCtlwr, hx, hu, hr, hf, hq', Bool.false_and, Bool.false_eq_true, if_false]

/-- A write of ctl.bankhash waits while the queues of its home unit are not empty (R185). -/
theorem exec_ctlwr_waits (hu : s.user = false) (hr : x.ro = false) (hf : ctlForbids n.toNat (s.rd a) = false) (hn : n.toNat = 0x041)
    (hq : s.homeQuiet s.ci = false) : exec (.ctlwr a n) s = .next s := by
  show execCtlwr a n s = _
  simp only [execCtlwr, hx, hu, hr, hf, Bool.false_and, Bool.false_eq_true, if_false]
  exact if_pos ⟨hn, hq⟩

end

section
variable {s} {n : BitVec 12} (hn : ctlInfo n.toNat = none) (d a : Reg)
include hn

/-- A number that R106 does not list. -/
theorem exec_ctlrd_unlisted : exec (.ctlrd d n) s = .next (s.trap cILL (illWord (.ctlrd d n))) := by
  show execCtlrd d n s = _
  simp only [execCtlrd, hn, State.ill]

theorem exec_ctlwr_unlisted : exec (.ctlwr a n) s = .next (s.trap cILL (illWord (.ctlwr a n))) := by
  show execCtlwr a n s = _
  simp only [execCtlwr, hn, State.ill]

end

end

/-- Settles O13: each instruction asks for supervisor mode first; what a HALT leaves of its strand is not touched by the fault record it posts. -/
theorem privilegedInstructions : Obligations.PrivilegedInstructions := by
  unfold Obligations.PrivilegedInstructions
  refine ⟨fun s hm => ?_, fun s hm => ?_, fun s hu => ⟨?_, ?_, ?_, fun a b => ?_, fun b => ?_, ?_, fun sc d a b => exec_rankmap_user s sc d a b hu,
    fun d n x hx hr => exec_ctlrd_user hx d hu hr, fun a n x hx hw => exec_ctlwr_user hx a hu hw⟩⟩
  · rw [exec_eret, privileged_supervisor _ (user_of_mode hm)]
    rfl
  · obtain ⟨t, ht, hme⟩ := exec_halt_me s (user_of_mode hm)
    exact ⟨t, ht, by rw [hme], by rw [hme], by rw [hme], by rw [hme], by rw [hme]⟩
  · rw [exec_eret, privileged_user _ hu]
  · rw [exec_halt, privileged_user _ hu]
  · rw [exec_harvest, privileged_user _ hu]
  · rw [exec_tlbinvPage, tlbinv_user s _ hu]
  · rw [exec_tlbinvCtx, tlbinv_user s _ hu]
  · rw [exec_tlbinvAll, tlbinv_user s _ hu]

end Sys2Proof.StrandEngine
end

section
/-! PROOFS. Control registers: what a write leaves and a read gives, and the reads of status words (R106, R155, R159, R300, R335, R378). -/

namespace Sys2Proof.StrandEngine

open Sys2Proof Sys2Proof.Machine

/-! ## What a write of a control register does (R106) -/

section
variable (s : State) (v : Word)

/-- All that may be written but ctl.status, which keeps STATE, ctl.fq, whose write releases held records, and ctl.bankhash, whose write waits (R107, R119,
R185). -/
def plainCtls : List Nat :=
  [0x001, 0x002, 0x003, 0x004, 0x005, 0x006, 0x007, 0x008, 0x010, 0x011, 0x012, 0x013, 0x014, 0x030, 0x031, 0x033, 0x034, 0x035, 0x040, 0x042, 0x043,
    0x050]

/-- Those that each strand, core, quad, die or context has one of. -/
def strandCtls : List Nat := [0x010, 0x011, 0x012, 0x014]
def coreCtls : List Nat := [0x001, 0x002, 0x003, 0x004, 0x005, 0x006, 0x007, 0x008, 0x040, 0x042]
def quadCtls : List Nat := [0x033, 0x035, 0x043, 0x050]
def dieCtls : List Nat := [0x034]
def ctxCtls : List Nat := [0x013, 0x030, 0x031]

theorem plainCtls_holder : ∀ n ∈ plainCtls, n ∈ strandCtls ∨ n ∈ coreCtls ∨ n ∈ quadCtls ∨ n ∈ dieCtls ∨ n ∈ ctxCtls := by decide

theorem ctlInfo_plain : ∀ n ∈ plainCtls, n ≠ 0x041 ∧ (ctlInfo n).any (fun x => !x.ro) = true := by decide

theorem setDet_keepsStrands (c : Nat) : KeepsStrands s (s.setDet c v) := by
  simp only [State.setDet]; split <;> exact ⟨rfl, rfl⟩

theorem setDet_mem (c : Nat) : (s.setDet c v).mem = s.mem := by
  simp only [State.setDet]; split <;> rfl

theorem setDet_det (c : Nat) : ((s.setDet c v).core c).det = v := by
  have h : ((s.modCore c fun k => { k with det := v }).core c).det = v := by rw [State.core_modCore]
  simp only [State.setDet]; split <;> exact h

theorem ctxRegs_modCtxRegs (d : Nat) (f : CtxRegs → CtxRegs) : (s.modCtxRegs d f).ctxRegs d = f (s.ctxRegs d) := by
  show KMap.get (s.ctxs.set (s.ctxKey d) (f (s.ctxRegs d))) (s.ctxKey d) CtxRegs.init = _
  exact KMap.get_set _ _ _ _

theorem me_retire (k : Nat) : (s.retire k).me = s.me.retireTo (s.me.pc + ofN k) := s.me_modMe _

/-! ### The value is read back, whoever holds it -/

theorem ctlRead_write_strand : ∀ n ∈ strandCtls, ((s.ctlWrite n v).retire 32).ctlRead n = v := by
  have h (f : Strand → Strand) : ((s.modMe f).retire 32).me = (f s.me).retireTo ((f s.me).pc + ofN 32) := by rw [me_retire, State.me_modMe]
  simp only [strandCtls, List.forall_mem_cons]
  exact ⟨congrArg Strand.epc (h _), congrArg Strand.cause (h _), congrArg Strand.tval (h _), congrArg Strand.sscratch (h _), List.forall_mem_nil _⟩

theorem ctlRead_write_core : ∀ n ∈ coreCtls, ((s.ctlWrite n v).retire 32).ctlRead n = v := by
  have h (f : Core → Core) : ((s.modCore s.ci f).retire 32).myCore = f s.myCore := s.core_modCore s.ci f
  have hdet : ((s.setDet s.ci v).retire 32).myCore.det = v := by
    show ((s.setDet s.ci v).core (coreOf (s.setDet s.ci v).cur)).det = v
    rw [(setDet_keepsStrands s v s.ci).cur]
    exact setDet_det s v s.ci
  simp only [coreCtls, List.forall_mem_cons]
  exact ⟨congrArg Core.rm (h _), congrArg Core.nanmode (h _), hdet, congrArg Core.lfmode (h _), congrArg Core.fflags (h _), congrArg Core.srseed (h _),
    congrArg Core.srtile (h _), congrArg Core.enote (h _), congrArg Core.escwait (h _), congrArg Core.age (h _), List.forall_mem_nil _⟩

theorem ctlRead_write_quad : ∀ n ∈ quadCtls, ((s.ctlWrite n v).retire 32).ctlRead n = v := by
  have h (f : Quad → Quad) : ((s.modQuad (quadOf s.ci) f).retire 32).quad (quadOf s.ci) = f (s.quad (quadOf s.ci)) := s.quad_modQuad _ f
  have hset (m : KMap Word) : (m.set (s.ctxOf (dieOf s.ci)) v).get (s.ctxOf (dieOf s.ci)) 0 = v := KMap.get_set m _ v 0
  simp only [quadCtls, List.forall_mem_cons]
  exact ⟨(congrArg (fun k : Quad => k.fqctr.get (s.ctxOf (dieOf s.ci)) 0) (h _)).trans (hset _),
    (congrArg (fun k : Quad => k.spill.get (s.ctxOf (dieOf s.ci)) 0) (h _)).trans (hset _),
    congrArg Quad.pairtmo (h _), congrArg Quad.mxflags (h _), List.forall_mem_nil _⟩

theorem ctlRead_write_die : ∀ n ∈ dieCtls, ((s.ctlWrite n v).retire 32).ctlRead n = v := by
  have h (f : Die → Die) : ((s.modDie (dieOf s.ci) f).retire 32).die (dieOf s.ci) = f (s.die (dieOf s.ci)) := s.die_modDie _ f
  have hkept (f : Die → Die) (hf : ∀ k, (f k).ctx = k.ctx) : ((s.modDie (dieOf s.ci) f).retire 32).ctlRead 0x034 =
      (f (s.die (dieOf s.ci))).ctxarea.get (s.ctxOf (dieOf s.ci)) 0 := by
    show KMap.get (State.die _ (dieOf s.ci)).ctxarea (wfld (State.die _ (dieOf s.ci)).ctx 0 4) 0 = _
    rw [h, hf]
    rfl
  simp only [dieCtls, List.forall_mem_cons]
  exact ⟨(hkept (fun k => { k with ctxarea := k.ctxarea.set (s.ctxOf (dieOf s.ci)) v }) fun _ => rfl).trans (KMap.get_set _ _ v 0),
    List.forall_mem_nil _⟩

theorem ctlRead_write_ctx : ∀ n ∈ ctxCtls, ((s.ctlWrite n v).retire 32).ctlRead n = v := by
  have h (f : CtxRegs → CtxRegs) : ((s.modCtxRegs (dieOf s.ci) f).retire 32).ctxRegs (dieOf s.ci) = f (s.ctxRegs (dieOf s.ci)) :=
    ctxRegs_modCtxRegs s _ f
  simp only [ctxCtls, List.forall_mem_cons]
  exact ⟨congrArg CtxRegs.tvec (h _), congrArg CtxRegs.wbound (h _), congrArg CtxRegs.ptroot (h _), List.forall_mem_nil _⟩

theorem ctlRead_write : ∀ n ∈ plainCtls, ((s.ctlWrite n v).retire 32).ctlRead n = v := by
  intro n hn
  obtain h | h | h | h | h := plainCtls_holder n hn
  · exact ctlRead_write_strand s v n h
  · exact ctlRead_write_core s v n h
  · exact ctlRead_write_quad s v n h
  · exact ctlRead_write_die s v n h
  · exact ctlRead_write_ctx s v n h

/-! ### What else a write leaves -/

/-- A write of one of them changes no memory, and of its strand neither pc nor registers. -/
theorem ctlWrite_frame : ∀ n ∈ plainCtls,
    (s.ctlWrite n v).mem = s.mem ∧ (s.ctlWrite n v).me.pc = s.me.pc ∧ (s.ctlWrite n v).me.regs = s.me.regs := by
  have hdet : (s.setDet s.ci v).me = s.me := (setDet_keepsStrands s v s.ci).me
  have hctx (d : Nat) (f : CtxRegs → CtxRegs) : (s.modCtxRegs d f).me = s.me := rfl
  simp only [plainCtls, List.forall_mem_cons, State.ctlWrite, State.modMe_mem, State.modCore_mem, State.modQuad_mem, State.modDie_mem,
    State.modCtxRegs_mem, setDet_mem, State.me_modMe, State.me_modCore, State.me_modQuad, State.me_modDie, hdet, hctx, true_and]
  exact List.forall_mem_nil _

/-- ctl.status (R107): STATE ignores a write. -/
theorem ctlWrite_status : (s.ctlWrite 0x000 v).me.status = ⟨s.me.status.state, wbit v 2, wbit v 1, wbit v 0⟩ := by
  show (s.modMe _).me.status = _
  rw [State.me_modMe]
  rfl

theorem wbit_eq_getLsbD (k : Nat) : wbit v k = v.getLsbD k := by
  rw [wbit, BitVec.getLsbD, Nat.testBit_eq_decide_div_mod_eq]
  rfl

/-- A write of ctl.bankhash (R185): the hash, and the rewrite that the core's home unit starts. -/
theorem ctlRead_write_bankhash : ((s.ctlWrite 0x041 v).retire 32).ctlRead 0x041 = v := by
  have h : ((s.modCore s.ci fun k => { k with bankhash := v }).core s.ci).bankhash = v := by rw [State.core_modCore]
  exact h

theorem ctlWrite_bankhash_rewrite : ((s.ctlWrite 0x041 v).home (.core (s.gcore s.ci))).rewrite = true := by
  show ((State.modHome _ _ _).home _).rewrite = true
  rw [State.home_modHome]

end

/-! ## Status words (R159, R300, R335, R378) -/

section
variable (s : State) (sc : Scope) (d a : Reg)

theorem exec_opstat : exec (.opstat sc d a) s = .next (s.wrote d (s.slot (quadOf s.ci) (wfld (s.rd a) 0 6)).word) := NumberFormats.setReg_eq s d _

theorem exec_siftStat : exec (.siftStat sc d a) s =
    .next (s.wrote d (if (s.rd a).toNat < 6 then ofN (s.myCore.sift.getD (s.rd a).toNat 0) else BitVec.allOnes 64)) := NumberFormats.setReg_eq s d _

theorem exec_fabStat : exec (.fabStat sc d a) s =
    .next (s.wrote d (if (s.rd a).toNat < 5 then ofN (s.fab.get (s.rd a).toNat 0) else if (s.rd a).toNat = 5 then ofN (s.ports % 2 ^ 32)
      else BitVec.allOnes 64)) := NumberFormats.setReg_eq s d _

theorem exec_crumbMark (h : s.recording s.ci = false) : exec (.crumbMark a) s = .next s.wentOn := by
  show execCrumbMark a s = _
  simp only [execCrumbMark, h, Bool.not_false, if_true]
  rfl

/-- The number of a status word, of those that there are. -/
theorem toNat_ofN_lt (k n : Nat) (hk : k < n) (hn : n ≤ 2 ^ 64) : (ofN k).toNat = k := by
  rw [ofN, BitVec.toNat_ofNat, Nat.mod_eq_of_lt (Nat.lt_of_lt_of_le hk hn)]

end

/-- A write of a plain register is what it then reads, and leaves memory and its strand's registers. -/
theorem ctlwr_plain (s : State) (a : Reg) (n : BitVec 12) (hu : s.user = false) (hn : n.toNat ∈ plainCtls) (hf : ctlForbids n.toNat (s.rd a) = false) :
    ∃ t, exec (.ctlwr a n) s = .next t ∧ t.ctlRead n.toNat = s.rd a ∧ t.me.pc = s.me.pc + 32 ∧ t.me.regs = s.me.regs ∧
      ∀ k, t.mem.readByte k = s.mem.readByte k := by
  obtain ⟨hne, hinfo⟩ := ctlInfo_plain _ hn
  obtain ⟨x, hx, hr⟩ := (Option.any_eq_true _ _).mp hinfo
  obtain ⟨hmem, hpc, hregs⟩ := ctlWrite_frame s (s.rd a) _ hn
  refine ⟨_, exec_ctlwr hx a hu (by simpa using hr) hf (absurd · hne), ?_, ?_, ?_, fun k => ?_⟩
  · exact ctlRead_write s _ _ hn
  · rw [me_retire, Strand.retireTo_pc, hpc]; rfl
  · rw [me_retire, Strand.retireTo_regs, hregs]
  · rw [State.retire_eq, State.modMe_mem, hmem]

/-- A write of ctl.status sets the modes and TRAPPED. -/
theorem ctlwr_status (s : State) (a : Reg) (n : BitVec 12) (hu : s.user = false) (hn : n.toNat = 0x000) (hf : ctlForbids 0x000 (s.rd a) = false) :
    ∃ t, exec (.ctlwr a n) s = .next t ∧
      t.me.status = ⟨s.me.status.state, (s.rd a).getLsbD 2, (s.rd a).getLsbD 1, (s.rd a).getLsbD 0⟩ := by
  have hx : ctlInfo n.toNat = some ⟨true, false, false⟩ := by rw [hn]; rfl
  refine ⟨_, exec_ctlwr hx a hu rfl (by rw [hn]; exact hf) (fun h => absurd (hn.symm.trans h) (by decide)), ?_⟩
  rw [me_retire, Strand.retireTo_status, hn, ctlWrite_status, wbit_eq_getLsbD, wbit_eq_getLsbD, wbit_eq_getLsbD]

/-- A write of ctl.bankhash waits for its home unit's queues; once they are empty it is what is read, and the rewrite has started. -/
theorem ctlwr_bankhash (s : State) (a : Reg) (n : BitVec 12) (hu : s.user = false) (hn : n.toNat = 0x041) (hf : ctlForbids 0x041 (s.rd a) = false) :
    (s.homeQuiet s.ci = false → exec (.ctlwr a n) s = .next s) ∧
    (s.homeQuiet s.ci = true → ∃ t, exec (.ctlwr a n) s = .next t ∧ t.ctlRead 0x041 = s.rd a ∧ (t.home (.core (t.gcore t.ci))).rewrite = true) := by
  have hx : ctlInfo n.toNat = some ⟨false, false, false⟩ := by rw [hn]; rfl
  have hf' : ctlForbids n.toNat (s.rd a) = false := by rw [hn]; exact hf
  refine ⟨exec_ctlwr_waits hx a hu rfl hf' hn, fun hq => ⟨_, exec_ctlwr hx a hu rfl hf' (fun _ => hq), ?_, ?_⟩⟩
  · rw [hn, ctlRead_write_bankhash]
  · rw [hn]; exact ctlWrite_bankhash_rewrite s (s.rd a)

/-- Settles O42: the checks of CTLRD and CTLWR one by one, and of an allowed write what the holder of its register keeps. -/
theorem controlRegisters : Obligations.ControlRegisters := by
  unfold Obligations.ControlRegisters
  refine ⟨fun s d a n hu => ⟨fun x hx => exec_ctlrd hx d hu, fun hn => ⟨exec_ctlrd_unlisted hn d, exec_ctlwr_unlisted hn a⟩,
    fun x hx h => exec_ctlwr_ill hx a hu h, ctlwr_plain s a n hu, fun hn hf => ?_, ctlwr_bankhash s a n hu⟩,
    fun s sc d a => ⟨exec_opstat s sc d a, fun k hk ha => ?_, fun ha => ?_, fun k hk ha => ?_, fun ha hp => ?_, fun ha => ?_, exec_crumbMark s a⟩⟩
  · obtain ⟨t, ht, hst⟩ := ctlwr_status s a n hu hn hf
    exact ⟨t, ht, by rw [hst], by rw [hst], by rw [hst], by rw [hst]⟩
  · rw [exec_siftStat, ha, toNat_ofN_lt k 6 hk (by decide), if_pos hk]
  · rw [exec_siftStat, if_neg (by omega)]
  · rw [exec_fabStat, ha, toNat_ofN_lt k 5 hk (by decide), if_pos hk]
  · rw [exec_fabStat, ha, if_neg (by decide), if_pos (by decide), Nat.mod_eq_of_lt hp]
  · rw [exec_fabStat, if_neg (by omega), if_neg (by omega)]

end Sys2Proof.StrandEngine
end

section
/-! PROOFS. Context switches: the refutation of O58 (R123). -/

namespace Sys2Proof.StrandEngine

open Sys2Proof Sys2Proof.Machine

/-! ## A save that answers a dead letter of another die -/

/-- A request whose answer ends a dead letter of core 256, on die 1, in context 1. -/
def letterRead : Req := ⟨0, 0, 0, 256, localAddr 0 0, [localAddr 0 0], .read, false, false, 0, false, false, true, .post (.dead 256 1), 0⟩

/-- A saved context whose image lists strand 4096, which is of die 2. -/
def strayImage : Saved := { Saved.init with strands := [(4096, { Strand.init with pc := 64 })] }

/-- Die 0 is halted for a switch. Quad 64, of die 1, leases line 0 of core 0's local memory, and the request waits at its atomic unit; context 1 of die 1
is saved with that image. -/
def strayLease : State :=
  let s := State.reset.modDie 0 fun k => { k with switch := some ⟨1, false, 1, 0⟩ }
  let s := s.modQuad 64 fun q => { q with leases := [⟨0, 0⟩] }
  { s.modHome (.quadUnit 64) fun h => { h with arrivals := [letterRead] } with saved := [(savedKey 1 1, strayImage)] }

theorem strayLease_switch : (strayLease.die 0).switch = some ⟨1, false, 1, 0⟩ := by decide

theorem strayLease_settled : strayLease.settled 0 = true := by decide +kernel

/-- Strand 4096 has never run. -/
theorem strayLease_pc : (strayLease.strand 4096).pc = 0 := by decide

/-- Once die 0 is saved, strand 4096 is the one of the image. -/
theorem strayLease_saved : (strayLease.saveSwitch 0).map (fun t => (t.strand 4096).pc) = some 64 := by decide +kernel

theorem exec_contextSaveComplete (s t : State) (h : s.saveSwitch s.pick.a = some t) : exec .contextSaveComplete s = .next t := by
  show s.orStay _ = _
  rw [State.orStay, h]
  rfl

/-- Refutes O58: its clause on CONTEXT_SAVE_COMPLETE says that the save of die 0 leaves the strands of the other dies as they are. In the state `strayLease`
it does not: leases on lines of the die's local memories are returned first, which performs the request that waits at quad 64's unit; its answer ends
a dead letter of context 1 of die 1, for which that context's image is exchanged with what die 1 holds, and back (`State.asContext`). The image lists a
strand of die 2, which the first exchange writes and the second does not take out. `State.route` sends no such request to a quad's unit and
`State.saveDie` makes no such image, but the statement speaks of every state and asks nothing of either. -/
theorem not_contextSwitchSteps : ¬ Obligations.ContextSwitchSteps := by
  unfold Obligations.ContextSwitchSteps
  intro h
  obtain ⟨-, -, hphase⟩ := h strayLease 0 (by decide) rfl
  obtain ⟨-, hsave, -⟩ := hphase 1 1 0 strayLease_switch
  obtain ⟨t, -, ht, -, -, -, hframe, -⟩ := hsave rfl strayLease_settled
  obtain ⟨u, hu, hpc⟩ := Option.map_eq_some_iff.mp strayLease_saved
  have htu : t = u := Host.Outcome.next.inj (ht.symm.trans (exec_contextSaveComplete _ u hu))
  have hkept : (t.strand 4096).pc = 0 := by rw [hframe 4096 (by decide), strayLease_pc]
  rw [htu, hpc] at hkept
  exact absurd hkept (by decide)

end Sys2Proof.StrandEngine
end

section
/-! PROOFS. Atomics, rings and deques on the strand's side: the commit and the one request (R195, R201, R233). -/

namespace Sys2Proof.HomeUnit

open Sys2Proof Sys2Proof.Machine

/-! ## An access with one request -/

section
variable {acc : Access} {gran : Nat} {op : ReqOp} {dest : Dest}

theorem mkOpAccess_asks (addr : Word) (sa : Bool) : (mkOpAccess addr gran sa op dest).asks gran op dest :=
  ⟨rfl, rfl, rfl, _, rfl, rfl, rfl, rfl⟩

/-- The granules a request covers are not what it asks. -/
theorem asks_covering (h : acc.asks gran op dest) (cover : List Nat) : (acc.covering cover).asks gran op dest := by
  obtain ⟨hdest, hload, hstore, p, hparts, hgran, hop, hsent⟩ := h
  exact ⟨hdest, hload, hstore, { p with cover := cover }, by rw [Access.covering, hparts]; rfl, hgran, hop, hsent⟩

end

/-! ## Checks that pass -/

section
variable {s t : State}

theorem resolved_xlated {c n : Nat} {user : Bool} {kind : AccKind} {a : Word} {r : Except Stop (List Loc)} (h : s.resolve c user kind a n = (r, t)) :
    s.Xlated t := by
  have hx := s.resolve_frame c user kind a n
  rwa [h] at hx

theorem xlated_user (h : s.Xlated t) : t.user = s.user := by rw [State.user, h.me]; rfl

theorem checkedAt_ok {α : Type} (x : α) (k : α → State → Out) : State.checkedAt (.ok x, t) k = k x t := rfl

theorem checked_ok {α : Type} (x : α) (k : α → State → Out) : State.checked (.ok x, t) k = k x t := rfl

theorem aligned_of_mod {a : Word} {n : Nat} (h : a.toNat % n = 0) : aligned a n = true := beq_iff_eq.mpr h

theorem misaligned_of_mod {a : Word} {n : Nat} (h : a.toNat % n ≠ 0) : aligned a n = false := beq_false_of_ne h

/-- Every location is in device memory: none in a weight store or in host memory (R20, R201). -/
def InDevice (ls : List Loc) : Prop := ∀ k ∈ ls, isWs k.phys = false ∧ isHost k.phys = false

theorem deviceOnly_inDevice (a : Word) {ls : List Loc} (k : State → Out) (h : InDevice ls) : s.deviceOnly a ls k = k s := by
  have hany : (ls.any fun l => isWs l.phys || isHost l.phys) = false :=
    List.any_eq_false.mpr fun l hl => by simp [h l hl]
  rw [State.deviceOnly, hany]
  rfl

end

/-! ## Atomics (R195) -/

section
variable {s u : State} {y : Bool} {w : Nat} {a : Reg} {l : Loc}

/-- The checks of an atomic of w bits at s[a] pass, at granule l, and leave u. -/
structure AtomicPasses (s u : State) (y : Bool) (w : Nat) (a : Reg) (l : Loc) : Prop where
  within : (s.rd a).toNat % 64 + w ≤ 64
  resolves : s.resolve s.ci s.user (.atomic y) (s.rd a) w = (.ok [l], u)
  whole : s.splits (s.rd a) w = false
  free : wbit u.myCore.det 0 = false
  unwatched : u.unwatched [(l.phys, ofN ((s.rd a).toNat / 64 * 64))]

/-- An atomic that passes commits, and asks its granule's home for the operation. -/
theorem atomic_commits (h : AtomicPasses s u y w a l) (op : AmoOp) (b : Reg) (c : Word) (detTraps : Bool) (dest : Dest) :
    ∃ t acc, s.atomic op y w a b c detTraps dest = .next t ∧ u.commitsWith t acc ∧ acc.sysAcq = y ∧
      acc.asks l.phys (.amo op ((s.rd a).toNat % 64) w (ofN ((s.rd b).toNat % 2 ^ w)) (ofN (c.toNat % 2 ^ w)) (u.fpEnv u.ci)) dest := by
  have hal : atomicAligned (s.rd a) w = true := decide_eq_true h.within
  have hrd : u.rd b = s.rd b := (resolved_xlated h.resolves).rd b
  simp only [State.atomic, hal, h.whole, h.resolves, checkedAt_ok, h.free, Bool.and_false, Bool.not_true, Bool.or_self, Bool.false_eq_true, if_false,
    u.atCommit_ok _ _ h.unwatched, hrd]
  exact ⟨_, _, rfl, rfl, rfl, asks_covering (mkOpAccess_asks (s.rd a) _) _⟩

/-- An AMO also compares or swaps with d, to which the old value goes. -/
theorem amo_commits (h : AtomicPasses s u y w a l) (op : AmoOp) (d b : Reg) (detTraps : Bool) :
    ∃ t acc, s.amo op y w d a b detTraps = .next t ∧ u.commitsWith t acc ∧ acc.sysAcq = y ∧
      acc.asks l.phys (.amo op ((s.rd a).toNat % 64) w (ofN ((s.rd b).toNat % 2 ^ w)) (ofN ((s.rd d).toNat % 2 ^ w)) (u.fpEnv u.ci))
        (.amo d ((s.rd a).toNat % 64) w) :=
  atomic_commits h op b (s.rd d) detTraps _

/-- A RED is acknowledged only. -/
theorem red_commits (h : AtomicPasses s u y w a l) (op : AmoOp) (b : Reg) :
    ∃ t acc, s.red op y w a b = .next t ∧ u.commitsWith t acc ∧ acc.sysAcq = y ∧
      acc.asks l.phys (.amo op ((s.rd a).toNat % 64) w (ofN ((s.rd b).toNat % 2 ^ w)) (ofN (0 % 2 ^ w)) (u.fpEnv u.ci)) .ack :=
  atomic_commits h op b 0 false .ack

/-- An operand that leaves its granule raises ALIGN before every other check. -/
theorem amo_misaligned (h : (s.rd a).toNat % 64 + w > 64) (op : AmoOp) (d b : Reg) (detTraps : Bool) :
    s.amo op y w d a b detTraps = .next (s.trap cALIGN (s.rd a)) := by
  have hal : atomicAligned (s.rd a) w = false := decide_eq_false (by omega)
  simp only [State.amo, State.atomic, hal, Bool.not_false, Bool.true_or, if_true]

end

/-- Settles O33: each instruction is the shared atomic with an operation of its own, whose checks and commit are followed once. -/
theorem atomicsIssue : Obligations.AtomicsIssue := by
  unfold Obligations.AtomicsIssue
  intro s u y w d a b l ok asks amo
  have passes : ∀ n, ok n → AtomicPasses s u y n a l := fun n ⟨hin, hres, hwhole, hdet, hwatch⟩ => ⟨hin, hres, hwhole, hdet, hwatch⟩
  refine ⟨fun h => ?_, fun h => ?_, fun h => amo_misaligned h .add d b true⟩
  · have amos (op : AmoOp) := amo_commits (passes w.bits h) op d b true
    have reds (op : AmoOp) := red_commits (passes w.bits h) op b
    exact ⟨amos .add, amos .and, amos .or, amos .xor, amos .min, amos .max, amos .minn, amos .maxn, amos .swap, amos .cas,
      reds .add, reds .and, reds .or, reds .xor, reds .min, reds .max, reds .minn, reds .maxn⟩
  · exact ⟨amo_commits (passes 32 h) .fadd d b false, red_commits (passes 32 h) .fadd b, red_commits (passes 32 h) .fmax b⟩

/-! ## Rings (R201) -/

section
variable {s u v : State} {a b : Reg} {ls es : List Loc} {l : Loc}

/-- ENQ and DEQ, once block and entry pass their checks, commit and ask the block's home. -/
theorem ringOp_commits (d : Reg) (kind : AccKind) (mk : Word → Word → Nat → Bool → ReqOp) (ha : (s.rd a).toNat % 256 = 0) (hb : (s.rd b).toNat % 64 = 0)
    (hblock : s.resolve s.ci s.user .store (s.rd a) 256 = (.ok (l :: ls), u)) (hentry : u.resolve u.ci u.user kind (s.rd b) 64 = (.ok es, v))
    (hls : InDevice (l :: ls)) (hes : InDevice es) (hw : v.unwatched []) :
    ∃ t acc, s.ringOp d a b kind mk = .next t ∧ v.commitsWith t acc ∧
      acc.asks l.phys (mk (s.rd a) (s.rd b) (es.headD ⟨0, false, none⟩).phys s.user) (.stat d) := by
  have huser : v.user = s.user := (xlated_user (resolved_xlated hentry)).trans (xlated_user (resolved_xlated hblock))
  simp only [State.ringOp, aligned_of_mod ha, aligned_of_mod hb, hblock, hentry, checkedAt_ok, deviceOnly_inDevice _ _ hls,
    deviceOnly_inDevice _ _ hes, Bool.not_true, Bool.false_eq_true, if_false, v.atCommit_ok _ _ hw, huser]
  exact ⟨_, _, rfl, rfl, asks_covering (mkOpAccess_asks (s.rd a) _) _⟩

theorem ringOp_misaligned (d : Reg) (kind : AccKind) (mk : Word → Word → Nat → Bool → ReqOp) (ha : (s.rd a).toNat % 256 ≠ 0) :
    s.ringOp d a b kind mk = .next (s.trap cALIGN (s.rd a)) := by
  simp only [State.ringOp, misaligned_of_mod ha, Bool.not_false, if_true]

theorem exec_ringstat_misaligned (sc : Scope) (d : Reg) (ha : (s.rd a).toNat % 256 ≠ 0) :
    exec (.ringstat sc d a) s = .next (s.trap cALIGN (s.rd a)) := by
  show execRingstat sc d a s = _
  simp only [execRingstat, misaligned_of_mod ha, Bool.not_false, if_true]

/-- RINGSTAT asks the block's home, and does not commit (R202). -/
theorem exec_ringstat (sc : Scope) (d : Reg) (ha : (s.rd a).toNat % 256 = 0)
    (hblock : s.resolve s.ci s.user .load (s.rd a) 256 = (.ok (l :: ls), u)) (hls : InDevice (l :: ls)) :
    ∃ acc, exec (.ringstat sc d a) s = .next ((u.issue acc).retire 32) ∧ acc.asks l.phys (.ringstat (s.rd a)) (.count d) := by
  show ∃ acc, execRingstat sc d a s = _ ∧ _
  simp only [execRingstat, aligned_of_mod ha, hblock, checked_ok, deviceOnly_inDevice _ _ hls, Bool.not_true, Bool.false_eq_true, if_false]
  exact ⟨_, rfl, asks_covering (mkOpAccess_asks (s.rd a) _) _⟩

end

/-! ## Deques (R233) -/

section
variable (prio nanm det kind srank cookie : Nat)

theorem wfld_header_kind : wfld (header prio nanm det kind srank cookie) 56 4 = kind % 16 := by
  rw [wfld, header, ofN, BitVec.toNat_ofNat]
  omega

theorem wfld_header_srank : wfld (header prio nanm det kind srank cookie) 32 24 = srank % 2 ^ 24 := by
  rw [wfld, header, ofN, BitVec.toNat_ofNat]
  omega

end

section
variable {s u : State} {a : Reg} {ls : List Loc} {l : Loc}

/-- A message as DQPUSH stamps it (R8): of KIND 3, with the rank of its sender. -/
def stampPush (s : State) (m : Msg) : Msg := { m with w1 := s.ownHeader s.ci 3 m.w1 }

theorem stampPush_kind (m : Msg) : (stampPush s m).kind = 3 := wfld_header_kind ..

theorem stampPush_srank (m : Msg) : (stampPush s m).srank = (s.core s.ci).rank % 2 ^ 24 := wfld_header_srank ..

/-- A header is no part of the words from w2 up. -/
theorem payload_withHeader (m : Msg) (x : Word) : ({ m with w1 := x } : Msg).words.drop 2 = m.words.drop 2 := rfl

theorem stampPush_payload (m : Msg) : (stampPush s m).words.drop 2 = m.words.drop 2 := payload_withHeader m _

/-- DQPUSH, once its record is loaded, commits and asks the own home unit to queue the stamped record. -/
theorem exec_dqpush (sc : Scope) (d : Reg) {ws : List Word} (ha : (s.rd a).toNat % 64 = 0) (hws : s.loaded (s.rd a) 8 ws)
    (hhandler : (wordAt ws 0).toNat % 16 = 0) (hw : s.unwatched []) :
    ∃ t acc, exec (.dqpush sc d a) s = .next t ∧ s.commitsWith t acc ∧
      acc.asks (s.dequeGran s.ci) (.dqpush (stampPush s (Msg.ofWords ws))) (.stat d) ∧ acc.ordered = true := by
  have hal : aligned (Msg.ofWords ws).w0 16 = true := aligned_of_mod hhandler
  show ∃ t acc, execDqpush sc d a s = _ ∧ _
  simp only [execDqpush, aligned_of_mod ha, hal, s.readDesc_loaded _ _ _ _ hws, Bool.not_true, Bool.false_eq_true, if_false,
    s.atCommit_ok _ _ hw]
  exact ⟨_, _, rfl, rfl, mkOpAccess_asks (s.rd a) _, rfl⟩

/-- DQPOP, once the granules it writes pass as a store's, commits and asks the own home unit for a record. -/
theorem exec_dqpop (sc : Scope) (d : Reg) (ha : (s.rd a).toNat % 64 = 0) (hdst : s.resolve s.ci s.user .store (s.rd a) 512 = (.ok (l :: ls), u))
    (hls : InDevice (l :: ls)) (hw : u.unwatched (((l :: ls).map (·.phys)).zip ((gransUp (s.rd a).toNat 8).map ofN))) :
    ∃ t acc, exec (.dqpop sc d a) s = .next t ∧ u.commitsWith t acc ∧
      acc.asks (u.dequeGran u.ci) (.dqpop (s.rd a) l.phys s.user) (.stat d) ∧ acc.ordered = true := by
  have huser : u.user = s.user := xlated_user (resolved_xlated hdst)
  show ∃ t acc, execDqpop sc d a s = _ ∧ _
  simp only [execDqpop, aligned_of_mod ha, hdst, checkedAt_ok, deviceOnly_inDevice _ _ hls, Bool.not_true, Bool.false_eq_true, if_false,
    u.atCommit_ok _ _ hw, huser]
  exact ⟨_, _, rfl, rfl, mkOpAccess_asks (s.rd a) _, rfl⟩

theorem exec_dqcount (s : State) (sc : Scope) (d : Reg) :
    ∃ acc, exec (.dqcount sc d) s = .next ((s.issue acc).retire 32) ∧ acc.asks (s.dequeGran s.ci) .dqcount (.sreg d 64 false) :=
  ⟨_, rfl, mkOpAccess_asks 0 _⟩

end

/-- Settles O36: the shared ring operation and each deque instruction, followed once through its checks. -/
theorem ringInstructions : Obligations.RingInstructions := by
  unfold Obligations.RingInstructions
  intro s u v sc d a b ls es l hws hhost hdev
  have hls : InDevice (l :: ls) := List.forall_mem_cons.mpr ⟨⟨hws, hhost⟩, fun k hk => hdev k (List.mem_append_left es hk)⟩
  have hes : InDevice es := fun k hk => hdev k (List.mem_append_right ls hk)
  refine ⟨fun ha hb hblock => ⟨fun hentry => ?_, fun hentry => ?_⟩, fun ha => ⟨?_, ?_, exec_ringstat_misaligned sc d ha⟩,
    fun ha hblock => exec_ringstat sc d ha hblock hls, fun ws ha hloaded hhandler hw => ?_, fun ha hdst => exec_dqpop sc d ha hdst hls,
    exec_dqcount s sc d⟩
  · exact ringOp_commits d .load .enq ha hb hblock hentry hls hes
  · exact ringOp_commits d .store .deq ha hb hblock hentry hls hes
  · exact ringOp_misaligned d .load .enq ha
  · exact ringOp_misaligned d .store .deq ha
  · obtain ⟨t, acc, ht, hcommits, hasks, hord⟩ := exec_dqpush sc d ha hloaded hhandler hw
    exact ⟨t, acc, _, ht, hcommits, hasks, hord, rfl, stampPush_kind _, stampPush_srank _, stampPush_payload _⟩

end Sys2Proof.HomeUnit
end

section
/-! PROOFS. The counter instructions: their shared address check, the commit of CADD and CMAX, the waits, and CARM (R222 to R224). -/

namespace Sys2Proof.Scheduler

open Sys2Proof Sys2Proof.Machine

/-! ## The address of a counter (R20, R222) -/

section
variable {s u : State} {kind : AccKind} {x : Word} {l : Loc}

/-- The checks of a counter's address pass: its granule is l, in device memory, and looking it up leaves u. -/
structure CounterPasses (s u : State) (kind : AccKind) (x : Word) (l : Loc) : Prop where
  aligned : x.toNat % 64 = 0
  resolves : s.resolve s.ci s.user kind x 64 = (.ok [l], u)
  inDevice : HomeUnit.InDevice [l]

/-- What the strand reads after the checks is what it read before them. -/
theorem CounterPasses.xlated (h : CounterPasses s u kind x l) : s.Xlated u := HomeUnit.resolved_xlated h.resolves

theorem counterAddr_ok (h : CounterPasses s u kind x l) (halt : State → Stop → State) (k : Loc → State → Out) :
    s.counterAddr halt x kind k = k l u := by
  simp only [State.counterAddr, HomeUnit.aligned_of_mod h.aligned, h.resolves, State.checkedBy, HomeUnit.deviceOnly_inDevice _ _ h.inDevice,
    Bool.not_true, Bool.false_eq_true, if_false, List.headD_cons]

theorem counterAddr_misaligned (hx : x.toNat % 64 ≠ 0) (halt : State → Stop → State) (k : Loc → State → Out) :
    s.counterAddr halt x kind k = .next (s.trap cALIGN x) := by
  simp only [State.counterAddr, HomeUnit.misaligned_of_mod hx, Bool.not_false, if_true]

end

/-! ## CADD and CMAX (R222) -/

section
variable {s u : State} {b : Reg} {l : Loc} (r : Bool) (sc : Scope) (a : Reg) (negTraps : Bool) (op : Word → ReqOp)

/-- CADD or CMAX commits and asks the counter's home, in the ordered class, as a release where REL says so. -/
theorem counterOp_commits (h : CounterPasses s u (.atomic false) (s.rd b) l) (hneg : (negTraps && (s.rd a).msb) = false) (hw : u.unwatched []) :
    ∃ t acc, s.counterOp r sc a b negTraps op = .next t ∧ u.commitsWith t acc ∧ acc.asks l.phys (op (s.rd a)) .ack ∧ acc.ordered = true ∧
      acc.rel = if r then some sc else none := by
  simp only [State.counterOp, counterAddr_ok h, h.xlated.rd, hneg, Bool.false_eq_true, if_false, u.atCommit_ok _ _ hw]
  exact ⟨_, _, rfl, rfl, HomeUnit.mkOpAccess_asks (s.rd b) _, rfl, rfl⟩

/-- An addend that is negative raises COUNTER_DECREASE where the operation forbids one. -/
theorem counterOp_negative (h : CounterPasses s u (.atomic false) (s.rd b) l) (hneg : (negTraps && (s.rd a).msb) = true) :
    s.counterOp r sc a b negTraps op = .next (u.trap cCTRDEC (s.rd b)) := by
  simp only [State.counterOp, counterAddr_ok h, h.xlated.rd, hneg, if_true]

end

/-! ## CWAIT and CWAITT (R223) -/

section
variable {s u : State} {b : Reg} {l : Loc} (sc : Scope) (d a : Reg)

/-- A wait blocks the strand on its own place in program order and sends its target to the counter, as an acquire (R11, R223). -/
theorem waitCounter_asks (s : State) (d : Reg) (addr : Word) (l : Loc) (target : Word) (limit : Option Nat) :
    ∃ acc, s.waitCounter d addr l target limit = (s.blockOn (.cwait s.me.seq (limit.map (s.clock + ·)) false)).issue acc ∧
      acc.asks l.phys (.wait target) (.wait d target) ∧ acc.acquire = true :=
  ⟨_, rfl, HomeUnit.mkOpAccess_asks addr _, rfl⟩

theorem exec_cwait (h : CounterPasses s u .load (s.rd b) l) :
    ∃ acc, exec (.cwait sc d a b) s = .next ((u.blockOn (.cwait s.me.seq none false)).issue acc) ∧
      acc.asks l.phys (.wait (s.rd a)) (.wait d (s.rd a)) ∧ acc.acquire = true := by
  obtain ⟨acc, hacc, hasks⟩ := waitCounter_asks u d (s.rd b) l (s.rd a) none
  refine ⟨acc, ?_, hasks⟩
  show execCwait sc d a b s = _
  simp only [execCwait, counterAddr_ok h, h.xlated.rd, hacc, h.xlated.me, Option.map_none]

/-- CWAITT waits until its limit, in s[d], has passed. -/
theorem exec_cwaitt (h : CounterPasses s u .load (s.rd b) l) :
    ∃ acc, exec (.cwaitt sc d a b) s = .next ((u.blockOn (.cwait s.me.seq (some (u.clock + (s.rd d).toNat)) false)).issue acc) ∧
      acc.asks l.phys (.wait (s.rd a)) (.wait d (s.rd a)) ∧ acc.acquire = true := by
  obtain ⟨acc, hacc, hasks⟩ := waitCounter_asks u d (s.rd b) l (s.rd a) (some (s.rd d).toNat)
  refine ⟨acc, ?_, hasks⟩
  show execCwaitt sc d a b s = _
  simp only [execCwaitt, counterAddr_ok h, h.xlated.rd, hacc, h.xlated.me, Option.map_some]

end

/-! ## CARM (R224) -/

section
variable {s u : State} {a b : Reg} {l : Loc} {ws : List Word} (sc : Scope) (d : Reg)

/-- CARM may arm its counter: the counter is found, the record at s[a] is loaded and its message passes its checks (R8, R225), the region may
commit, and the rank's field holds nothing else. -/
structure ArmPasses (s u : State) (a b : Reg) (l : Loc) (ws : List Word) : Prop where
  counter : CounterPasses s u .load (s.rd b) l
  aligned : (s.rd a).toNat % 64 = 0
  loaded : u.loaded (s.rd a) 10 ws
  kind : (Msg.ofWords ws).kind ≤ 1
  handler : (wordAt ws 0).toNat % 16 = 0
  unwatched : u.unwatched []
  rank : wfld (wordAt ws 8) 24 40 = 0

theorem messageChecks_ok {m : Msg} (hkind : m.kind ≤ 1) (hhandler : m.w0.toNat % 16 = 0) (i : Instr) (k : State → Out) :
    s.messageChecks i m k = k s := by
  simp only [State.messageChecks, Nat.not_lt.mpr hkind, HomeUnit.aligned_of_mod hhandler, Bool.not_true, Bool.false_eq_true, if_false]

/-- What CARM has done with a rank's entry e once the region is committed: the answer 1 for a rank without a core, else the request that arms
the counter, sent in the ordered class. -/
def armed (t : State) (d b : Reg) (l : Loc) (ws : List Word) (e : Word) : State :=
  if rankState e = 0 then (t.wr d 1).retire 32
  else ((t.wr d 0).issue { mkOpAccess (t.rd b) l.phys false
    (.arm (wordAt ws 9) (rankCore e) (wfld (wordAt ws 8) 0 24) true ((t.wr d 0).stamped (Msg.ofWords ws))) .ack with ordered := true }).retire 32

theorem exec_carm (h : ArmPasses s u a b l ws) :
    exec (.carm sc d a b) s =
      .next ((armed u.committed d b l ws (u.rankEntry u.ci (wfld (wordAt ws 8) 0 24))).modMe Strand.checkpoint) := by
  have hmsg := messageChecks_ok (s := u) h.kind h.handler (.carm sc d a b)
  show execCarm sc d a b s = _
  simp only [execCarm, counterAddr_ok h.counter, h.counter.xlated.rd, HomeUnit.aligned_of_mod h.aligned, u.readDesc_loaded _ _ _ _ h.loaded, hmsg,
    u.atCommit_ok _ _ h.unwatched, h.rank, ne_eq, not_true_eq_false, Bool.not_true, Bool.false_eq_true, if_false]
  rfl

end

/-- Every counter instruction checks first that its counter's address is aligned. -/
theorem exec_counter_misaligned {s : State} {b : Reg} (r : Bool) (sc : Scope) (d a : Reg) (hb : (s.rd b).toNat % 64 ≠ 0) :
    ∀ x ∈ [Instr.cadd r sc a b, .cmax r sc a b, .cwait sc d a b, .cwaitt sc d a b, .carm sc d a b], exec x s = .next (s.trap cALIGN (s.rd b)) := by
  intro x hx
  simp only [List.mem_cons, List.not_mem_nil, or_false] at hx
  rcases hx with rfl | rfl | rfl | rfl | rfl
  · show s.counterOp r sc a b true .cadd = _
    exact counterAddr_misaligned hb _ _
  · show s.counterOp r sc a b false .cmax = _
    exact counterAddr_misaligned hb _ _
  · show execCwait sc d a b s = _
    exact counterAddr_misaligned hb _ _
  · show execCwaitt sc d a b s = _
    exact counterAddr_misaligned hb _ _
  · show execCarm sc d a b s = _
    exact counterAddr_misaligned hb _ _

/-- Settles O35: each instruction passes the shared address check; CADD and CMAX are one operation, CWAIT and CWAITT one wait, and CARM turns on
the state of the rank's entry. -/
theorem counterInstructions : Obligations.CounterInstructions := by
  unfold Obligations.CounterInstructions
  intro s u r sc d a b l
  refine ⟨exec_counter_misaligned r sc d a, fun hb hws hhost => ⟨fun hres => ?_, fun hres => ?_⟩⟩
  · have h : CounterPasses s u (.atomic false) (s.rd b) l := ⟨hb, hres, List.forall_mem_singleton.mpr ⟨hws, hhost⟩⟩
    refine ⟨fun hw hpos => ?_, fun hw => ?_, fun hneg => ?_⟩
    · exact counterOp_commits r sc a true .cadd h hpos hw
    · exact counterOp_commits r sc a false .cmax h rfl hw
    · exact counterOp_negative r sc a true .cadd h hneg
  · have h : CounterPasses s u .load (s.rd b) l := ⟨hb, hres, List.forall_mem_singleton.mpr ⟨hws, hhost⟩⟩
    refine ⟨exec_cwait sc d a h, exec_cwaitt sc d a h, fun ws ha hloaded hkind hhandler hw hrank => ?_⟩
    rw [exec_carm sc d ⟨h, ha, hloaded, hkind, hhandler, hw, hrank⟩]
    refine ⟨fun he => ?_, fun he => ?_⟩
    · rw [armed, if_pos he]
    · rw [armed, if_neg he]
      exact ⟨_, rfl, HomeUnit.mkOpAccess_asks (u.committed.rd b) _⟩

end Sys2Proof.Scheduler
end

section
/-! PROOFS. The barrier instructions: BAR.CFG, BAR.ARR, BAR.WAIT and BAR.STAT (R235 to R238). -/

namespace Sys2Proof.Scheduler

open Sys2Proof Sys2Proof.Machine

/-! ## What a commit leaves as it was -/

section
variable (s : State) (d : Reg) (v : Word)

theorem committed_user : s.committed.user = s.user := by
  rw [State.user, State.committed, State.me_modMe]
  rfl

theorem committed_pc : s.committed.me.pc = s.me.pc := by
  rw [State.committed, State.me_modMe]
  rfl

/-- A descriptor is as bad after the commit as before it. -/
theorem barBad_committed (sc : Scope) (x : Barrier) (ws : List Word) : s.committed.barBad sc x ws = s.barBad sc x ws := by
  simp only [State.barBad, committed_user]
  rfl

/-- An instruction at a commit point that writes a register: the state it leaves when its checkpoint moves past it (R17). -/
def answered (s : State) (d : Reg) (v : Word) : State := ((s.wr d v).retire 32).modMe Strand.checkpoint

theorem answered_me : (answered s d v).me = (({ s.me with regs := s.me.regs.wr d v } : Strand).retireTo (s.me.pc + 32)).checkpoint := by
  rw [answered, State.me_modMe, StrandEngine.me_retire, State.wr_eq, State.me_modMe]
  rfl

theorem answered_rd (hd : d ≠ 0) : (answered s d v).rd d = v := by
  rw [State.rd, answered_me]
  exact Regs.rd_wr _ d v hd

theorem answered_pc : (answered s d v).me.pc = s.me.pc + 32 := by
  rw [answered_me]
  rfl

end

/-! ## The barrier an instruction names -/

/-- The key of the barrier that s[b] names at a scope, in the running context (R215). -/
abbrev namedKey (s : State) (sc : Scope) (b : Reg) : Nat := s.barKey sc s.ci (wfld (s.rd b) 0 4)

/-- The barrier that s[b] names at a scope. -/
abbrev namedBar (s : State) (sc : Scope) (b : Reg) : Barrier := s.bars.get (namedKey s sc b) Barrier.init

/-- A state whose barrier of a key is x. -/
def withBar (s : State) (key : Nat) (x : Barrier) : State := { s with bars := s.bars.set key x }

/-- A barrier whose member i has signalled one phase more. -/
def signalled (x : Barrier) (i : Nat) : Barrier := { x with leads := listSet x.leads i (x.leads.getD i 0 + 1) }

/-! ## BAR.CFG (R235) -/

section
variable {s : State} {sc : Scope} {a b : Reg} {ws : List Word} (d : Reg)

/-- BAR.CFG may answer: its descriptor is loaded, and the region may commit. -/
structure CfgPasses (s : State) (sc : Scope) (a : Reg) (ws : List Word) : Prop where
  scope : sc ≠ .sys
  aligned : (s.rd a).toNat % 256 = 0
  loaded : s.loaded (s.rd a) 4 ws
  unwatched : s.unwatched []

/-- BAR.CFG refuses a bad descriptor with 5 and a busy barrier with 4; else it configures the barrier and answers 0. -/
theorem exec_barCfg (h : CfgPasses s sc a ws) : exec (.barCfg sc d a b) s = .next (
    if s.barBad sc (namedBar s sc b) ws then answered s.committed d 5
    else if (namedBar s sc b).busy then answered s.committed d 4
    else answered (withBar s.committed (namedKey s sc b) (barOf sc (barNode sc s.ci) ws)) d 0) := by
  show execBarCfg sc d a b s = _
  simp only [execBarCfg, h.scope, HomeUnit.aligned_of_mod h.aligned, s.readDesc_loaded _ _ _ _ h.loaded, s.atCommit_ok _ _ h.unwatched,
    barBad_committed, Bool.not_true, Bool.false_eq_true, if_false, apply_ite (State.modMe · Strand.checkpoint)]
  rfl

theorem exec_barCfg_bad (h : CfgPasses s sc a ws) (hbad : s.barBad sc (namedBar s sc b) ws = true) :
    exec (.barCfg sc d a b) s = .next (answered s.committed d 5) := by
  rw [exec_barCfg d h, if_pos hbad]

theorem exec_barCfg_busy (h : CfgPasses s sc a ws) (hgood : s.barBad sc (namedBar s sc b) ws = false) (hbusy : (namedBar s sc b).busy = true) :
    exec (.barCfg sc d a b) s = .next (answered s.committed d 4) := by
  rw [exec_barCfg d h, if_neg (ne_true_of_eq_false hgood), if_pos hbusy]

theorem exec_barCfg_free (h : CfgPasses s sc a ws) (hgood : s.barBad sc (namedBar s sc b) ws = false) (hfree : (namedBar s sc b).busy = false) :
    exec (.barCfg sc d a b) s = .next (answered (withBar s.committed (namedKey s sc b) (barOf sc (barNode sc s.ci) ws)) d 0) := by
  rw [exec_barCfg d h, if_neg (ne_true_of_eq_false hgood), if_neg (ne_true_of_eq_false hfree)]

end

/-! ## BAR.ARR, BAR.WAIT and BAR.STAT (R236 to R238) -/

/-- What a strand sends of its own is for no granule: 0 stands in its place. -/
theorem mkSendAccess_asks (rel : Option Scope) (op : ReqOp) (dest : Dest) : (mkSendAccess rel op dest).asks 0 op dest :=
  ⟨rfl, rfl, rfl, _, rfl, rfl, rfl, rfl⟩

section
variable {s : State} {sc : Scope} {b : Reg} (hsc : sc ≠ .sys) (d a : Reg)
include hsc

/-- A strand that is no member commits and gets 0. -/
theorem exec_barArr_stranger (hm : s.memberOf sc (namedBar s sc b) = none) (hw : s.unwatched []) :
    exec (.barArr sc d b) s = .next (answered s.committed d 0) := by
  show execBarArr sc d b s = _
  simp only [execBarArr, hsc, if_false, hm, s.atCommit_ok _ _ hw]
  rfl

/-- A member three phases ahead commits and waits. -/
theorem exec_barArr_ahead {i : Nat} (hm : s.memberOf sc (namedBar s sc b) = some i) (hw : s.unwatched []) (hlead : (namedBar s sc b).leads.getD i 0 ≥ 3) :
    exec (.barArr sc d b) s = .next (s.committed.blockOn (.barArr (namedKey s sc b))) := by
  show execBarArr sc d b s = _
  simp only [execBarArr, hsc, if_false, hm, maxLead, hlead, if_true, s.commit_ok _ hw]

/-- Any other member signals the barrier's node, as a release, and gets the phase it signalled. -/
theorem exec_barArr_signals {i : Nat} (hm : s.memberOf sc (namedBar s sc b) = some i) (hw : s.unwatched []) (hlead : (namedBar s sc b).leads.getD i 0 < 3) :
    ∃ acc, exec (.barArr sc d b) s = .next (((((withBar s.committed (namedKey s sc b) (signalled (namedBar s sc b) i)).wr d
        (ofN ((namedBar s sc b).phase + (namedBar s sc b).leads.getD i 0 + 1))).issue acc).retire 32).modMe Strand.checkpoint) ∧
      acc.asks 0 (.barArrive (s.gcore (nodeCore sc (barNode sc s.ci) (namedBar s sc b).word0)) (namedKey s sc b) i) .ack ∧ acc.rel = some sc := by
  show ∃ acc, execBarArr sc d b s = _ ∧ _
  simp only [execBarArr, hsc, if_false, hm, maxLead, Nat.not_le.mpr hlead, s.atCommit_ok _ _ hw]
  exact ⟨_, rfl, mkSendAccess_asks _ _ _, rfl⟩

theorem exec_barWait_stranger (hm : s.memberOf sc (namedBar s sc b) = none) : exec (.barWait sc d a b) s = .next (s.wrote d 0) := by
  rw [← NumberFormats.setReg_eq]
  show execBarWait sc d a b s = _
  simp only [execBarWait, hsc, if_false, hm]
  rfl

/-- BAR.WAIT of a member is a timed wait for its phase counter. -/
theorem exec_barWait_member {i : Nat} (hm : s.memberOf sc (namedBar s sc b) = some i) :
    ∃ acc, exec (.barWait sc d a b) s = .next ((s.blockOn (.cwait s.me.seq (some (s.clock + (s.rd d).toNat)) false)).issue acc) ∧
      acc.asks (localAddr (s.gcore s.ci) (phaseOff sc (namedBar s sc b).pcoff s.cur)) (.wait (s.rd a)) (.wait d (s.rd a)) := by
  obtain ⟨acc, hacc, hasks, -⟩ := waitCounter_asks s d (ofN (14 * 2 ^ 60 + phaseOff sc (namedBar s sc b).pcoff s.cur))
    ⟨localAddr (s.gcore s.ci) (phaseOff sc (namedBar s sc b).pcoff s.cur), false, none⟩ (s.rd a) (some (s.rd d).toNat)
  refine ⟨acc, ?_, hasks⟩
  show execBarWait sc d a b s = _
  simp only [execBarWait, hsc, if_false, hm]
  exact congrArg _ hacc

/-- BAR.STAT of an id that is not configured answers 0. -/
theorem exec_barStat_unconfigured (hx : (namedBar s sc b).configured = false) : exec (.barStat sc d a b) s = .next (s.wrote d 0) := by
  rw [← NumberFormats.setReg_eq]
  show execBarStat sc d a b s = _
  simp only [execBarStat, hsc, if_false, hx, Bool.not_false, Bool.true_or, if_true]

/-- BAR.STAT writes its register and does nothing else. -/
theorem exec_barStat_writes : ∃ m, exec (.barStat sc d a b) s = .next (s.wrote d m) := by
  show ∃ m, execBarStat sc d a b s = _
  simp only [execBarStat, hsc, if_false, NumberFormats.setReg_eq]
  split
  · exact ⟨_, rfl⟩
  · exact ⟨_, rfl⟩

end

/-- Settles O40: each instruction is followed once for each case of the barrier that s[b] names. -/
theorem barrierInstructions : Obligations.BarrierInstructions := by
  unfold Obligations.BarrierInstructions
  intro s sc d a b key x
  refine ⟨fun hsys i hi => ?_, fun hsc => ⟨fun ws ha hloaded hw => ?_, fun hm => ?_, fun i hm hw => ?_, fun i hm => ?_, ?_, ?_⟩⟩
  · subst hsys
    simp only [List.mem_cons, List.not_mem_nil, or_false] at hi
    rcases hi with rfl | rfl | rfl | rfl <;> rfl
  · have h : CfgPasses s sc a ws := ⟨hsc, ha, hloaded, hw⟩
    exact ⟨exec_barCfg_bad d h, exec_barCfg_busy d h, fun hgood hfree => ⟨_, exec_barCfg_free d h hgood hfree, KMap.get_set s.bars key _ _,
      answered_rd _ d 0, (answered_pc _ d 0).trans (congrArg (· + 32) (committed_pc s))⟩⟩
  · exact ⟨exec_barWait_stranger hsc d a hm, exec_barArr_stranger hsc d hm⟩
  · exact ⟨exec_barArr_ahead hsc d hm hw, exec_barArr_signals hsc d hm hw⟩
  · exact exec_barWait_member hsc d a hm
  · exact exec_barStat_unconfigured hsc d a
  · exact exec_barStat_writes hsc d a

end Sys2Proof.Scheduler
end
